-- ==== Sys2Proof/Word.lean ====
section
/-! DEFINITION. The widths the spec gives its values (00 R2 to R5): the names only. -/

namespace Sys2Proof

/-- A byte. -/
abbrev Byte := BitVec 8

/-- An s register, a scalar (07 R159). -/
abbrev W64 := BitVec 64

/-- An a register, a virtual address (08 R218). -/
abbrev W72 := BitVec 72

/-- A vector register (07 R159). -/
abbrev Vec := BitVec 2048

/-- A lane mask (07 R159). -/
abbrev Mask := BitVec 512

end Sys2Proof
end

