-- ==== Sys2Proof/Config.lean ====
section
/-! DEFINITION. What an implementation fixes and the spec does not give: constants without a body, so that no proof can see
a value (assumptions 4, 5). Each free value is one of them applied to a count the state keeps (`State.free`), or to the
operands it depends on. -/

namespace Sys2Proof.Config

/-- A choice the spec leaves open (assumption 4). -/
opaque freeBit : Nat → Bool
/-- A number the spec leaves open (assumption 4). -/
opaque freeNat : Nat → Nat
/-- A byte the spec leaves open (assumption 4). -/
opaque freeByte : Nat → Byte

/-- Byte of a format window whose ranges overlap others or each other, as a fill decodes it at a wheel count (08 R215;
assumption 4): by its address, the count, and the draws made. -/
opaque freeDecoded (pa wc free : Nat) : Byte

/-- SHAKE256 with 64 bytes of output (05 R106): the standard's function, not spelled out by the spec (assumption 5). -/
opaque shakeOut : List Byte → Vector Byte 64
/-- A hash or measurement: 64 bytes. -/
def shake256 (b : List Byte) : List Byte := (shakeOut b).toList
/-- Falcon-1024: whether a signature fits a message and a public key (05; assumption 5). -/
opaque falconVerify (key message signature : List Byte) : Bool
/-- Falcon-1024 signing, in the padded format of 1,280 bytes (05 R106; assumption 5). -/
opaque signOut (key message : List Byte) : Vector Byte 1280
/-- A signature. -/
def falconSign (key message : List Byte) : List Byte := (signOut key message).toList
/-- Whether a firmware image carries a signature that verifies under the vendor firmware key: the spec gives the image no
layout (assumption 5). -/
opaque firmwareSigned : List Byte → Bool
/-- The SVN a firmware image carries, 0 to 255 (05 R109; assumption 5). -/
opaque imageSvn : List Byte → Byte
/-- The same as a number. -/
def firmwareSvn (image : List Byte) : Nat := (imageSvn image).toNat
/-- A key derived from a secret and a label (05; assumption 5). -/
opaque deriveKey (secret label : List Byte) : List Byte
/-- The public half of a key, 1,793 bytes (05 R106; assumption 5). -/
opaque publicOut (key : List Byte) : Vector Byte 1793
/-- The same as a list. -/
def publicKey (key : List Byte) : List Byte := (publicOut key).toList
/-- The unique device secret: 256 fuse bits (05 R107; assumption 5). -/
opaque udsFuses : Vector Byte 32
/-- SHAKE256 of a vendor public key, 64 bytes of fuses (05 R107; assumption 5). -/
opaque keyFuses : Nat → Vector Byte 64
/-- NID of the fabric-time master when it lies outside this package (03 R79; assumption 4). -/
opaque masterNid : BitVec 14
/-- The fuses the management core uses: 0 the unique device secret, 1 the vendor firmware key, 2 the vendor debug key (05 Table 5.1). -/
def fuse (n : Nat) : List Byte := if n = 0 then udsFuses.toList else (keyFuses n).toList

end Sys2Proof.Config
end

