-- ==== Sys2Proof/Syntax.lean ====
section
/-! DEFINITION. The steps of the machine as syntax: one constructor of `Instr` per row of the table of operations and
events. A row that is a slot operation carries the fields of its format (12 Tables 12.2 to 12.5); a row that is an event
carries the data the event brings with it. -/

namespace Sys2Proof

/-! ## Slot formats (12 Tables 12.2 to 12.5): every field, by its name in the table. -/

/-- S.R: destination, two sources, function modifier, literal word index. -/
structure SR where
  d : BitVec 6 := 0
  a : BitVec 6 := 0
  b : BitVec 6 := 0
  fn : BitVec 4 := 0
  lit : BitVec 2 := 0
  deriving DecidableEq, Repr

/-- S.I: destination, source, 12-bit immediate. -/
structure SI where
  d : BitVec 6 := 0
  a : BitVec 6 := 0
  imm : BitVec 12 := 0
  deriving DecidableEq, Repr

/-- S.L: destination, first literal word, width code. -/
structure SL where
  d : BitVec 6 := 0
  word : BitVec 2 := 0
  width : BitVec 2 := 0
  deriving DecidableEq, Repr

/-- S.B: signed displacement in bytes. -/
structure SB where
  disp : BitVec 24 := 0
  deriving DecidableEq, Repr

/-- S.P: predicates and function modifier. -/
structure SP where
  pd : BitVec 4 := 0
  pa : BitVec 4 := 0
  pb : BitVec 4 := 0
  fn : BitVec 4 := 0
  deriving DecidableEq, Repr

/-- S.M: data register, address register, landing, offset. -/
structure SM where
  reg : BitVec 6 := 0
  addr : BitVec 5 := 0
  land : BitVec 6 := 0
  off : BitVec 6 := 0
  deriving DecidableEq, Repr

/-- V.R: four register fields, mask, shape, type, literal word index. -/
structure VR where
  vd : BitVec 5 := 0
  va : BitVec 5 := 0
  vb : BitVec 5 := 0
  vc : BitVec 5 := 0
  mask : BitVec 3 := 0
  shape : BitVec 3 := 0
  type : BitVec 4 := 0
  lit : BitVec 2 := 0
  deriving DecidableEq, Repr

/-- V.M: data register, address register, landing, mask, shape, offset, space. -/
structure VM where
  v : BitVec 5 := 0
  addr : BitVec 5 := 0
  land : BitVec 8 := 0
  mask : BitVec 3 := 0
  shape : BitVec 3 := 0
  off : BitVec 6 := 0
  space : BitVec 2 := 0
  deriving DecidableEq, Repr

/-- M.T: tile, panel, accumulator, shape, type, accumulate, transpose. -/
structure MT where
  tile : BitVec 12 := 0
  panel : BitVec 6 := 0
  acc : BitVec 2 := 0
  shape : BitVec 3 := 0
  fmt : BitVec 4 := 0
  ac : Bool := false
  ta : Bool := false
  deriving DecidableEq, Repr

/-- M.S: two tiles, shape, type, 11-bit immediate. -/
structure MS where
  tile : BitVec 12 := 0
  tile2 : BitVec 12 := 0
  shape : BitVec 3 := 0
  fmt : BitVec 4 := 0
  imm : BitVec 11 := 0
  deriving DecidableEq, Repr

/-- C.N: nest set, level, bound and two stride registers. -/
structure CN where
  nest : BitVec 2 := 0
  level : BitVec 3 := 0
  bound : BitVec 6 := 0
  sstride : BitVec 6 := 0
  dstride : BitVec 6 := 0
  deriving DecidableEq, Repr

/-- C.X: nest set, two address registers, completion counter operand, format and direction, follow-on word, flags. -/
structure CX where
  nest : BitVec 2 := 0
  src : BitVec 5 := 0
  dst : BitVec 5 := 0
  cnt : BitVec 12 := 0
  fd : BitVec 4 := 0
  fol : BitVec 2 := 0
  flags : BitVec 12 := 0
  deriving DecidableEq, Repr

/-- C.D: two dimensions, send and receive tiles, operation, flags. -/
structure CD where
  dima : BitVec 4 := 0
  dimb : BitVec 4 := 0
  send : BitVec 12 := 0
  recv : BitVec 12 := 0
  op : BitVec 4 := 0
  flags : BitVec 6 := 0
  deriving DecidableEq, Repr

/-- C.A: address register, operand and result registers, landing, operation, scope. -/
structure CA where
  addr : BitVec 5 := 0
  opnd : BitVec 6 := 0
  res : BitVec 6 := 0
  land : BitVec 6 := 0
  op : BitVec 4 := 0
  scope : BitVec 2 := 0
  deriving DecidableEq, Repr

/-! ## Data that events bring -/

/-- A 64-byte flit (02 R30 Table 2.2): its header fields, payload bytes and the check as received. -/
structure Flit where
  ch : BitVec 3
  sop : Bool
  eop : Bool
  lseq : BitVec 13
  aseq : BitVec 13
  av : Bool
  payload : List Byte
  check : BitVec 32
  deriving DecidableEq, Repr

/-- A packet (03 R52 Table 3.1). -/
structure Packet where
  dst : BitVec 14 := 0
  src : BitVec 14 := 0
  type : Byte := 0
  vc1 : Bool := false
  retx : Bool := false
  syn : Bool := false
  lastp : Bool := false
  dstep : BitVec 2 := 0
  poison : Bool := false
  ddim : BitVec 4 := 0
  edim : BitVec 4 := 0
  epoch : BitVec 4 := 0
  eseq : BitVec 32 := 0
  tag : BitVec 16 := 0
  payload : List Byte := []
  deriving DecidableEq, Repr

/-- One sample of a lane's health (02 Tables 2.14 to 2.17). -/
structure Health where
  rxpwr : BitVec 16 := 0x8000
  bias : BitVec 16 := 0
  heater : BitVec 12 := 0
  ringt : BitVec 16 := 0
  lock : Bool := false
  berm : BitVec 8 := 0
  bere : BitVec 6 := 0
  eyeh : BitVec 8 := 0
  eyew : BitVec 8 := 0
  fail : Bool := false
  corr : BitVec 32 := 0
  uncw : BitVec 16 := 0
  loss : BitVec 16 := 0
  /-- of a sample: the bytes in error of each FEC codeword received since the one before (02 R29) -/
  codewords : List Nat := []
  deriving DecidableEq, Repr

/-- Why a start begins (05 R113). -/
inductive StartCause where
  | powerOn | thermalTrip | supplyEvent | pwrctl | mgmtCold | faEnter | recovery | retry | failedWarm | failedCold
  | flr | mgmtWarm | unlock | lock
  deriving DecidableEq, Repr

/-- A sweep of a gallery bank (08 R201): the rows of the bank, and the bytes of the die's panels, in which errors are found that the
code cannot correct (08 R205, 16 R412). -/
structure Sweep where
  bank : Nat
  bad : List Nat := []
  panels : List Nat := []
  /-- single-bit errors that reads have corrected since the sweep before (08 R205) -/
  corrected : Nat := 0
  deriving DecidableEq, Repr

/-- How data of a load arrive: which of the granules left (09 R242), and the lines the L1 lets go (08 Table 8.8). -/
structure Arrival where
  gran : Nat := 0
  evict : List Nat := []
  deriving DecidableEq, Repr

/-- A part of a store that reaches its home: the store, and which of its granules left (09 R242). -/
structure StorePart where
  id : Nat
  gran : Nat := 0
  deriving DecidableEq, Repr

/-- What the hardware finds in a start step (05 R113 Table 5.3): what the model does not compute itself. -/
structure StepResult where
  /-- step 1: the compute dies that failed to reach ready -/
  dieFailed : Bool := false
  /-- step 2: a fuse parity error -/
  fuseParity : Bool := false
  /-- step 5: training or the pattern test failed -/
  dramFailed : Bool := false
  /-- step 12: what firmware programs: the pool's decoder ranges (04 R84) and further pinned windows (08 R212), as base and
  size -/
  pools : List (Nat × Nat) := []
  windows : List (Nat × Nat) := []
  deriving DecidableEq, Repr

/-- A host write through a base address register (04 R85): the BAR (0, 2), or host memory itself (3), with the offset
and the bytes. -/
structure HostWrite where
  bar : Nat
  off : Nat
  bytes : List Byte
  deriving DecidableEq, Repr

/-- The engines of a die (10 Table 10.2, ENGINE). -/
inductive Engine where
  | sequencer | matrix | copy0 | copy1 | xch0 | xch1
  deriving DecidableEq, Repr

/-- The slots of a bundle, in slot order (07 Table 7.1, 12 R308). -/
inductive Slot where
  | s | v0 | v1 | m | c0 | c1
  deriving DecidableEq, Repr

/-- One row of the table of operations and events each. -/
inductive Instr where
  -- starts, power and host port (01, 05, 04)
  | coldStart (cause : StartCause)
  | warmStart (cause : StartCause)
  | startStepComplete (r : StepResult)
  | supplyEvent (rail : Nat)
  | thermalTrip (die : Nat) (temp : BitVec 12)
  | doorbell (q : Nat) (v : BitVec 32)
  | qctlWrite (q : Nat) (v : W64)
  | registerWrite (w : HostWrite)
  | hostCopyComplete (pool : Bool)
  | fqctlResume (index : BitVec 16)
  | recctlGo (v : W64)
  -- translation and format windows (08)
  | tlbInvalidate (hi : W64)
  | fmtwRetire (w : Nat)
  | fmtwRetireComplete (w : Nat)
  | fmtwEnable (w : Nat) (v : W64)
  -- link, detour and debug registers (02, 03, 10)
  | lctlEnable (die dim : Nat) (en : Bool)
  | lctlRemap (die dim : Nat)
  | lctlClrcnt (die dim : Nat)
  | lctlLsset (die dim : Nat) (ls : BitVec 2)
  | lpolWrite (die dim : Nat) (v : W64)
  | detourWrite (die dim : Nat) (v : W64)
  | digclr (die dim : Nat)
  | dbgdataAccess (die : Nat) (v : Option W64)
  -- links (02)
  | flitReceive (die dim : Nat) (f : Flit)
  | aseqReport (die dim : Nat)
  | nak (die dim : Nat) (lseq : BitVec 13)
  | mapprop (die dim : Nat) (mask : BitVec 16) (reason : Byte)
  | mapack (die dim : Nat) (mask : BitVec 16) (lseq : BitVec 13)
  | lsreq (die dim : Nat) (ls : BitVec 2)
  | lsack (die dim : Nat) (ls : BitVec 2) (rejected : Bool)
  | lsRequestHoldTimeout (die dim : Nat)
  | laneFailing (die dim lane : Nat) (rx : Bool)
  | healthSample (die dim lane : Nat) (h : Health)
  | linkTrainingComplete (die dim : Nat) (tx rx : BitVec 16)
  | remapRetrainComplete (die dim : Nat) (tx rx : BitVec 16)
  | linkStateAnnouncement (die via dim : Nat) (state : BitVec 3) (ls : BitVec 2)
  | drainResend (die dim : Nat)
  -- packets delivered to a node (03)
  | mrd (die : Nat) (p : Packet)
  | mwr (die : Nat) (p : Packet)
  | matom (die : Nat) (p : Packet)
  | msync (die : Nat) (p : Packet)
  | drain (die : Nat) (ch : BitVec 3) (p : Packet)
  | drainack (die : Nat) (p : Packet)
  | mrdr (die : Nat) (p : Packet)
  | mwrr (die : Nat) (p : Packet)
  | matomr (die : Nat) (p : Packet)
  | rtok (die : Nat) (p : Packet)
  | push (die : Nat) (ch : BitVec 3) (p : Packet)
  | eack (die : Nat) (p : Packet)
  | tsync (die : Nat) (p : Packet)
  | tsyncr (die : Nat) (p : Packet) (clean : Bool)
  | e2eTimeout (die peer cls : Nat)
  | sendEntryIdleFree (die peer cls : Nat)
  | receiveEntryIdleFree (die peer cls : Nat)
  -- gallery clock, memory and die events (07, 08, 10)
  | bankClassRise (die bank : Nat) (cls : BitVec 3)
  | bankClassFall (die bank : Nat)
  | gallerySweep (die : Nat) (w : Sweep)
  | patrolScrub (bad : List Nat)
  | atriumEviction (line : Nat)
  | landingDataArrival (die entry : Nat) (how : Arrival)
  | codeLineArrival (die : Nat) (line : Nat)
  | coldPageFetchComplete (handle page : Nat) (readError : Bool)
  | copyCommandComplete (die stream granules : Nat)
  | exchangeComplete (die stream : Nat)
  | tileLocksAcquired (die stream : Nat)
  | engineFault (die : Nat) (e : Engine)
  | xwaitExpiry (die stream : Nat)
  | waitaTimeout (die stream : Nat)
  | spillDecrement (replay node : Nat)
  -- scheduler (06, 10)
  | preloadRenewal (die row : Nat)
  | replayRetire (replay : Nat)
  | replayTimeout (replay : Nat)
  | residentRenewal (die row : Nat)
  -- S slot (14)
  | add (f : SR)
  | sub (f : SR)
  | addi (f : SI)
  | mul (f : SR)
  | mulhs (f : SR)
  | mulhb (f : SR)
  | divs (f : SR)
  | divb (f : SR)
  | rems (f : SR)
  | remb (f : SR)
  | and (f : SR)
  | or (f : SR)
  | xor (f : SR)
  | andi (f : SI)
  | ori (f : SI)
  | xori (f : SI)
  | shl (f : SR)
  | shr (f : SR)
  | sar (f : SR)
  | shli (f : SI)
  | shri (f : SI)
  | sari (f : SI)
  | min (f : SR)
  | max (f : SR)
  | minb (f : SR)
  | maxb (f : SR)
  | clz (f : SR)
  | popc (f : SR)
  | brev (f : SR)
  | exts (f : SR)
  | bfx (f : SI)
  | bfi (f : SI)
  | sel (f : SR)
  | mov (f : SR)
  | cmp (f : SR)
  | movl (f : SL)
  | cmpi (f : SI)
  | pand (f : SP)
  | por (f : SP)
  | pxor (f : SP)
  | pnot (f : SP)
  | aadd (f : SR)
  | amov (f : SR)
  | adiff (f : SR)
  | aaddi (f : SI)
  | alit (f : SL)
  | ld (size : BitVec 3) (f : SM)
  | st (size : BitVec 2) (f : SM)
  | lda (f : SM)
  | sta (f : SM)
  | spl (size : BitVec 3) (f : SM)
  | sps (size : BitVec 2) (f : SM)
  | gld (size : BitVec 3) (f : SM)
  | gst (size : BitVec 2) (f : SM)
  | br (f : SB)
  | call (f : SB)
  | jmpi (f : SR)
  | tstb (f : SR)
  | loop (f : SI)
  | setshape (f : SR)
  | getshape (f : SR)
  | node (f : SR)
  | sysr (f : SI)
  | sysw (f : SI)
  | trap (f : SI)
  | fence (f : SR)
  -- V slots (15)
  | vadd (f : VR)
  | vsub (f : VR)
  | vmul (f : VR)
  | vmulh (f : VR)
  | vmac (f : VR)
  | vadds (f : VR)
  | vsubs (f : VR)
  | vshl (f : VR)
  | vshr (f : VR)
  | vsar (f : VR)
  | vand (f : VR)
  | vor (f : VR)
  | vxor (f : VR)
  | vmin (f : VR)
  | vmax (f : VR)
  | vabs (f : VR)
  | vwiden (f : VR)
  | vnarrow (f : VR)
  | vfadd (f : VR)
  | vfsub (f : VR)
  | vfmul (f : VR)
  | vfma (f : VR)
  | vfmin (f : VR)
  | vfmax (f : VR)
  | vfsgn (f : VR)
  | vcvt (f : VR)
  | vcmp (f : VR)
  | vrcp (f : VR)
  | vrsq (f : VR)
  | vexp2 (f : VR)
  | vlog2 (f : VR)
  | vsel (f : VR)
  | kop (f : VR)
  | vperm (f : VR)
  | vrot (f : VR)
  | vbcast (f : VR)
  | vextr (f : VR)
  | vins (f : VR)
  | vreda (f : VR)
  | vredm (f : VR)
  | vld (f : VM)
  | vst (f : VM)
  | vgld (f : VM)
  | vgst (f : VM)
  | vgath (f : VR)
  | vscat (f : VR)
  -- M slot (16)
  | mma (f : MT)
  | mmai (f : MT)
  | mmap (f : MT)
  | zacc (f : MT)
  | zadd (f : MS)
  | zret (f : MT)
  | talloc (f : MS)
  | tfree (f : MS)
  | tstat (f : MS)
  | trenew (f : MS)
  | txpose (f : MS)
  | tcvt (f : MS)
  | tfill (f : MS)
  | cbld (f : MS)
  | ptb (f : MS)
  | yld (f : MT)
  | yclr (f : MT)
  -- C slots: copy, atomic, synchronisation (17)
  | cnest (f : CN)
  | cpy (f : CX)
  | cpym (f : CX)
  | tld (f : CX)
  | tst (f : CX)
  | tred (f : CX)
  | rwb (f : CX)
  | rinv (f : CX)
  | pref (f : CX)
  | amo (f : CA)
  | cas (f : CA)
  | bind (f : CX)
  | acq (f : CA)
  | rel (f : CA)
  | waita (f : CA)
  | wake (f : CA)
  | dec (f : CA)
  | scld (f : CA)
  | scst (f : CA)
  -- C slots: dimension exchange (18)
  | xch (f : CD)
  | xcc (f : CD)
  | sib (f : CD)
  | grs (f : CD)
  | dbar (f : CD)
  | xdig (f : CD)
  -- further events
  | writePerformed (die : Nat) (w : StorePart)
  | flitTransmit (die dim : Nat)
  | eackSend (die peer cls : Nat)
  | fmtwEnableComplete (w : Nat)
  | laserRampComplete (die dim : Nat)
  -- Rows that take nothing but the unit they act on (`State.unit`): they stand last.
  -- Commands and queue events: the command in progress of queue `unit` (04, 05).
  | cmdNop
  | launch
  | replayAccept
  | signal
  | wait
  | waitTimeout
  | loadco
  | freeco
  | patch
  | copy
  | attest
  | ctxsetCreate
  | ctxsetDestroy
  | keyreg
  | keylock
  | codefloor
  | fwupdate
  | svncommit
  | setpsPs1
  | setpsPs2
  | setpsPs3
  | mgmtWarmstart
  | mgmtColdstart
  | mgmtNonce
  | mgmtUnlock
  | mgmtLock
  | mgmtFaenter
  | qstatHaltedResume
  -- Events of die `unit` (03, 05, 06, 10).
  | fstatClr
  | debugHalt
  | debugResume
  | debugStep
  | haltCascadeNotice
  | ftcSyncPeriod
  | ftcSampleTimeout
  | matrixCommandComplete
  | taskDispatch
  | taskEnd
  | budgetOverrun
  | preemptionPoint
  | saveComplete
  | restoreComplete
  -- Events of the package.
  | staggeredPowerUp
  | functionLevelReset
  | psExitComplete
  | queueSelect
  | pwrctlCold
  | tlbInvalidateComplete
  | lightingSlot
  | policyWindow
  | dieCycle
  | startRetryAfterTrip
  | vector65IntervalEnd
  -- Slot operations whose fields are all zero (14 R359, R365, R373, R376).
  | nop
  | ret
  | fend
  | tret
  deriving DecidableEq, Repr

end Sys2Proof
end

