-- ==== Sys2Proof/WellFormed.lean ====
section
/-! DEFINITION. The encodings that do not trap ILLEGAL whatever the state (12 R312, R313; 13 R333; the field tables of
14 to 18), and the ranges of what an event names. `Instr.problem` answers the first check that fails, by name. -/

namespace Sys2Proof

/-- The named checks. -/
inductive Illegal where
  /-- A selector value as a destination (07 R159, 12 R313). -/
  | selectorDestination
  /-- High bits of a register field set (12 R313). -/
  | registerField
  /-- A field the opcode does not use is nonzero (12 R312). -/
  | unusedField
  /-- A function modifier, immediate or operation value its description calls reserved (12 R312). -/
  | reservedValue
  /-- A type code the opcode does not accept (12 R312, 13 R333). -/
  | reservedType
  /-- A landing of zero where one is needed, or a landing where none is carried (07 R172, 14 R354, 17 R443). -/
  | landingField
  /-- A space the opcode does not accept (12 R312, 13 R332). -/
  | reservedSpace
  /-- A level field of 6 or 7 (12 R312). -/
  | reservedLevel
  /-- A dimension field of 15 where a dimension is required (18 R455), or lo above hi (18 R458). -/
  | dimensionField
  /-- Two tile fields name one tile (16 R408, 18 R458). -/
  | sameTile
  /-- An unassigned opcode of its slot (13 R336). -/
  | unassigned
  /-- A system register index the table does not list (14 R368). -/
  | systemIndex
  /-- An event that names a unit the package does not have. -/
  | eventRange
  deriving DecidableEq, Repr

/-- The first check of a list that fails. -/
def firstBad : List (Bool × Illegal) → Option Illegal
  | [] => none
  | (ok, why) :: r => if ok then firstBad r else some why

/-! ## Register fields -/

/-- An s register as a destination (12 R313: field 63 is a source only). -/
def sDest (d : BitVec 6) : Bool × Illegal := (d != 63, .selectorDestination)
/-- An a register named by a six-bit field, as a source (12 R313). -/
def aSrc (f : BitVec 6) : Bool × Illegal := (f.toNat < 32, .registerField)
/-- An a register named by a six-bit field, as a destination: bit 5 zero and not 31. -/
def aDest (f : BitVec 6) : Bool × Illegal := (f.toNat < 31, if f = 31 then .selectorDestination else .registerField)
/-- A p register named by a six-bit field. -/
def pField (f : BitVec 6) : Bool × Illegal := (f.toNat < 16, .registerField)
/-- An h register named by a six-bit field. -/
def hField (f : BitVec 6) : Bool × Illegal := (f.toNat < 8, .registerField)
/-- A v register as a destination. -/
def vDest (d : BitVec 5) : Bool × Illegal := (d != 31, .selectorDestination)
/-- A k register as a source: bits 4:3 zero (15 R379). -/
def kSrc (f : BitVec 5) : Bool × Illegal := (f.toNat < 8, .registerField)
/-- A k register as a destination: not k0 (07 R159). -/
def kDest (f : BitVec 5) : Bool × Illegal := (f.toNat < 8 && f != 0, if f = 0 then .selectorDestination else .registerField)
/-- A field the opcode leaves unused. -/
def zero {n : Nat} (f : BitVec n) : Bool × Illegal := (f == 0, .unusedField)
/-- A flag bit the opcode leaves unused. -/
def clear (f : Bool) : Bool × Illegal := (!f, .unusedField)
/-- The literal index is zero unless some source field reads the pool (14 R342, 15 R379). -/
def litOnly (used : Bool) (lit : BitVec 2) : Bool × Illegal := (used || lit == 0, .unusedField)

/-! ## Type sets (15 R380) -/

def isI (t : BitVec 4) : Bool := t.toNat ≤ 4
def isF (t : BitVec 4) : Bool := 7 ≤ t.toNat && t.toNat ≤ 10
def isA (t : BitVec 4) : Bool := t.toNat ≤ 13
/-- Codes of set A whose element is 8 bits or wider. -/
def isA8 (t : BitVec 4) : Bool := t.toNat ≤ 10 || t.toNat == 13
/-- The unsigned bit is allowed with INT16, INT32 and INT64 only (15 R380). -/
def uOk (t : BitVec 4) (u : Bool) : Bool × Illegal := (!u || (2 ≤ t.toNat && t.toNat ≤ 4), .reservedValue)
/-- Element width in bits of a type code (11 Tables 11.1, 11.2; 12 Table 12.6). -/
def typeWidth (t : BitVec 4) : Nat :=
  match t.toNat with
  | 0 | 1 | 5 | 6 | 13 => 8
  | 2 | 7 | 8 => 16
  | 3 | 9 => 32
  | 4 | 10 => 64
  | _ => 4

/-! ## Formats -/

/-- S.R with two s sources and an s destination. -/
def srTwo (f : SR) : Option Illegal :=
  firstBad [sDest f.d, zero f.fn, litOnly (f.a == 63 || f.b == 63) f.lit]
/-- S.R with one s source and an s destination (14 R343). -/
def srOne (f : SR) : Option Illegal :=
  firstBad [sDest f.d, zero f.b, zero f.fn, litOnly (f.a == 63) f.lit]
/-- S.I shift: the amount is 0 to 63 (14 R347). -/
def siShift (f : SI) : Option Illegal := firstBad [sDest f.d, (f.imm.toNat < 64, .reservedValue)]
/-- BFX and BFI: lsb + width is at most 64 (14 R347). -/
def siField (f : SI) : Option Illegal :=
  firstBad [sDest f.d, ((f.imm.extractLsb' 0 6).toNat + (f.imm.extractLsb' 6 6).toNat + 1 ≤ 64, .reservedValue)]
/-- Whether a system register index is listed, and which file it uses (14 Table 14.4): `some true` is the a file. -/
def sysFile (i : Nat) : Option Bool :=
  if i = 0x12 ∨ i = 0x15 then some true
  else if i ≤ 3 ∨ (8 ≤ i ∧ i ≤ 0xb) ∨ (0x10 ≤ i ∧ i ≤ 0x16) ∨ (0x20 ≤ i ∧ i ≤ 0x23) ∨ (0x28 ≤ i ∧ i ≤ 0x2a)
      ∨ (0x30 ≤ i ∧ i ≤ 0x35) ∨ (0x40 ≤ i ∧ i ≤ 0x47) then some false
  else none
/-- Vector operation with two sources and vc = 0. -/
def vrTwo (ok : BitVec 4 → Bool) (f : VR) : Option Illegal :=
  firstBad [vDest f.vd, zero f.vc, (ok f.type, .reservedType), litOnly (f.va == 31 || f.vb == 31) f.lit]
/-- Vector operation with two sources and the unsigned bit in vc. -/
def vrTwoU (f : VR) : Option Illegal :=
  firstBad [vDest f.vd, (f.vc.toNat ≤ 1, .unusedField), (isI f.type, .reservedType), uOk f.type (f.vc == 1),
    litOnly (f.va == 31 || f.vb == 31) f.lit]
/-- Vector operation with three sources. -/
def vrThree (ok : BitVec 4 → Bool) (f : VR) : Option Illegal :=
  firstBad [vDest f.vd, (ok f.type, .reservedType), litOnly (f.va == 31 || f.vb == 31 || f.vc == 31) f.lit]
/-- Vector operation with one source and vb = vc = 0. -/
def vrOne (ok : BitVec 4 → Bool) (f : VR) : Option Illegal :=
  firstBad [vDest f.vd, zero f.vb, zero f.vc, (ok f.type, .reservedType), litOnly (f.va == 31) f.lit]
/-- VCVT (15 R383, R388). -/
def vrCvt (f : VR) : Option Illegal :=
  let src := f.vc.extractLsb' 0 4
  let ok (t : BitVec 4) : Bool := isI t || isF t || t == 5 || t == 6
  let ws := typeWidth src
  let wd := typeWidth f.type
  let r := Nat.max ws wd / Nat.min ws wd
  let p := (f.vb.extractLsb' 0 3).toNat
  firstBad [vDest f.vd, (f.vc.toNat < 16, .unusedField), (ok f.type && ok src, .reservedType), (p < r, .reservedValue),
    uOk src (f.vb.getLsbD 3), uOk f.type (f.vb.getLsbD 4), litOnly (f.va == 31) f.lit]
/-- KOP (15 R390). -/
def vrKop (f : VR) : Option Illegal :=
  let fn := f.vc.toNat
  firstBad [kDest f.vd, kSrc f.va, kSrc f.vb, (fn ≤ 8, .reservedValue), (fn < 4 || f.vb == 0, .unusedField),
    (fn < 7 || f.va == 0, .unusedField), (isA f.type, .reservedType), zero f.lit]
/-- Completion counter operand of C.X (17 R434). -/
def cntOk (c : BitVec 12) : Bool × Illegal := (c.toNat < 128 && (c.getLsbD 6 || c == 0), .unusedField)
/-- An a register that the table pairs with the next one (17 R434). -/
def aPair (a : BitVec 5) : Bool × Illegal := (a.toNat < 30, .registerField)
/-- The result and landing fields of a C.A command that returns a value (17 R443). -/
def resLand (res land : BitVec 6) : Bool × Illegal := ((res == 0) == (land == 0), .landingField)

/-- What a die, dimension and so on may be. -/
def dieOk (i : Nat) : Bool × Illegal := (i < 16, .eventRange)
def dimOk (i d : Nat) : Bool × Illegal := (i < 16 && d < 14, .eventRange)
def queueOk (q : Nat) : Option Illegal := firstBad [(q < 64, .eventRange)]
def linkOk (i d : Nat) : Option Illegal := firstBad [dimOk i d]
def packetOk (i : Nat) (p : Packet) : Option Illegal := firstBad [dieOk i, (p.payload.length ≤ 1024, .eventRange)]

/-- The first check an instruction or event fails. -/
def Instr.problem : Instr → Option Illegal
  | .coldStart _ => none
  | .warmStart _ => none
  | .startStepComplete _ => none
  | .supplyEvent r => firstBad [(r < 13, .eventRange)]
  | .thermalTrip d _ => firstBad [(d < 20, .eventRange)]
  | .doorbell q _ => queueOk q
  | .qctlWrite q _ => queueOk q
  | .registerWrite w => firstBad [(w.bar = 0 || w.bar = 2 || w.bar = 3, .eventRange)]
  | .hostCopyComplete _ => none
  | .fqctlResume i => firstBad [(i.toNat < 4096, .eventRange)]
  | .recctlGo _ => none
  | .tlbInvalidate _ => none
  | .fmtwRetire w => firstBad [(w < 16, .eventRange)]
  | .fmtwRetireComplete w => firstBad [(w < 16, .eventRange)]
  | .fmtwEnable w _ => firstBad [(w < 16, .eventRange)]
  | .lctlEnable i d _ => linkOk i d
  | .lctlRemap i d => linkOk i d
  | .lctlClrcnt i d => linkOk i d
  | .lctlLsset i d _ => linkOk i d
  | .lpolWrite i d _ => linkOk i d
  | .detourWrite i d _ => linkOk i d
  | .digclr i d => linkOk i d
  | .dbgdataAccess i _ => firstBad [dieOk i]
  | .flitReceive i d f => firstBad [dimOk i d, (f.payload.length = 56, .eventRange)]
  | .aseqReport i d => linkOk i d
  | .nak i d _ => linkOk i d
  | .mapprop i d _ _ => linkOk i d
  | .mapack i d _ _ => linkOk i d
  | .lsreq i d _ => linkOk i d
  | .lsack i d _ _ => linkOk i d
  | .lsRequestHoldTimeout i d => linkOk i d
  | .laneFailing i d l _ => firstBad [dimOk i d, (l < 16, .eventRange)]
  | .healthSample i d l _ => firstBad [dimOk i d, (l < 16, .eventRange)]
  | .linkTrainingComplete i d _ _ => linkOk i d
  | .remapRetrainComplete i d _ _ => linkOk i d
  | .linkStateAnnouncement i e d ls _ => firstBad [dimOk i d, dimOk i e, (ls.toNat < 6, .eventRange)]
  | .drainResend i d => linkOk i d
  | .mrd i p => packetOk i p
  | .mwr i p => packetOk i p
  | .matom i p => packetOk i p
  | .msync i p => packetOk i p
  | .drain i ch p => (firstBad [(ch.toNat < 5, .eventRange)]).or (packetOk i p)
  | .drainack i p => packetOk i p
  | .mrdr i p => packetOk i p
  | .mwrr i p => packetOk i p
  | .matomr i p => packetOk i p
  | .rtok i p => packetOk i p
  | .push i ch p => (firstBad [(ch = 3 || ch = 4, .eventRange)]).or (packetOk i p)
  | .eack i p => packetOk i p
  | .tsync i p => packetOk i p
  | .tsyncr i p _ => packetOk i p
  | .e2eTimeout i p c => firstBad [dieOk i, (p < 16384 && c < 4, .eventRange)]
  | .sendEntryIdleFree i p c => firstBad [dieOk i, (p < 16384 && c < 4, .eventRange)]
  | .receiveEntryIdleFree i p c => firstBad [dieOk i, (p < 16384 && c < 4, .eventRange)]
  | .bankClassRise i b c => firstBad [dieOk i, (b < 16 && c.toNat ≤ 4, .eventRange)]
  | .bankClassFall i b => firstBad [dieOk i, (b < 16, .eventRange)]
  | .gallerySweep i w =>
    firstBad [dieOk i, (w.bank < 16, .eventRange), (w.bad.all fun r => r < 2 ^ 14, .eventRange), (w.panels.all fun y => y < 2 ^ 25, .eventRange)]
  | .patrolScrub _ => none
  | .atriumEviction _ => none
  | .landingDataArrival i _ _ => firstBad [dieOk i]
  | .codeLineArrival i _ => firstBad [dieOk i]
  | .coldPageFetchComplete _ _ _ => none
  | .copyCommandComplete i n _ => firstBad [dieOk i, (n < 2, .eventRange)]
  | .exchangeComplete i n => firstBad [dieOk i, (n < 2, .eventRange)]
  | .tileLocksAcquired i n => firstBad [dieOk i, (n < 2, .eventRange)]
  | .engineFault i _ => firstBad [dieOk i]
  | .xwaitExpiry i n => firstBad [dieOk i, (n < 2, .eventRange)]
  | .waitaTimeout i n => firstBad [dieOk i, (n < 2, .eventRange)]
  | .spillDecrement _ n => firstBad [(n < 65536, .eventRange)]
  | .preloadRenewal i r => firstBad [dieOk i, (r < 262144, .eventRange)]
  | .replayRetire _ => none
  | .replayTimeout _ => none
  | .residentRenewal i r => firstBad [dieOk i, (r < 262144, .eventRange)]
  -- S slot (14 R342 to R376)
  | .add f => srTwo f
  | .sub f => srTwo f
  | .addi f => firstBad [sDest f.d]
  | .mul f => srTwo f
  | .mulhs f => srTwo f
  | .mulhb f => srTwo f
  | .divs f => srTwo f
  | .divb f => srTwo f
  | .rems f => srTwo f
  | .remb f => srTwo f
  | .and f => srTwo f
  | .or f => srTwo f
  | .xor f => srTwo f
  | .andi f => firstBad [sDest f.d]
  | .ori f => firstBad [sDest f.d]
  | .xori f => firstBad [sDest f.d]
  | .shl f => srTwo f
  | .shr f => srTwo f
  | .sar f => srTwo f
  | .shli f => siShift f
  | .shri f => siShift f
  | .sari f => siShift f
  | .min f => srTwo f
  | .max f => srTwo f
  | .minb f => srTwo f
  | .maxb f => srTwo f
  | .clz f => srOne f
  | .popc f => srOne f
  | .brev f => srOne f
  | .exts f => firstBad [sDest f.d, zero f.b, (f.fn.toNat ≤ 2, .reservedValue), litOnly (f.a == 63) f.lit]
  | .bfx f => siField f
  | .bfi f => siField f
  | .sel f => firstBad [sDest f.d, litOnly (f.a == 63 || f.b == 63) f.lit]
  | .mov f => srOne f
  | .cmp f => firstBad [pField f.d, (f.fn.toNat ≤ 11, .reservedValue), litOnly (f.a == 63 || f.b == 63) f.lit]
  | .movl f => firstBad [sDest f.d, (f.width != 3, .reservedValue)]
  | .cmpi f => firstBad [pField f.d]
  | .pand f => firstBad [(f.fn.toNat < 8, .reservedValue)]
  | .por f => firstBad [(f.fn.toNat < 8, .reservedValue)]
  | .pxor f => firstBad [(f.fn.toNat < 8, .reservedValue)]
  | .pnot f => firstBad [zero f.pb, zero f.fn]
  | .aadd f => firstBad [aDest f.d, aSrc f.a, zero f.fn, litOnly (f.a == 31 || f.b == 63) f.lit]
  | .amov f =>
      match f.fn.toNat with
      | 0 | 1 => firstBad [aDest f.d, zero f.b, litOnly (f.a == 63) f.lit]
      | 2 | 3 => firstBad [sDest f.d, aSrc f.a, zero f.b, litOnly (f.a == 31) f.lit]
      | 4 => firstBad [aDest f.d, aSrc f.a, zero f.b, litOnly (f.a == 31) f.lit]
      | _ => some .reservedValue
  | .adiff f => firstBad [sDest f.d, aSrc f.a, aSrc f.b, zero f.fn, litOnly (f.a == 31 || f.b == 31) f.lit]
  | .aaddi f => firstBad [aDest f.d, aSrc f.a]
  | .alit f => firstBad [aDest f.d, (f.width != 3 || f.word == 0, .reservedValue)]
  | .ld size f => firstBad [(size != 7, .unassigned), sDest f.reg, (f.land != 0, .landingField)]
  | .st _ f => firstBad [(f.land == 0, .landingField)]
  | .lda f => firstBad [aDest f.reg, (f.land != 0, .landingField)]
  | .sta f => firstBad [aSrc f.reg, (f.land == 0, .landingField)]
  | .spl size f => firstBad [(size != 7, .unassigned), sDest f.reg, (f.land == 0, .landingField)]
  | .sps _ f => firstBad [(f.land == 0, .landingField)]
  | .gld size f => firstBad [(size != 7, .unassigned), sDest f.reg, (f.land == 0, .landingField)]
  | .gst _ f => firstBad [(f.land == 0, .landingField)]
  | .br _ => none
  | .call _ => none
  | .jmpi f => firstBad [sDest f.d, zero f.b, zero f.fn, litOnly (f.a == 63) f.lit]
  | .tstb f =>
      match (f.fn.extractLsb' 0 2).toNat with
      | 0 => firstBad [clear (f.fn.getLsbD 3), zero f.b]
      | 1 => firstBad [clear (f.fn.getLsbD 3), zero f.b, zero f.d, (f.a.toNat < 4, .unusedField)]
      | 2 => firstBad [clear (f.fn.getLsbD 3), zero f.b, zero f.d, zero f.a]
      | _ => some .reservedValue
  | .loop f =>
      let levels := (f.imm.extractLsb' 7 2).toNat + 1
      firstBad [pField f.d, (levels ≤ 3, .reservedValue), (f.imm.toNat < 512, .unusedField),
        (f.a.toNat + levels - 1 ≤ 62, .registerField)]
  | .setshape f => firstBad [hField f.d, zero f.b, zero f.fn, litOnly (f.a == 63) f.lit]
  | .getshape f => firstBad [sDest f.d, hField f.a, zero f.b, (f.fn.toNat ≤ 1, .reservedValue), zero f.lit]
  | .node f =>
      let reads : Bool := f.fn == 4 || f.fn == 6
      firstBad [sDest f.d, (f.fn.toNat ≤ 6, .reservedValue), (reads || f.a == 0, .unusedField), zero f.b,
        litOnly (reads && f.a == 63) f.lit]
  | .sysr f =>
      match sysFile f.imm.toNat with
      | none => some .systemIndex
      | some true => firstBad [aDest f.d, zero f.a]
      | some false => firstBad [sDest f.d, zero f.a]
  | .sysw f =>
      match sysFile f.imm.toNat with
      | none => some .systemIndex
      | some true => firstBad [aSrc f.a, zero f.d]
      | some false => firstBad [zero f.d]
  | .trap f => firstBad [zero f.d]
  | .fence f => firstBad [zero f.d, zero f.a, zero f.b, ((f.fn.extractLsb' 2 2) != 0, .reservedValue), zero f.lit]
  -- V slots (15 Table 15.1)
  | .vadd f => vrTwo isI f
  | .vsub f => vrTwo isI f
  | .vmul f => vrTwo isI f
  | .vmulh f => vrTwoU f
  | .vmac f => vrThree isI f
  | .vadds f => vrTwoU f
  | .vsubs f => vrTwoU f
  | .vshl f => vrTwo isI f
  | .vshr f => vrTwo isI f
  | .vsar f => vrTwo isI f
  | .vand f => vrTwo isA f
  | .vor f => vrTwo isA f
  | .vxor f => vrTwo isA f
  | .vmin f => vrTwoU f
  | .vmax f => vrTwoU f
  | .vabs f => vrOne (fun t => isI t && t != 1) f
  | .vwiden f =>
      firstBad [vDest f.vd, (f.vb.toNat ≤ 1, .unusedField), (f.vc.toNat ≤ 1, .unusedField), (f.type.toNat ≤ 3, .reservedType),
        uOk f.type (f.vc == 1), litOnly (f.va == 31) f.lit]
  | .vnarrow f =>
      firstBad [vDest f.vd, (f.vb.toNat ≤ 1, .unusedField), (f.vc.toNat ≤ 3, .unusedField), (f.type.toNat ≤ 3, .reservedType),
        uOk f.type (f.vc.getLsbD 0), litOnly (f.va == 31) f.lit]
  | .vfadd f => vrTwo isF f
  | .vfsub f => vrTwo isF f
  | .vfmul f => vrTwo isF f
  | .vfma f => vrThree isF f
  | .vfmin f => vrTwo isF f
  | .vfmax f => vrTwo isF f
  | .vfsgn f =>
      firstBad [vDest f.vd, (f.vc.toNat < 4, .unusedField), (f.vc != 3, .reservedValue), (isF f.type, .reservedType),
        litOnly (f.va == 31 || f.vb == 31) f.lit]
  | .vcvt f => vrCvt f
  | .vcmp f =>
      firstBad [kDest f.vd, (f.vc.toNat < 16, .unusedField), (isI f.type || isF f.type, .reservedType),
        uOk f.type (f.vc.getLsbD 0), (isF f.type || f.vc.toNat < 12, .reservedValue),
        litOnly (f.va == 31 || f.vb == 31) f.lit]
  | .vrcp f => vrOne (fun t => isF t && t != 10) f
  | .vrsq f => vrOne (fun t => isF t && t != 10) f
  | .vexp2 f => vrOne (fun t => isF t && t != 10) f
  | .vlog2 f => vrOne (fun t => isF t && t != 10) f
  | .vsel f =>
      firstBad [vDest f.vd, kSrc f.vc, (isA f.type, .reservedType), litOnly (f.va == 31 || f.vb == 31) f.lit]
  | .kop f => vrKop f
  | .vperm f => vrTwo isA8 f
  | .vrot f =>
      firstBad [vDest f.vd, (f.vc.toNat ≤ 1, .unusedField), (isA8 f.type, .reservedType),
        litOnly (f.va == 31 || f.vb == 31) f.lit]
  | .vbcast f => vrTwo isA8 f
  | .vextr f => vrThree isA8 f
  | .vins f => vrTwo isA8 f
  | .vreda f =>
      firstBad [vDest f.vd, zero f.vb, (f.vc.toNat ≤ 1, .unusedField), (isI f.type || isF f.type, .reservedType),
        uOk f.type (f.vc == 1), litOnly (f.va == 31) f.lit]
  | .vredm f =>
      firstBad [vDest f.vd, zero f.vb, (f.vc.toNat ≤ 3, .unusedField), (isI f.type || isF f.type, .reservedType),
        uOk f.type (f.vc.getLsbD 0), litOnly (f.va == 31) f.lit]
  | .vld f =>
      firstBad [vDest f.v, (f.space.toNat ≤ 1, .reservedSpace), ((f.space == 0) == (f.land != 0), .landingField)]
  | .vst f => firstBad [(f.space.toNat ≤ 1, .reservedSpace), (f.land == 0, .landingField)]
  | .vgld f => firstBad [vDest f.v, (f.space == 0, .reservedSpace), aPair f.addr, (f.land != 0, .landingField)]
  | .vgst f => firstBad [(f.space == 0, .reservedSpace), aPair f.addr, (f.land == 0, .landingField)]
  | .vgath f =>
      firstBad [vDest f.vd, (isA f.type && 16 ≤ typeWidth f.type, .reservedType),
        (typeWidth f.type < 32 || f.vc == 0, .unusedField), litOnly (f.va == 31 || f.vb == 31 || f.vc == 31) f.lit]
  | .vscat f =>
      firstBad [(isA f.type && 16 ≤ typeWidth f.type, .reservedType), (typeWidth f.type < 32 || f.vc == 0, .unusedField),
        litOnly (f.vd == 31 || f.va == 31 || f.vb == 31 || f.vc == 31) f.lit]
  -- M slot (16 Tables 16.1, 16.2)
  | .mma f => firstBad [(5 ≤ f.fmt.toNat && f.fmt.toNat ≤ 10, .reservedType)]
  | .mmai f => firstBad [(f.fmt.toNat ≤ 1, .reservedType)]
  | .mmap f => firstBad [(f.fmt == 11, .reservedType)]
  | .zacc f =>
      firstBad [zero f.tile, zero f.panel, (f.fmt == 3 || f.fmt == 9 || f.fmt == 10, .reservedType), clear f.ac, clear f.ta]
  | .zadd f => firstBad [zero f.tile, zero f.tile2, zero f.fmt, (f.imm.toNat < 64, .unusedField)]
  | .zret f => firstBad [zero f.panel, zero f.fmt, clear f.ac]
  | .talloc f => firstBad [(f.fmt.toNat ≤ 13, .reservedType), clear (f.imm.getLsbD 10)]
  | .tfree f => firstBad [zero f.tile2, zero f.shape, zero f.fmt, zero f.imm]
  | .tstat f => firstBad [zero f.shape, zero f.fmt, clear (f.imm.getLsbD 10)]
  | .trenew f => firstBad [zero f.tile2, zero f.shape, zero f.fmt, zero f.imm]
  | .txpose f => firstBad [zero f.fmt, zero f.imm]
  | .tcvt f => firstBad [zero f.fmt, zero f.imm]
  | .tfill f => firstBad [zero f.tile2, zero f.fmt]
  | .cbld f => firstBad [zero f.tile2, zero f.shape, zero f.fmt, (f.imm.toNat < 16, .unusedField)]
  | .ptb f => firstBad [zero f.tile, zero f.tile2, zero f.shape, zero f.fmt, (f.imm.toNat < 256, .unusedField)]
  | .yld f => firstBad [zero f.acc, (f.fmt.toNat ≤ 11, .reservedType), clear f.ac]
  | .yclr f =>
      firstBad [(f.tile.toNat < 64, .unusedField), zero f.acc, zero f.shape, zero f.fmt, clear f.ac, clear f.ta,
        (f.panel.toNat + f.tile.toNat ≤ 63, .reservedValue)]
  -- C slots (17 Tables 17.2, 17.3; 18 Table 18.1)
  | .cnest f => firstBad [(f.level.toNat < 6, .reservedLevel)]
  | .cpy f =>
      firstBad [cntOk f.cnt, (f.fd.toNat ≤ 1, .reservedValue), zero f.fol, (f.fd == 1 || f.flags == 0, .unusedField)]
  | .cpym f => firstBad [cntOk f.cnt, (f.fd.toNat ≤ 1, .reservedValue), (f.fd == 1 || f.flags == 0, .unusedField)]
  | .tld f => firstBad [zero f.nest, aPair f.src, zero f.dst, cntOk f.cnt, zero f.fd, zero f.fol]
  | .tst f => firstBad [zero f.nest, zero f.src, aPair f.dst, cntOk f.cnt, zero f.fd, zero f.fol]
  | .tred f => firstBad [zero f.nest, zero f.src, aPair f.dst, cntOk f.cnt, (f.fd.toNat ≤ 2, .reservedValue), zero f.fol]
  | .rwb f => firstBad [zero f.dst, zero f.cnt, (f.fd.toNat < 4, .unusedField), zero f.fol, zero f.flags]
  | .rinv f => firstBad [zero f.dst, zero f.cnt, (f.fd.toNat < 4, .unusedField), zero f.fol, zero f.flags]
  | .pref f => firstBad [zero f.dst, zero f.cnt, (f.fd.toNat ≤ 1, .reservedValue), zero f.fol, zero f.flags]
  | .amo f => firstBad [sDest f.res, resLand f.res f.land]
  | .cas f =>
      firstBad [(f.op.toNat ≤ 2, .reservedValue), (f.opnd.toNat ≤ (if f.op = 2 then 59 else 61), .registerField),
        (f.res.toNat ≤ (if f.op = 2 then 61 else 62), .selectorDestination), resLand f.res f.land]
  | .bind f =>
      firstBad [zero f.nest, zero f.cnt, (f.fd.toNat ≤ 1, .unusedField), zero f.fol,
        (f.fd == 0 || (f.src == 0 && f.dst == 0 && f.flags.toNat < 64), .unusedField)]
  | .acq f => firstBad [zero f.opnd, sDest f.res, resLand f.res f.land, zero f.op]
  | .rel f => firstBad [zero f.res, zero f.land, zero f.op]
  | .waita f =>
      firstBad [(1 ≤ f.res.toNat && f.res.toNat ≤ 61, .registerField), (f.land != 0, .landingField), zero f.scope]
  | .wake f => firstBad [zero f.opnd, zero f.res, zero f.land, zero f.op, zero f.scope]
  | .dec f => firstBad [(f.opnd != 63, .reservedValue), zero f.addr, zero f.res, zero f.land, zero f.op, zero f.scope]
  | .scld f => firstBad [zero f.opnd, sDest f.res, resLand f.res f.land, (f.op.toNat ≤ 1, .reservedValue), zero f.scope]
  | .scst f => firstBad [zero f.res, zero f.land, (f.op.toNat ≤ 1, .reservedValue), zero f.scope]
  | .xch f =>
      firstBad [(f.dima != 15, .dimensionField), (f.dimb == 15, .unusedField), (f.send != f.recv, .sameTile), zero f.op,
        zero f.flags]
  | .xcc f =>
      firstBad [(f.dima != 15, .dimensionField), (f.dimb == 15, .unusedField), (f.send != f.recv, .sameTile),
        (f.op.toNat ≤ 6, .reservedValue), zero f.flags]
  | .sib f =>
      firstBad [(f.dima != 15 && f.dimb != 15, .dimensionField), (f.send != f.recv, .sameTile), zero f.op,
        (f.flags.toNat ≤ 1, .unusedField)]
  | .grs f =>
      firstBad [(f.dima != 15 && f.dimb != 15 && f.dima.toNat ≤ f.dimb.toNat, .dimensionField), (f.send != f.recv, .sameTile),
        zero f.op, (f.flags.toNat ≤ 1, .unusedField)]
  | .dbar f => firstBad [zero f.dima, zero f.dimb, (f.recv.toNat < 4, .unusedField), zero f.op, (f.flags.toNat ≤ 1, .unusedField)]
  | .xdig f => firstBad [(f.dima != 15, .dimensionField), zero f.send, zero f.op, zero f.flags]
  | .writePerformed i _ => firstBad [dieOk i]
  | .flitTransmit i d => linkOk i d
  | .eackSend i p c => firstBad [dieOk i, (p < 16384 && c < 4, .eventRange)]
  | .fmtwEnableComplete w => firstBad [(w < 16, .eventRange)]
  | .laserRampComplete i d => linkOk i d
  | .cmdNop => none
  | .launch => none
  | .replayAccept => none
  | .signal => none
  | .wait => none
  | .waitTimeout => none
  | .loadco => none
  | .freeco => none
  | .patch => none
  | .copy => none
  | .attest => none
  | .ctxsetCreate => none
  | .ctxsetDestroy => none
  | .keyreg => none
  | .keylock => none
  | .codefloor => none
  | .fwupdate => none
  | .svncommit => none
  | .setpsPs1 => none
  | .setpsPs2 => none
  | .setpsPs3 => none
  | .mgmtWarmstart => none
  | .mgmtColdstart => none
  | .mgmtNonce => none
  | .mgmtUnlock => none
  | .mgmtLock => none
  | .mgmtFaenter => none
  | .qstatHaltedResume => none
  | .fstatClr => none
  | .debugHalt => none
  | .debugResume => none
  | .debugStep => none
  | .haltCascadeNotice => none
  | .ftcSyncPeriod => none
  | .ftcSampleTimeout => none
  | .matrixCommandComplete => none
  | .taskDispatch => none
  | .taskEnd => none
  | .budgetOverrun => none
  | .preemptionPoint => none
  | .saveComplete => none
  | .restoreComplete => none
  | .staggeredPowerUp => none
  | .functionLevelReset => none
  | .psExitComplete => none
  | .queueSelect => none
  | .pwrctlCold => none
  | .tlbInvalidateComplete => none
  | .lightingSlot => none
  | .policyWindow => none
  | .dieCycle => none
  | .startRetryAfterTrip => none
  | .vector65IntervalEnd => none
  | .nop => none
  | .ret => none
  | .fend => none
  | .tret => none

/-- An instruction the hardware accepts in its encoding, or an event that names existing units. -/
abbrev WellFormed (i : Instr) : Prop := i.problem = none

end Sys2Proof
end

