-- ==== Sys2Proof/Decode.lean ====
section
/-! DEFINITION. Bundles, slots and their encodings (12 R308 to R314, 13 Tables 13.1 to 13.5): the decoder, total on any
bytes and rejecting by name, and after it the encoder, written from the same tables. -/

namespace Sys2Proof

/-- What a slot's bits stand for. -/
inductive Decoded where
  | ok (i : Instr)
  | bad (why : Illegal)
  deriving DecidableEq, Repr

/-- Slot prefix (12 R311): guard predicate, inversion, hold count. -/
structure Pfx where
  guard : BitVec 4 := 0
  inv : Bool := false
  hold : BitVec 3 := 0
  deriving DecidableEq, Repr

/-- One present slot of a bundle. -/
structure SlotOp where
  slot : Slot
  pfx : Pfx
  op : Decoded
  deriving DecidableEq, Repr

/-- A bundle (12 R308): its present slots in slot order, its literal words and its length in bytes. -/
structure Bundle where
  slots : List SlotOp
  lits : List (BitVec 32)
  len : Nat
  deriving DecidableEq, Repr

/-- Why bytes are no bundle (12 R309). -/
inductive BundleError where
  /-- Header 0x00: no bundle follows in this line. -/
  | padding
  /-- A header with no slot and n of 1 to 3. -/
  | noSlots
  /-- The bundle passes the end of its line, or of what line 31 may hold. -/
  | lineRule
  deriving DecidableEq, Repr

/-- The opcode of a slot class is legal only when the whole instruction passes its checks (12 R312). -/
def pack (unusedOk : Bool) (i : Instr) : Decoded :=
  if unusedOk then (match i.problem with | none => .ok i | some why => .bad why) else .bad .unusedField

/-! ## Formats -/

/-- The bits of format S.R above the opcode (Table 12.2). -/
def SR.bits (f : SR) : BitVec 24 := f.lit ++ f.fn ++ f.b ++ f.a ++ f.d

/-- The fields of format S.R. -/
def SR.ofBits (w : BitVec 24) : SR :=
  { d := w.extractLsb' 0 6, a := w.extractLsb' 6 6, b := w.extractLsb' 12 6, fn := w.extractLsb' 18 4, lit := w.extractLsb' 22 2 }

/-- The bits format S.R leaves unused are zero (12 R312). -/
def SR.unusedOk (w : BitVec 24) : Bool := let _ := w; true

/-- The bits of format S.I above the opcode (Table 12.2). -/
def SI.bits (f : SI) : BitVec 24 := f.imm ++ f.a ++ f.d

/-- The fields of format S.I. -/
def SI.ofBits (w : BitVec 24) : SI :=
  { d := w.extractLsb' 0 6, a := w.extractLsb' 6 6, imm := w.extractLsb' 12 12 }

/-- The bits format S.I leaves unused are zero (12 R312). -/
def SI.unusedOk (w : BitVec 24) : Bool := let _ := w; true

/-- The bits of format S.L above the opcode (Table 12.2). -/
def SL.bits (f : SL) : BitVec 24 := (0 : BitVec 14) ++ f.width ++ f.word ++ f.d

/-- The fields of format S.L. -/
def SL.ofBits (w : BitVec 24) : SL :=
  { d := w.extractLsb' 0 6, word := w.extractLsb' 6 2, width := w.extractLsb' 8 2 }

/-- The bits format S.L leaves unused are zero (12 R312). -/
def SL.unusedOk (w : BitVec 24) : Bool := w.extractLsb' 10 14 == 0

/-- The bits of format S.B above the opcode (Table 12.2). -/
def SB.bits (f : SB) : BitVec 24 := f.disp

/-- The fields of format S.B. -/
def SB.ofBits (w : BitVec 24) : SB :=
  { disp := w.extractLsb' 0 24 }

/-- The bits format S.B leaves unused are zero (12 R312). -/
def SB.unusedOk (w : BitVec 24) : Bool := let _ := w; true

/-- The bits of format S.P above the opcode (Table 12.2). -/
def SP.bits (f : SP) : BitVec 24 := (0 : BitVec 8) ++ f.fn ++ f.pb ++ f.pa ++ f.pd

/-- The fields of format S.P. -/
def SP.ofBits (w : BitVec 24) : SP :=
  { pd := w.extractLsb' 0 4, pa := w.extractLsb' 4 4, pb := w.extractLsb' 8 4, fn := w.extractLsb' 12 4 }

/-- The bits format S.P leaves unused are zero (12 R312). -/
def SP.unusedOk (w : BitVec 24) : Bool := w.extractLsb' 16 8 == 0

/-- The bits of format S.M above the opcode (Table 12.2). -/
def SM.bits (f : SM) : BitVec 24 := (0 : BitVec 1) ++ f.off ++ f.land ++ f.addr ++ f.reg

/-- The fields of format S.M. -/
def SM.ofBits (w : BitVec 24) : SM :=
  { reg := w.extractLsb' 0 6, addr := w.extractLsb' 6 5, land := w.extractLsb' 11 6, off := w.extractLsb' 17 6 }

/-- The bits format S.M leaves unused are zero (12 R312). -/
def SM.unusedOk (w : BitVec 24) : Bool := w.extractLsb' 23 1 == 0

/-- The bits of format V.R above the opcode (Table 12.3). -/
def VR.bits (f : VR) : BitVec 32 := f.lit ++ f.type ++ f.shape ++ f.mask ++ f.vc ++ f.vb ++ f.va ++ f.vd

/-- The fields of format V.R. -/
def VR.ofBits (w : BitVec 32) : VR :=
  { vd := w.extractLsb' 0 5, va := w.extractLsb' 5 5, vb := w.extractLsb' 10 5, vc := w.extractLsb' 15 5, mask := w.extractLsb' 20 3, shape := w.extractLsb' 23 3, type := w.extractLsb' 26 4, lit := w.extractLsb' 30 2 }

/-- The bits format V.R leaves unused are zero (12 R312). -/
def VR.unusedOk (w : BitVec 32) : Bool := let _ := w; true

/-- The bits of format V.M above the opcode (Table 12.3). -/
def VM.bits (f : VM) : BitVec 32 := f.space ++ f.off ++ f.shape ++ f.mask ++ f.land ++ f.addr ++ f.v

/-- The fields of format V.M. -/
def VM.ofBits (w : BitVec 32) : VM :=
  { v := w.extractLsb' 0 5, addr := w.extractLsb' 5 5, land := w.extractLsb' 10 8, mask := w.extractLsb' 18 3, shape := w.extractLsb' 21 3, off := w.extractLsb' 24 6, space := w.extractLsb' 30 2 }

/-- The bits format V.M leaves unused are zero (12 R312). -/
def VM.unusedOk (w : BitVec 32) : Bool := let _ := w; true

/-- The bits of format M.T above the opcode (Table 12.4). -/
def MT.bits (f : MT) : BitVec 42 := (0 : BitVec 13) ++ BitVec.ofBool f.ta ++ BitVec.ofBool f.ac ++ f.fmt ++ f.shape ++ f.acc ++ f.panel ++ f.tile

/-- The fields of format M.T. -/
def MT.ofBits (w : BitVec 42) : MT :=
  { tile := w.extractLsb' 0 12, panel := w.extractLsb' 12 6, acc := w.extractLsb' 18 2, shape := w.extractLsb' 20 3, fmt := w.extractLsb' 23 4, ac := w.getLsbD 27, ta := w.getLsbD 28 }

/-- The bits format M.T leaves unused are zero (12 R312). -/
def MT.unusedOk (w : BitVec 42) : Bool := w.extractLsb' 29 13 == 0

/-- The bits of format M.S above the opcode (Table 12.4). -/
def MS.bits (f : MS) : BitVec 42 := f.imm ++ f.fmt ++ f.shape ++ f.tile2 ++ f.tile

/-- The fields of format M.S. -/
def MS.ofBits (w : BitVec 42) : MS :=
  { tile := w.extractLsb' 0 12, tile2 := w.extractLsb' 12 12, shape := w.extractLsb' 24 3, fmt := w.extractLsb' 27 4, imm := w.extractLsb' 31 11 }

/-- The bits format M.S leaves unused are zero (12 R312). -/
def MS.unusedOk (w : BitVec 42) : Bool := let _ := w; true

/-- The bits of format C.N above the opcode (Table 12.5). -/
def CN.bits (f : CN) : BitVec 42 := (0 : BitVec 19) ++ f.dstride ++ f.sstride ++ f.bound ++ f.level ++ f.nest

/-- The fields of format C.N. -/
def CN.ofBits (w : BitVec 42) : CN :=
  { nest := w.extractLsb' 0 2, level := w.extractLsb' 2 3, bound := w.extractLsb' 5 6, sstride := w.extractLsb' 11 6, dstride := w.extractLsb' 17 6 }

/-- The bits format C.N leaves unused are zero (12 R312). -/
def CN.unusedOk (w : BitVec 42) : Bool := w.extractLsb' 23 19 == 0

/-- The bits of format C.X above the opcode (Table 12.5). -/
def CX.bits (f : CX) : BitVec 42 := f.flags ++ f.fol ++ f.fd ++ f.cnt ++ f.dst ++ f.src ++ f.nest

/-- The fields of format C.X. -/
def CX.ofBits (w : BitVec 42) : CX :=
  { nest := w.extractLsb' 0 2, src := w.extractLsb' 2 5, dst := w.extractLsb' 7 5, cnt := w.extractLsb' 12 12, fd := w.extractLsb' 24 4, fol := w.extractLsb' 28 2, flags := w.extractLsb' 30 12 }

/-- The bits format C.X leaves unused are zero (12 R312). -/
def CX.unusedOk (w : BitVec 42) : Bool := let _ := w; true

/-- The bits of format C.D above the opcode (Table 12.5). -/
def CD.bits (f : CD) : BitVec 42 := f.flags ++ f.op ++ f.recv ++ f.send ++ f.dimb ++ f.dima

/-- The fields of format C.D. -/
def CD.ofBits (w : BitVec 42) : CD :=
  { dima := w.extractLsb' 0 4, dimb := w.extractLsb' 4 4, send := w.extractLsb' 8 12, recv := w.extractLsb' 20 12, op := w.extractLsb' 32 4, flags := w.extractLsb' 36 6 }

/-- The bits format C.D leaves unused are zero (12 R312). -/
def CD.unusedOk (w : BitVec 42) : Bool := let _ := w; true

/-- The bits of format C.A above the opcode (Table 12.5). -/
def CA.bits (f : CA) : BitVec 42 := (0 : BitVec 11) ++ f.scope ++ f.op ++ f.land ++ f.res ++ f.opnd ++ f.addr ++ (0 : BitVec 2)

/-- The fields of format C.A. -/
def CA.ofBits (w : BitVec 42) : CA :=
  { addr := w.extractLsb' 2 5, opnd := w.extractLsb' 7 6, res := w.extractLsb' 13 6, land := w.extractLsb' 19 6, op := w.extractLsb' 25 4, scope := w.extractLsb' 29 2 }

/-- The bits format C.A leaves unused are zero (12 R312). -/
def CA.unusedOk (w : BitVec 42) : Bool := w.extractLsb' 0 2 == 0 && w.extractLsb' 31 11 == 0

/-! ## Opcode maps, read -/

/-- 13 Table 13.1: the instruction an opcode and body stand for. -/
def decodeS (op : BitVec 8) (w : BitVec 24) : Decoded :=
  match op.toNat with
  | 0x00 => pack (w == 0) .nop
  | 0x01 => pack (SR.unusedOk w) (.add (.ofBits w))
  | 0x02 => pack (SR.unusedOk w) (.sub (.ofBits w))
  | 0x03 => pack (SI.unusedOk w) (.addi (.ofBits w))
  | 0x04 => pack (SR.unusedOk w) (.mul (.ofBits w))
  | 0x05 => pack (SR.unusedOk w) (.mulhs (.ofBits w))
  | 0x06 => pack (SR.unusedOk w) (.mulhb (.ofBits w))
  | 0x07 => pack (SR.unusedOk w) (.divs (.ofBits w))
  | 0x08 => pack (SR.unusedOk w) (.divb (.ofBits w))
  | 0x09 => pack (SR.unusedOk w) (.rems (.ofBits w))
  | 0x0a => pack (SR.unusedOk w) (.remb (.ofBits w))
  | 0x10 => pack (SR.unusedOk w) (.and (.ofBits w))
  | 0x11 => pack (SR.unusedOk w) (.or (.ofBits w))
  | 0x12 => pack (SR.unusedOk w) (.xor (.ofBits w))
  | 0x13 => pack (SI.unusedOk w) (.andi (.ofBits w))
  | 0x14 => pack (SI.unusedOk w) (.ori (.ofBits w))
  | 0x15 => pack (SI.unusedOk w) (.xori (.ofBits w))
  | 0x18 => pack (SR.unusedOk w) (.shl (.ofBits w))
  | 0x19 => pack (SR.unusedOk w) (.shr (.ofBits w))
  | 0x1a => pack (SR.unusedOk w) (.sar (.ofBits w))
  | 0x1b => pack (SI.unusedOk w) (.shli (.ofBits w))
  | 0x1c => pack (SI.unusedOk w) (.shri (.ofBits w))
  | 0x1d => pack (SI.unusedOk w) (.sari (.ofBits w))
  | 0x20 => pack (SR.unusedOk w) (.min (.ofBits w))
  | 0x21 => pack (SR.unusedOk w) (.max (.ofBits w))
  | 0x22 => pack (SR.unusedOk w) (.minb (.ofBits w))
  | 0x23 => pack (SR.unusedOk w) (.maxb (.ofBits w))
  | 0x24 => pack (SR.unusedOk w) (.clz (.ofBits w))
  | 0x25 => pack (SR.unusedOk w) (.popc (.ofBits w))
  | 0x26 => pack (SR.unusedOk w) (.brev (.ofBits w))
  | 0x27 => pack (SR.unusedOk w) (.exts (.ofBits w))
  | 0x28 => pack (SI.unusedOk w) (.bfx (.ofBits w))
  | 0x29 => pack (SI.unusedOk w) (.bfi (.ofBits w))
  | 0x2a => pack (SR.unusedOk w) (.sel (.ofBits w))
  | 0x2b => pack (SR.unusedOk w) (.mov (.ofBits w))
  | 0x2c => pack (SL.unusedOk w) (.movl (.ofBits w))
  | 0x2d => pack (SR.unusedOk w) (.cmp (.ofBits w))
  | 0x2e => pack (SI.unusedOk w) (.cmpi (.ofBits w))
  | 0x30 => pack (SP.unusedOk w) (.pand (.ofBits w))
  | 0x31 => pack (SP.unusedOk w) (.por (.ofBits w))
  | 0x32 => pack (SP.unusedOk w) (.pxor (.ofBits w))
  | 0x33 => pack (SP.unusedOk w) (.pnot (.ofBits w))
  | 0x38 => pack (SR.unusedOk w) (.aadd (.ofBits w))
  | 0x39 => pack (SI.unusedOk w) (.aaddi (.ofBits w))
  | 0x3a => pack (SL.unusedOk w) (.alit (.ofBits w))
  | 0x3b => pack (SR.unusedOk w) (.amov (.ofBits w))
  | 0x3c => pack (SR.unusedOk w) (.adiff (.ofBits w))
  | 0x40 => pack (SM.unusedOk w) (.ld 0 (.ofBits w))
  | 0x41 => pack (SM.unusedOk w) (.ld 1 (.ofBits w))
  | 0x42 => pack (SM.unusedOk w) (.ld 2 (.ofBits w))
  | 0x43 => pack (SM.unusedOk w) (.ld 3 (.ofBits w))
  | 0x44 => pack (SM.unusedOk w) (.ld 4 (.ofBits w))
  | 0x45 => pack (SM.unusedOk w) (.ld 5 (.ofBits w))
  | 0x46 => pack (SM.unusedOk w) (.ld 6 (.ofBits w))
  | 0x48 => pack (SM.unusedOk w) (.st 0 (.ofBits w))
  | 0x49 => pack (SM.unusedOk w) (.st 1 (.ofBits w))
  | 0x4a => pack (SM.unusedOk w) (.st 2 (.ofBits w))
  | 0x4b => pack (SM.unusedOk w) (.st 3 (.ofBits w))
  | 0x4c => pack (SM.unusedOk w) (.lda (.ofBits w))
  | 0x4d => pack (SM.unusedOk w) (.sta (.ofBits w))
  | 0x50 => pack (SM.unusedOk w) (.spl 0 (.ofBits w))
  | 0x51 => pack (SM.unusedOk w) (.spl 1 (.ofBits w))
  | 0x52 => pack (SM.unusedOk w) (.spl 2 (.ofBits w))
  | 0x53 => pack (SM.unusedOk w) (.spl 3 (.ofBits w))
  | 0x54 => pack (SM.unusedOk w) (.spl 4 (.ofBits w))
  | 0x55 => pack (SM.unusedOk w) (.spl 5 (.ofBits w))
  | 0x56 => pack (SM.unusedOk w) (.spl 6 (.ofBits w))
  | 0x58 => pack (SM.unusedOk w) (.sps 0 (.ofBits w))
  | 0x59 => pack (SM.unusedOk w) (.sps 1 (.ofBits w))
  | 0x5a => pack (SM.unusedOk w) (.sps 2 (.ofBits w))
  | 0x5b => pack (SM.unusedOk w) (.sps 3 (.ofBits w))
  | 0x60 => pack (SM.unusedOk w) (.gld 0 (.ofBits w))
  | 0x61 => pack (SM.unusedOk w) (.gld 1 (.ofBits w))
  | 0x62 => pack (SM.unusedOk w) (.gld 2 (.ofBits w))
  | 0x63 => pack (SM.unusedOk w) (.gld 3 (.ofBits w))
  | 0x64 => pack (SM.unusedOk w) (.gld 4 (.ofBits w))
  | 0x65 => pack (SM.unusedOk w) (.gld 5 (.ofBits w))
  | 0x66 => pack (SM.unusedOk w) (.gld 6 (.ofBits w))
  | 0x68 => pack (SM.unusedOk w) (.gst 0 (.ofBits w))
  | 0x69 => pack (SM.unusedOk w) (.gst 1 (.ofBits w))
  | 0x6a => pack (SM.unusedOk w) (.gst 2 (.ofBits w))
  | 0x6b => pack (SM.unusedOk w) (.gst 3 (.ofBits w))
  | 0x70 => pack (SB.unusedOk w) (.br (.ofBits w))
  | 0x71 => pack (SB.unusedOk w) (.call (.ofBits w))
  | 0x72 => pack (w == 0) .ret
  | 0x73 => pack (SR.unusedOk w) (.jmpi (.ofBits w))
  | 0x74 => pack (SI.unusedOk w) (.loop (.ofBits w))
  | 0x75 => pack (w == 0) .fend
  | 0x76 => pack (SR.unusedOk w) (.tstb (.ofBits w))
  | 0x78 => pack (SR.unusedOk w) (.setshape (.ofBits w))
  | 0x79 => pack (SR.unusedOk w) (.getshape (.ofBits w))
  | 0x7a => pack (SI.unusedOk w) (.sysr (.ofBits w))
  | 0x7b => pack (SI.unusedOk w) (.sysw (.ofBits w))
  | 0x7c => pack (SI.unusedOk w) (.trap (.ofBits w))
  | 0x7d => pack (w == 0) .tret
  | 0x7e => pack (SR.unusedOk w) (.node (.ofBits w))
  | 0x7f => pack (SR.unusedOk w) (.fence (.ofBits w))
  | _ => .bad .unassigned

/-- 13 Table 13.3: the instruction an opcode and body stand for. -/
def decodeV (op : BitVec 8) (w : BitVec 32) : Decoded :=
  match op.toNat with
  | 0x01 => pack (VR.unusedOk w) (.vadd (.ofBits w))
  | 0x02 => pack (VR.unusedOk w) (.vsub (.ofBits w))
  | 0x03 => pack (VR.unusedOk w) (.vmul (.ofBits w))
  | 0x04 => pack (VR.unusedOk w) (.vmulh (.ofBits w))
  | 0x05 => pack (VR.unusedOk w) (.vmac (.ofBits w))
  | 0x06 => pack (VR.unusedOk w) (.vadds (.ofBits w))
  | 0x07 => pack (VR.unusedOk w) (.vsubs (.ofBits w))
  | 0x08 => pack (VR.unusedOk w) (.vshl (.ofBits w))
  | 0x09 => pack (VR.unusedOk w) (.vshr (.ofBits w))
  | 0x0a => pack (VR.unusedOk w) (.vsar (.ofBits w))
  | 0x0b => pack (VR.unusedOk w) (.vand (.ofBits w))
  | 0x0c => pack (VR.unusedOk w) (.vor (.ofBits w))
  | 0x0d => pack (VR.unusedOk w) (.vxor (.ofBits w))
  | 0x0e => pack (VR.unusedOk w) (.vmin (.ofBits w))
  | 0x0f => pack (VR.unusedOk w) (.vmax (.ofBits w))
  | 0x10 => pack (VR.unusedOk w) (.vabs (.ofBits w))
  | 0x11 => pack (VR.unusedOk w) (.vnarrow (.ofBits w))
  | 0x12 => pack (VR.unusedOk w) (.vwiden (.ofBits w))
  | 0x20 => pack (VR.unusedOk w) (.vfadd (.ofBits w))
  | 0x21 => pack (VR.unusedOk w) (.vfsub (.ofBits w))
  | 0x22 => pack (VR.unusedOk w) (.vfmul (.ofBits w))
  | 0x23 => pack (VR.unusedOk w) (.vfma (.ofBits w))
  | 0x24 => pack (VR.unusedOk w) (.vfmin (.ofBits w))
  | 0x25 => pack (VR.unusedOk w) (.vfmax (.ofBits w))
  | 0x26 => pack (VR.unusedOk w) (.vfsgn (.ofBits w))
  | 0x27 => pack (VR.unusedOk w) (.vrcp (.ofBits w))
  | 0x28 => pack (VR.unusedOk w) (.vrsq (.ofBits w))
  | 0x29 => pack (VR.unusedOk w) (.vexp2 (.ofBits w))
  | 0x2a => pack (VR.unusedOk w) (.vlog2 (.ofBits w))
  | 0x2b => pack (VR.unusedOk w) (.vcvt (.ofBits w))
  | 0x2c => pack (VR.unusedOk w) (.vcmp (.ofBits w))
  | 0x30 => pack (VR.unusedOk w) (.vsel (.ofBits w))
  | 0x31 => pack (VR.unusedOk w) (.kop (.ofBits w))
  | 0x38 => pack (VR.unusedOk w) (.vperm (.ofBits w))
  | 0x39 => pack (VR.unusedOk w) (.vrot (.ofBits w))
  | 0x3a => pack (VR.unusedOk w) (.vbcast (.ofBits w))
  | 0x3b => pack (VR.unusedOk w) (.vextr (.ofBits w))
  | 0x3c => pack (VR.unusedOk w) (.vins (.ofBits w))
  | 0x40 => pack (VR.unusedOk w) (.vreda (.ofBits w))
  | 0x41 => pack (VR.unusedOk w) (.vredm (.ofBits w))
  | 0x48 => pack (VM.unusedOk w) (.vld (.ofBits w))
  | 0x49 => pack (VM.unusedOk w) (.vst (.ofBits w))
  | 0x4a => pack (VM.unusedOk w) (.vgld (.ofBits w))
  | 0x4b => pack (VM.unusedOk w) (.vgst (.ofBits w))
  | 0x4c => pack (VR.unusedOk w) (.vgath (.ofBits w))
  | 0x4d => pack (VR.unusedOk w) (.vscat (.ofBits w))
  | _ => .bad .unassigned

/-- 13 Table 13.4: the instruction an opcode and body stand for. -/
def decodeM (op : BitVec 6) (w : BitVec 42) : Decoded :=
  match op.toNat with
  | 0x01 => pack (MT.unusedOk w) (.mma (.ofBits w))
  | 0x02 => pack (MT.unusedOk w) (.mmai (.ofBits w))
  | 0x03 => pack (MT.unusedOk w) (.mmap (.ofBits w))
  | 0x04 => pack (MT.unusedOk w) (.zacc (.ofBits w))
  | 0x05 => pack (MS.unusedOk w) (.zadd (.ofBits w))
  | 0x06 => pack (MT.unusedOk w) (.zret (.ofBits w))
  | 0x10 => pack (MS.unusedOk w) (.talloc (.ofBits w))
  | 0x11 => pack (MS.unusedOk w) (.tfree (.ofBits w))
  | 0x12 => pack (MS.unusedOk w) (.tstat (.ofBits w))
  | 0x13 => pack (MS.unusedOk w) (.trenew (.ofBits w))
  | 0x14 => pack (MS.unusedOk w) (.txpose (.ofBits w))
  | 0x15 => pack (MS.unusedOk w) (.tcvt (.ofBits w))
  | 0x16 => pack (MS.unusedOk w) (.tfill (.ofBits w))
  | 0x20 => pack (MS.unusedOk w) (.cbld (.ofBits w))
  | 0x21 => pack (MS.unusedOk w) (.ptb (.ofBits w))
  | 0x28 => pack (MT.unusedOk w) (.yld (.ofBits w))
  | 0x29 => pack (MT.unusedOk w) (.yclr (.ofBits w))
  | _ => .bad .unassigned

/-- 13 Table 13.5: the instruction an opcode and body stand for. -/
def decodeC (op : BitVec 6) (w : BitVec 42) : Decoded :=
  match op.toNat with
  | 0x01 => pack (CN.unusedOk w) (.cnest (.ofBits w))
  | 0x02 => pack (CX.unusedOk w) (.cpy (.ofBits w))
  | 0x03 => pack (CX.unusedOk w) (.cpym (.ofBits w))
  | 0x04 => pack (CX.unusedOk w) (.tld (.ofBits w))
  | 0x05 => pack (CX.unusedOk w) (.tst (.ofBits w))
  | 0x06 => pack (CX.unusedOk w) (.rwb (.ofBits w))
  | 0x07 => pack (CX.unusedOk w) (.rinv (.ofBits w))
  | 0x08 => pack (CX.unusedOk w) (.pref (.ofBits w))
  | 0x10 => pack (CD.unusedOk w) (.xch (.ofBits w))
  | 0x11 => pack (CD.unusedOk w) (.xcc (.ofBits w))
  | 0x12 => pack (CD.unusedOk w) (.sib (.ofBits w))
  | 0x13 => pack (CD.unusedOk w) (.grs (.ofBits w))
  | 0x14 => pack (CD.unusedOk w) (.dbar (.ofBits w))
  | 0x15 => pack (CD.unusedOk w) (.xdig (.ofBits w))
  | 0x20 => pack (CA.unusedOk w) (.amo (.ofBits w))
  | 0x21 => pack (CA.unusedOk w) (.cas (.ofBits w))
  | 0x22 => pack (CX.unusedOk w) (.tred (.ofBits w))
  | 0x28 => pack (CX.unusedOk w) (.bind (.ofBits w))
  | 0x29 => pack (CA.unusedOk w) (.acq (.ofBits w))
  | 0x2a => pack (CA.unusedOk w) (.rel (.ofBits w))
  | 0x2b => pack (CA.unusedOk w) (.waita (.ofBits w))
  | 0x2c => pack (CA.unusedOk w) (.wake (.ofBits w))
  | 0x2d => pack (CA.unusedOk w) (.dec (.ofBits w))
  | 0x30 => pack (CA.unusedOk w) (.scld (.ofBits w))
  | 0x31 => pack (CA.unusedOk w) (.scst (.ofBits w))
  | _ => .bad .unassigned

/-! ## Slots and bundles, read -/

/-- The number whose little-endian bytes are given (00 R2). -/
def ofLE : List Byte → Nat
  | [] => 0
  | b :: r => b.toNat + 256 * ofLE r

/-- The prefix in a slot's first byte (12 R311). -/
def Pfx.ofBits (w : BitVec 8) : Pfx := { guard := w.extractLsb' 0 4, inv := w.getLsbD 4, hold := w.extractLsb' 5 3 }

/-- Bytes a slot takes (07 Table 7.1). -/
def Slot.size : Slot → Nat
  | .s => 5
  | .v0 | .v1 => 6
  | .m | .c0 | .c1 => 7

/-- A slot from its bytes. -/
def decodeSlot (slot : Slot) (bytes : List Byte) : SlotOp :=
  let w := ofLE bytes
  let p := Pfx.ofBits (BitVec.ofNat 8 w)
  match slot with
  | .s => ⟨slot, p, decodeS (BitVec.ofNat 8 (w / 2 ^ 8)) (BitVec.ofNat 24 (w / 2 ^ 16))⟩
  | .v0 | .v1 => ⟨slot, p, decodeV (BitVec.ofNat 8 (w / 2 ^ 8)) (BitVec.ofNat 32 (w / 2 ^ 16))⟩
  | .m => ⟨slot, p, decodeM (BitVec.ofNat 6 (w / 2 ^ 8)) (BitVec.ofNat 42 (w / 2 ^ 14))⟩
  | .c0 | .c1 => ⟨slot, p, decodeC (BitVec.ofNat 6 (w / 2 ^ 8)) (BitVec.ofNat 42 (w / 2 ^ 14))⟩

/-- The slots a header says are present, in slot order (12 R308). -/
def presentSlots (h : Byte) : List Slot :=
  [(0, Slot.s), (1, .v0), (2, .v1), (3, .m), (4, .c0), (5, .c1)].filterMap fun (i, s) => if h.getLsbD i then some s else none

/-- Literal words a header says follow the slots. -/
def litCount (h : Byte) : Nat := (h.extractLsb' 6 2).toNat

/-- The length of the bundle a header begins (12 R308). -/
def bundleLen (h : Byte) : Nat := 1 + ((presentSlots h).map Slot.size).sum + 4 * litCount h

/-- Read the slots named from the bytes that follow one another. -/
def readSlots : List Slot → List Byte → List SlotOp
  | [], _ => []
  | s :: r, bytes => decodeSlot s (bytes.take s.size) :: readSlots r (bytes.drop s.size)

/-- Read n literal words. -/
def readLits : Nat → List Byte → List (BitVec 32)
  | 0, _ => []
  | n + 1, bytes => BitVec.ofNat 32 (ofLE (bytes.take 4)) :: readLits n (bytes.drop 4)

/-- The bundle at the head of bytes, which are those left of its line (12 R308, R309). -/
def decodeBundle (bytes : List Byte) : Except BundleError Bundle :=
  match bytes with
  | [] => .error .lineRule
  | h :: rest =>
    if h = 0 then .error .padding
    else
      let slots := presentSlots h
      if slots.isEmpty then .error .noSlots
      else if bytes.length < bundleLen h then .error .lineRule
      else
        .ok { slots := readSlots slots rest, lits := readLits (litCount h) (rest.drop (slots.map Slot.size).sum),
              len := bundleLen h }

/-- The instruction of a bundle that holds exactly one slot. -/
def Bundle.single? (b : Bundle) : Option Instr :=
  match b.slots with
  | [⟨_, _, .ok i⟩] => some i
  | _ => none

/-- The n low bytes of a number, least significant first. -/
def toLE : Nat → Nat → List Byte
  | 0, _ => []
  | n + 1, w => BitVec.ofNat 8 w :: toLE n (w / 256)

/-- The instruction the decoder reads from a bundle whose bits are `w`, the header byte first, bits above `nbits` zero. -/
def decodeTableWord (nbits w : Nat) : Option Instr :=
  match decodeBundle (toLE 64 (w % 2 ^ nbits)) with
  | .ok b => b.single?
  | .error _ => none

/-! ## The encoder -/

/-- 13 Table 13.1: opcode and body of an instruction of this slot class. -/
def bodyS : Instr → Option (BitVec 8 × BitVec 24)
  | .nop => some (0x00, 0)
  | .add f => some (0x01, f.bits)
  | .sub f => some (0x02, f.bits)
  | .addi f => some (0x03, f.bits)
  | .mul f => some (0x04, f.bits)
  | .mulhs f => some (0x05, f.bits)
  | .mulhb f => some (0x06, f.bits)
  | .divs f => some (0x07, f.bits)
  | .divb f => some (0x08, f.bits)
  | .rems f => some (0x09, f.bits)
  | .remb f => some (0x0a, f.bits)
  | .and f => some (0x10, f.bits)
  | .or f => some (0x11, f.bits)
  | .xor f => some (0x12, f.bits)
  | .andi f => some (0x13, f.bits)
  | .ori f => some (0x14, f.bits)
  | .xori f => some (0x15, f.bits)
  | .shl f => some (0x18, f.bits)
  | .shr f => some (0x19, f.bits)
  | .sar f => some (0x1a, f.bits)
  | .shli f => some (0x1b, f.bits)
  | .shri f => some (0x1c, f.bits)
  | .sari f => some (0x1d, f.bits)
  | .min f => some (0x20, f.bits)
  | .max f => some (0x21, f.bits)
  | .minb f => some (0x22, f.bits)
  | .maxb f => some (0x23, f.bits)
  | .clz f => some (0x24, f.bits)
  | .popc f => some (0x25, f.bits)
  | .brev f => some (0x26, f.bits)
  | .exts f => some (0x27, f.bits)
  | .bfx f => some (0x28, f.bits)
  | .bfi f => some (0x29, f.bits)
  | .sel f => some (0x2a, f.bits)
  | .mov f => some (0x2b, f.bits)
  | .movl f => some (0x2c, f.bits)
  | .cmp f => some (0x2d, f.bits)
  | .cmpi f => some (0x2e, f.bits)
  | .pand f => some (0x30, f.bits)
  | .por f => some (0x31, f.bits)
  | .pxor f => some (0x32, f.bits)
  | .pnot f => some (0x33, f.bits)
  | .aadd f => some (0x38, f.bits)
  | .aaddi f => some (0x39, f.bits)
  | .alit f => some (0x3a, f.bits)
  | .amov f => some (0x3b, f.bits)
  | .adiff f => some (0x3c, f.bits)
  | .ld size f => some (0x40 + size.setWidth 8, f.bits)
  | .st size f => some (0x48 + size.setWidth 8, f.bits)
  | .lda f => some (0x4c, f.bits)
  | .sta f => some (0x4d, f.bits)
  | .spl size f => some (0x50 + size.setWidth 8, f.bits)
  | .sps size f => some (0x58 + size.setWidth 8, f.bits)
  | .gld size f => some (0x60 + size.setWidth 8, f.bits)
  | .gst size f => some (0x68 + size.setWidth 8, f.bits)
  | .br f => some (0x70, f.bits)
  | .call f => some (0x71, f.bits)
  | .ret => some (0x72, 0)
  | .jmpi f => some (0x73, f.bits)
  | .loop f => some (0x74, f.bits)
  | .fend => some (0x75, 0)
  | .tstb f => some (0x76, f.bits)
  | .setshape f => some (0x78, f.bits)
  | .getshape f => some (0x79, f.bits)
  | .sysr f => some (0x7a, f.bits)
  | .sysw f => some (0x7b, f.bits)
  | .trap f => some (0x7c, f.bits)
  | .tret => some (0x7d, 0)
  | .node f => some (0x7e, f.bits)
  | .fence f => some (0x7f, f.bits)
  | _ => none

/-- 13 Table 13.3: opcode and body of an instruction of this slot class. -/
def bodyV : Instr → Option (BitVec 8 × BitVec 32)
  | .vadd f => some (0x01, f.bits)
  | .vsub f => some (0x02, f.bits)
  | .vmul f => some (0x03, f.bits)
  | .vmulh f => some (0x04, f.bits)
  | .vmac f => some (0x05, f.bits)
  | .vadds f => some (0x06, f.bits)
  | .vsubs f => some (0x07, f.bits)
  | .vshl f => some (0x08, f.bits)
  | .vshr f => some (0x09, f.bits)
  | .vsar f => some (0x0a, f.bits)
  | .vand f => some (0x0b, f.bits)
  | .vor f => some (0x0c, f.bits)
  | .vxor f => some (0x0d, f.bits)
  | .vmin f => some (0x0e, f.bits)
  | .vmax f => some (0x0f, f.bits)
  | .vabs f => some (0x10, f.bits)
  | .vnarrow f => some (0x11, f.bits)
  | .vwiden f => some (0x12, f.bits)
  | .vfadd f => some (0x20, f.bits)
  | .vfsub f => some (0x21, f.bits)
  | .vfmul f => some (0x22, f.bits)
  | .vfma f => some (0x23, f.bits)
  | .vfmin f => some (0x24, f.bits)
  | .vfmax f => some (0x25, f.bits)
  | .vfsgn f => some (0x26, f.bits)
  | .vrcp f => some (0x27, f.bits)
  | .vrsq f => some (0x28, f.bits)
  | .vexp2 f => some (0x29, f.bits)
  | .vlog2 f => some (0x2a, f.bits)
  | .vcvt f => some (0x2b, f.bits)
  | .vcmp f => some (0x2c, f.bits)
  | .vsel f => some (0x30, f.bits)
  | .kop f => some (0x31, f.bits)
  | .vperm f => some (0x38, f.bits)
  | .vrot f => some (0x39, f.bits)
  | .vbcast f => some (0x3a, f.bits)
  | .vextr f => some (0x3b, f.bits)
  | .vins f => some (0x3c, f.bits)
  | .vreda f => some (0x40, f.bits)
  | .vredm f => some (0x41, f.bits)
  | .vld f => some (0x48, f.bits)
  | .vst f => some (0x49, f.bits)
  | .vgld f => some (0x4a, f.bits)
  | .vgst f => some (0x4b, f.bits)
  | .vgath f => some (0x4c, f.bits)
  | .vscat f => some (0x4d, f.bits)
  | _ => none

/-- 13 Table 13.4: opcode and body of an instruction of this slot class. -/
def bodyM : Instr → Option (BitVec 6 × BitVec 42)
  | .mma f => some (0x01, f.bits)
  | .mmai f => some (0x02, f.bits)
  | .mmap f => some (0x03, f.bits)
  | .zacc f => some (0x04, f.bits)
  | .zadd f => some (0x05, f.bits)
  | .zret f => some (0x06, f.bits)
  | .talloc f => some (0x10, f.bits)
  | .tfree f => some (0x11, f.bits)
  | .tstat f => some (0x12, f.bits)
  | .trenew f => some (0x13, f.bits)
  | .txpose f => some (0x14, f.bits)
  | .tcvt f => some (0x15, f.bits)
  | .tfill f => some (0x16, f.bits)
  | .cbld f => some (0x20, f.bits)
  | .ptb f => some (0x21, f.bits)
  | .yld f => some (0x28, f.bits)
  | .yclr f => some (0x29, f.bits)
  | _ => none

/-- 13 Table 13.5: opcode and body of an instruction of this slot class. -/
def bodyC : Instr → Option (BitVec 6 × BitVec 42)
  | .cnest f => some (0x01, f.bits)
  | .cpy f => some (0x02, f.bits)
  | .cpym f => some (0x03, f.bits)
  | .tld f => some (0x04, f.bits)
  | .tst f => some (0x05, f.bits)
  | .rwb f => some (0x06, f.bits)
  | .rinv f => some (0x07, f.bits)
  | .pref f => some (0x08, f.bits)
  | .xch f => some (0x10, f.bits)
  | .xcc f => some (0x11, f.bits)
  | .sib f => some (0x12, f.bits)
  | .grs f => some (0x13, f.bits)
  | .dbar f => some (0x14, f.bits)
  | .xdig f => some (0x15, f.bits)
  | .amo f => some (0x20, f.bits)
  | .cas f => some (0x21, f.bits)
  | .tred f => some (0x22, f.bits)
  | .bind f => some (0x28, f.bits)
  | .acq f => some (0x29, f.bits)
  | .rel f => some (0x2a, f.bits)
  | .waita f => some (0x2b, f.bits)
  | .wake f => some (0x2c, f.bits)
  | .dec f => some (0x2d, f.bits)
  | .scld f => some (0x30, f.bits)
  | .scst f => some (0x31, f.bits)
  | _ => none

/-- The prefix byte. -/
def Pfx.bits (p : Pfx) : BitVec 8 := p.hold ++ BitVec.ofBool p.inv ++ p.guard

/-- The bytes of a slot operation in a slot, where that slot's class has the opcode. -/
def encodeSlot (slot : Slot) (p : Pfx) (i : Instr) : Option (List Byte) :=
  match slot with
  | .s => (bodyS i).map fun (op, w) => toLE 5 (w ++ op ++ p.bits).toNat
  | .v0 | .v1 => (bodyV i).map fun (op, w) => toLE 6 (w ++ op ++ p.bits).toNat
  | .m => (bodyM i).map fun (op, w) => toLE 7 (w ++ op ++ p.bits).toNat
  | .c0 | .c1 => (bodyC i).map fun (op, w) => toLE 7 (w ++ op ++ p.bits).toNat

/-- The first slot that can hold an instruction; none for an event. -/
def Instr.slot? (i : Instr) : Option Slot :=
  if (bodyS i).isSome then some .s
  else if (bodyV i).isSome then some .v0
  else if (bodyM i).isSome then some .m
  else if (bodyC i).isSome then some .c0
  else none

/-- The header byte of a bundle with one slot and n literal words. -/
def headerOf (slot : Slot) (n : Nat) : Byte :=
  let bit : Nat := match slot with | .s => 1 | .v0 => 2 | .v1 => 4 | .m => 8 | .c0 => 16 | .c1 => 32
  BitVec.ofNat 8 (bit + 64 * n)

/-- The bytes of the bundle that holds the instruction alone, with guard p0, no hold, and the literal words given. -/
def encode (i : Instr) (lits : List (BitVec 32) := []) : Option (List Byte) :=
  match i.slot? with
  | none => none
  | some slot => (encodeSlot slot {} i).map fun b => headerOf slot lits.length :: b ++ (lits.map fun l => toLE 4 l.toNat).flatten

end Sys2Proof
end

