-- ==== Sys2Proof/Machine/Maps.lean ====
section
/-! DEFINITION. Sparse maps from numbers: a list of (key, value) pairs with rising keys. What an unlisted key reads as is
given at each read; `put` lists no entry equal to it, so equal maps are equal lists. -/

namespace Sys2Proof.Machine

/-- A list of (key, value) pairs. -/
abbrev FMap (α : Type) := List (Nat × α)

/-- The value listed for a key. -/
def FMap.get? {α : Type} : FMap α → Nat → Option α
  | [], _ => none
  | (k, v) :: r, i => if k = i then some v else FMap.get? r i

/-- The value of a key, `d` where it is not listed. -/
def FMap.get {α : Type} (m : FMap α) (d : α) (i : Nat) : α := (FMap.get? m i).getD d

/-- The map without a key. -/
def FMap.erase {α : Type} : FMap α → Nat → FMap α
  | [], _ => []
  | (k, v) :: r, i => if k = i then FMap.erase r i else (k, v) :: FMap.erase r i

/-- Insert an entry before the first greater key. -/
def FMap.insert {α : Type} : FMap α → Nat → α → FMap α
  | [], i, v => [(i, v)]
  | (k, w) :: r, i, v => if i < k then (i, v) :: (k, w) :: r else (k, w) :: FMap.insert r i v

/-- List a value for a key, whatever it is. -/
def FMap.set {α : Type} (m : FMap α) (i : Nat) (v : α) : FMap α := FMap.insert (FMap.erase m i) i v

/-- Give a key a value; the value an unlisted key reads as is not listed. -/
def FMap.put {α : Type} [DecidableEq α] (m : FMap α) (d : α) (i : Nat) (v : α) : FMap α :=
  if v = d then FMap.erase m i else FMap.insert (FMap.erase m i) i v

/-- Keys strictly rise from `lo` on, and no entry equals `d`. -/
def FMap.wfFrom {α : Type} [DecidableEq α] (d : α) : Nat → FMap α → Bool
  | _, [] => true
  | lo, (k, v) :: r => decide (lo ≤ k) && decide (v ≠ d) && FMap.wfFrom d (k + 1) r

/-- The canonical form of a sparse map whose unlisted keys read as `d`. -/
def FMap.wf {α : Type} [DecidableEq α] (m : FMap α) (d : α) : Bool := FMap.wfFrom d 0 m

/-- The entries whose key meets a test. -/
def FMap.keep {α : Type} (m : FMap α) (p : Nat → Bool) : FMap α := m.filter fun kv => p kv.1

end Sys2Proof.Machine
end

