-- ==== Sys2Proof/Machine/State.lean ====
section
/-! DEFINITION. What the package holds: plain data, one structure for each part of the spec that owns state, and the
state at reset, which is the beginning of a cold start (05 R113). A sparse map lists only what differs from its reset. -/

namespace Sys2Proof.Machine

/-! ## Traps and shapes -/

/-- Cause codes (10 Table 10.1). -/
inductive Cause where
  | illegal | holdShort | fetchBound | coldFault | noShape | shapeRegrant | notPinned | subcube | noWheel | badTret
  | badBind | soft | tileEmpty | page | ptBad | prot | attr | badAddr | stale | poison | tileLimit | tileSpan | noreach
  | xwait | depth | recFault
  deriving DecidableEq, Repr

/-- A stopping event on its way to trap entry (10 R249, R250). -/
structure Trap where
  cause : Cause
  /-- ENGINE of Table 10.2: 0 is the sequencer. -/
  engine : Nat := 0
  /-- FLAGS bit 0: a landing or store trap. -/
  landing : Bool := false
  /-- Command index of an engine fault. -/
  cmdix : BitVec 32 := 0
  /-- Bundle that issued the faulting operation. -/
  faddr : Nat := 0
  vaddr : W72 := 0
  estat : W64 := 0
  /-- the load or store of a landing trap, in issue order (10 R253) -/
  access : Nat := 0
  deriving DecidableEq, Repr

/-- A shape register (07 Table 7.7). -/
structure Shape where
  req : W64 := 0
  grant : W64 := 0
  deriving DecidableEq, Repr

/-! ## Registers of a context (07 Table 7.2) -/

/-- One level of a copy nest (17 R432). -/
structure Level where
  count : BitVec 32 := 1
  sstride : BitVec 32 := 0
  dstride : BitVec 32 := 0
  deriving DecidableEq, Repr

/-- A copy nest set: six levels and the run (17 R432). -/
structure Nest where
  levels : FMap Level := []
  run : BitVec 24 := 0
  deriving DecidableEq, Repr

/-- A binding (09 Table 9.2). -/
structure Binding where
  obj : W72 := 0
  base : W72 := 0
  len : BitVec 40 := 0
  v : Bool := false
  deriving DecidableEq, Repr

/-- Tile states (08 Table 8.3). -/
inductive TileState where
  | empty | filling | ready | draining
  deriving DecidableEq, Repr

/-- A tile table entry (08 Table 8.3); WTIME, WCLS and EXPD are computed from the row tags (R202). -/
structure Tile where
  base : BitVec 18 := 0
  rows : BitVec 16 := 0
  cols : BitVec 16 := 0
  type : BitVec 4 := 0
  cb : BitVec 4 := 0
  state : TileState := .empty
  deriving DecidableEq, Repr

/-- What an accumulator set holds (16 R400). -/
inductive AccKind where
  | fp32 | int32 | fp64
  deriving DecidableEq, Repr

/-- An active loop (14 R361 to R363). -/
structure Loop where
  /-- first body bundle -/
  first : Nat
  /-- B-th body bundle -/
  last : Nat
  /-- the bundle after the body -/
  after : Nat
  c0 : Nat
  c1 : Nat
  c2 : Nat
  /-- executions begun, minus 1 -/
  index : Nat
  pe : Nat
  /-- the next execution's first bundle has not been reached: pe is still to be written (14 R362) -/
  fresh : Bool := true
  deriving DecidableEq, Repr

/-- A role of an exchange command: one direction along one dimension (18 R455 to R462). -/
structure Role where
  /-- logical dimension -/
  ldim : Nat
  /-- physical dimension -/
  dim : Nat
  /-- the partner's NID -/
  peer : Nat
  send : Option Nat := none
  recv : Option Nat := none
  sseq : Nat := 0
  rseq : Nat := 0
  /-- bytes sent of the image, and its last row read from the gallery -/
  sent : Nat := 0
  readDone : Bool := false
  /-- the token that stands for the send: the TAG it carried, and the bytes it reserves -/
  token : Option (BitVec 16 × Nat) := none
  /-- index of the reservation of a receive role -/
  index : Nat := 0
  /-- bytes received, and whether the image is complete -/
  got : Nat := 0
  lastIn : Bool := false
  /-- XCC: the received image, the send tile's scale area as it was read (18 R468), rows combined, and the status word they give -/
  buf : List Byte := []
  scales : Option (List Byte) := none
  rows : Nat := 0
  marks : W64 := 0
  begun : Bool := false
  finished : Bool := false
  /-- cancelled by the partner, or the partner cannot be reached -/
  broken : Option Cause := none
  deriving DecidableEq, Repr

/-- The nine flags of a status word, at their bit positions (11 Table 11.10). -/
abbrev Flags := BitVec 9

/-- What an operation merges into a status word: flags, the two counts, and FBLK (R303). -/
structure Marks where
  flags : Flags := 0
  satn : Nat := 0
  escn : Nat := 0
  fblk : Nat := 0
  deriving DecidableEq, Repr

/-- A command held by an engine: what it read and captured at its issue (16 R403, 17 R429, 18 R463). -/
structure Cmd where
  instr : Instr
  cmdix : BitVec 32
  /-- its place among the die's accesses in issue order -/
  id : Nat := 0
  /-- the copy or exchange stream it issued to -/
  stream : Nat := 0
  /-- tiles it moved out of READY (08 R198) -/
  moved : List Nat := []
  /-- bundle that issued it -/
  faddr : Nat
  a0 : W72 := 0
  a1 : W72 := 0
  s0 : W64 := 0
  s1 : W64 := 0
  s2 : W64 := 0
  s3 : W64 := 0
  shape : Shape := {}
  nest : Nest := {}
  tile : Tile := {}
  tile2 : Tile := {}
  cb : BitVec 256 := 0
  /-- rounding mode and random state captured (11 R290 to R292) -/
  rmode : W64 := 0x9E3779B900000000
  bindings : FMap Binding := []
  /-- task's replay and its graph's node count, for decrements -/
  replay : Nat := 0
  /-- fabric time at issue (10 R271) -/
  issued : Nat := 0
  /-- stamp of a sequentially consistent operation (09 R238) -/
  stamp : Nat := 0
  /-- landing buffer entry its result takes -/
  landing : Option Nat := none
  /-- a follow-on waiting for its copy: the 56 bits of the slot (17 R436) -/
  follow : Option (BitVec 64) := none
  begun : Bool := false
  /-- the lines of a remote tile have been asked for, together (09 R244, R246) -/
  locked : Bool := false
  /-- armed monitor (17 R450) -/
  armed : Bool := false
  /-- stands parked with this fault record (10 R258), retrying when `resumed` -/
  parked : Option Nat := none
  /-- rows, granules or depth positions done (10 Table 10.3) -/
  done : Nat := 0
  /-- marks of the results a conversion has written, for its tile's status word (11 R304, R305) -/
  marks : List Marks := []
  /-- timer passed while waiting in the stream (10 R271) -/
  late : Bool := false
  roles : List Role := []
  /-- SC: performed at its home -/
  performed : Bool := false
  deriving DecidableEq, Repr

/-- Everything a context owns on a die and takes with it (07 R159 R160, 10 Table 10.7). -/
structure Ctxt where
  s : FMap W64 := []
  a : FMap W72 := []
  v : FMap Vec := []
  p : FMap Bool := []
  k : FMap Mask := []
  h : FMap Shape := []
  j : FMap (BitVec 32) := []
  cb : FMap (BitVec 256) := []
  /-- accumulator elements, key z · 16384 + 128 · i + j -/
  z : FMap W64 := []
  zkind : FMap AccKind := []
  zstat : FMap W64 := []
  /-- panel bytes, key y · 524288 + offset -/
  y : FMap Byte := []
  /-- panels written since their last clear (16 R401) -/
  yUsed : FMap Bool := []
  /-- panel bytes that read with an uncorrectable error, by the key of `y` (16 R412): GALLERY_SWEEP brings them (assumption 50) -/
  yBad : List Nat := []
  /-- product table (11 R297) -/
  ptab : FMap (BitVec 32) := []
  nests : FMap Nest := []
  bindings : FMap Binding := []
  tiles : FMap Tile := []
  alcove : FMap Byte := []
  /-- unlisted alcove bytes are free values from this draw on (06 Table 6.5); none: zero -/
  alcoveFree : Option Nat := none
  loop : Option Loop := none
  -- system registers (14 Table 14.4)
  scm : W64 := 0
  lxor : W64 := 0
  lperm : W64 := 0xDCBA9876543210
  ctxbase : W64 := 0
  ctxbound : W64 := 0
  cbase : W64 := 0
  gotbase : W64 := 0
  tvec : W64 := 0
  trecbase : W72 := 0
  tdepth : Nat := 0
  inHandler : Bool := false
  cmdix : BitVec 32 := 0
  logbase : W72 := 0
  xwait : W64 := 1000
  rmode : W64 := 0x9E3779B900000000
  vstat : W64 := 0
  chksb : W64 := 0
  wheel : W64 := 0
  lim : Nat := 64000
  /-- LASTIX of each entered handler (10 R254), newest first -/
  lastix : List (BitVec 32) := []
  -- engines (16 R403, 17 R428, 18 R463): oldest command first
  matQ : List Cmd := []
  copyQ0 : List Cmd := []
  copyQ1 : List Cmd := []
  xchQ0 : List Cmd := []
  xchQ1 : List Cmd := []
  /-- stopping events that wait for a boundary (10 R253) -/
  pendTraps : List Trap := []
  deriving DecidableEq, Repr

/-! ## The sequencer (07) -/

/-- A register of Table 7.2 or a system register, as a destination or a source. -/
inductive Reg where
  | s (i : Nat) | a (i : Nat) | v (i : Nat) | p (i : Nat) | k (i : Nat) | h (i : Nat) | e (i : Nat) | sys (i : Nat)
  deriving DecidableEq, Repr

/-- A register write with its value. -/
inductive RegWrite where
  | s (i : Nat) (x : W64)
  | a (i : Nat) (x : W72)
  /-- the bits of m are written (15 R378) -/
  | v (i : Nat) (x m : Vec)
  | p (i : Nat) (x : Bool)
  | k (i : Nat) (x m : Mask)
  | h (i : Nat) (x : Shape)
  /-- level l of a nest set, with the run at level 0 (17 R432) -/
  | e (i l : Nat) (x : Level) (run : Option (BitVec 24))
  | sys (i : Nat) (x : W72)
  deriving DecidableEq, Repr

/-- A fixed-latency write of an issued bundle that has not taken effect (07 R158, R168). -/
structure Pend where
  /-- issue cycle, and the cycle it takes effect -/
  at_ : Nat := 0
  due : Nat
  write : RegWrite
  deriving DecidableEq, Repr

/-- A producer as the checking scoreboard sees it (07 R170), in scheduled cycles. -/
structure Score where
  reg : Reg
  ready : Nat
  landing : Bool
  deriving DecidableEq, Repr

/-- Contiguous bytes of one access. -/
structure Piece where
  va : W72
  len : Nat
  deriving DecidableEq, Repr

/-- How a landing's bytes go into registers. -/
inductive LandDest where
  /-- n bytes into an s register, sign-extended or not (14 R354, 17 R444) -/
  | s (i : Nat) (n : Nat) (signed : Bool)
  /-- 16 bytes, of which 72 bits, into an a register -/
  | a (i : Nat)
  /-- lanes of w bits each into the lanes listed of a v register (15 R394) -/
  | v (i : Nat) (w : Nat) (lanes : List Nat)
  /-- 16 bytes into an s register pair (17 R445) -/
  | pair (i : Nat)
  /-- a value and a status into an s pair and a predicate (17 R450) -/
  | waita (i : Nat) (p : Nat) (threshold : W64)
  /-- nothing: the entry only waits -/
  | discard
  deriving DecidableEq, Repr

/-- A landing buffer entry (07 R173). -/
structure Landing where
  id : Nat
  at_ : Nat := 0
  due : Nat
  dest : LandDest
  /-- the accesses of a load; none for a command's result -/
  pieces : List Piece := []
  /-- translated: the physical address of each byte, with the byte where the L1 gave it at issue -/
  pas : List (Nat × Option Byte) := []
  attr : Nat := 0
  /-- a vector access (15 R395: a DEV page faults) -/
  vec : Bool := false
  data : Option (List Byte) := none
  fault : Option Trap := none
  faddr : Nat := 0
  deriving DecidableEq, Repr

/-- A store issued and not performed (14 R355): the bytes it writes at physical addresses. -/
structure Store where
  id : Nat
  va : W72
  /-- bytes at virtual addresses, until the translation is made -/
  vbytes : List (Nat × Byte) := []
  bytes : List (Nat × Byte) := []
  /-- page attribute of each access: 0 WT, 1 SWM, 2 UC, 3 DEV -/
  attr : Nat := 0
  fault : Option Trap := none
  faddr : Nat := 0
  /-- a vector access (15 R395: a DEV page faults) -/
  vec : Bool := false
  /-- sent to a remote home and not acknowledged -/
  sent : Bool := false
  deriving DecidableEq, Repr

/-- A half of the loop buffer (07 R182): the segment slot and the lines expanded. -/
structure Half where
  seg : Nat := 0
  live : Bool := false
  /-- the line expanded first -/
  start : Nat := 0
  /-- the trailer's 16 bytes (Table 7.6) -/
  trailer : List Byte := []
  /-- malformed (07 R181) -/
  bad : Bool := false
  lines : FMap (List Byte) := []
  deriving DecidableEq, Repr

/-- What the sequencer is doing (07 R167). -/
inductive Run where
  /-- no task on the die -/
  | idle
  /-- a context is on the die and its bundles are decided and issued -/
  | running
  /-- FEND has issued: the task's work completes (14 R364) -/
  | ending
  /-- the task has ended or stopped: the scheduler has not taken notice -/
  | ended
  deriving DecidableEq, Repr

/-- How a task on a die came to its end (06 R152). -/
inductive EndCause where
  /-- the cause, and the engine of the trap record -/
  | fend | failed (cause : Cause) (engine : Nat) | overran
  deriving DecidableEq, Repr

/-- The bundle decided and held (07 R166): the guards read and the wait left. -/
structure Held where
  guards : List Bool
  wait : Nat
  /-- scheduled cycles of its decision and its issue -/
  dec : Nat
  sched : Nat
  deriving DecidableEq, Repr

/-- What later memory accesses wait for (14 R375, 17 R449, 18 R469). -/
inductive MemWait where
  /-- FENCE: these accesses and commands are to be performed, then the acquire half, if any, acts -/
  | fence (accesses : List Nat) (cmds : List (BitVec 32)) (scope : Nat) (acquire : Bool)
  /-- ACQ: a command that must complete before a later memory access -/
  | command (cmdix : BitVec 32)
  /-- DBAR.wait: one that must complete before any later bundle -/
  | barrier (cmdix : BitVec 32)
  deriving DecidableEq, Repr

/-- The sequencer's own state. -/
structure Seq where
  run : Run := .idle
  pc : Nat := 0
  /-- the die cycle that comes next -/
  cycle : Nat := 0
  /-- the trap record read at a remote home, for the TRET that waits (10 R257) -/
  record : Option (List Byte × Bool) := none
  /-- decision cycle of the bundle at pc -/
  decideAt : Nat := 0
  /-- the same, as scheduled (07 R166) -/
  schedAt : Nat := 0
  held : Option Held := none
  pend : List Pend := []
  score : List Score := []
  landings : List Landing := []
  stores : List Store := []
  /-- place of the next access in issue order; 0 is no access -/
  nextId : Nat := 1
  /-- pc was reached by falling through a segment with NOFALL (07 R181) -/
  noFall : Bool := false
  /-- the cold page of the bundle at pc could not be fetched (04 R101) -/
  coldBad : Bool := false
  halfCur : Half := {}
  halfNext : Half := {}
  memWait : List MemWait := []
  preempt : Bool := false
  haltReq : Option Nat := none
  endCause : Option EndCause := none
  /-- the stopping event taken, while the die drains (07 R175) -/
  taking : Option Trap := none
  /-- control transfer of the bundle issuing: target and cycles to its decision (07 R164, 10 R257) -/
  target : Option (Nat × Nat) := none
  /-- TRAP of the bundle issuing (14 R372) -/
  soft : Option Trap := none
  /-- gallery writes of the bundle issuing, in slot order, made after its reads (15 R397) -/
  gwrites : List (List (Nat × Byte)) := []
  /-- draws of the last wall cycles, newest first (07 R177) -/
  window : List Nat := []
  /-- the last wall cycle was frozen, and the engines with it (07 R162); copy commands before this place go on, which late data wait
  for -/
  frozen : Bool := false
  frozenTo : Nat := 0
  deriving DecidableEq, Repr

/-- Counters of a die (07 Table 7.12, 14 Table 14.6). -/
structure Counters where
  cyc : W64 := 0
  pfrz : W64 := 0
  lfrz : W64 := 0
  cfrz : W64 := 0
  istl : W64 := 0
  ibun : W64 := 0
  inul : W64 := 0
  icmd : W64 := 0
  mbusy : W64 := 0
  landn : W64 := 0
  l1miss : W64 := 0
  stalef : W64 := 0
  hshort : W64 := 0
  deriving DecidableEq, Repr

/-! ## Memory of a die (08) -/

/-- A gallery row's lifetime tag (08 R200) and its poison (08 R205). -/
structure Tag where
  wtime : BitVec 32 := 0
  cls : BitVec 3 := 0
  exp : Bool := true
  poison : Bool := false
  deriving DecidableEq, Repr

/-- A valid byte of the L1 (08 R206). -/
structure L1Byte where
  b : Byte
  dirty : Bool := false
  swm : Bool := false
  deriving DecidableEq, Repr

/-- A leaf translation a TLB holds (08 R221). -/
structure TlbEntry where
  ctx : Nat
  /-- first virtual address of the page -/
  va : Nat
  size : Nat
  pte : W64
  deriving DecidableEq, Repr

/-! ## Tasks (06) -/

/-- A task: an iteration of a flight in a replay (06 R128, R142). -/
structure Task where
  /-- the replay, by the model's own number -/
  rid : Nat
  node : Nat
  ordinal : Nat
  tuple : List Nat
  reruns : Nat := 0
  ready : Nat := 0
  base : Nat := 0
  /-- the saved context it resumes, by the model's own number -/
  saved : Option Nat := none
  deriving DecidableEq, Repr

/-- The task a die runs (06 R143, R151). -/
structure DieTask where
  task : Task
  ctx : Nat
  slot : Nat
  pinned : Bool := false
  xkey : Byte := 0
  /-- budget in FTC ticks, 0 none, and the ticks counted -/
  budget : Nat := 0
  used : Nat := 0
  /-- FTC when the used ticks were last counted, if they run -/
  since : Option Nat := none
  banks : BitVec 16 := 0
  stepping : Byte := 0
  /-- its first bundle has issued -/
  started : Bool := false
  deriving DecidableEq, Repr

/-- A preload held or in progress (06 R148 to R150). -/
structure Preload where
  task : Task
  ctx : Nat
  bank : Nat
  /-- rows written, in the bank -/
  rows : Nat
  /-- bytes to write and written -/
  len : Nat
  done : Nat
  src : W72
  seg : Option Half := none
  parked : Option Nat := none
  hasData : Bool := false
  deriving DecidableEq, Repr

/-- An arrival in a log (10 Table 10.9): kind 1 PUSH, 2 RTOK, 4 DBAR; the packet is kept with it (its TAG has no place in the
entry). -/
structure LogEntry where
  kind : Nat
  dim : Nat
  ch : Nat
  seq : Nat
  time : Nat
  pkt : Packet
  deriving DecidableEq, Repr

/-- How a context was saved (10 R265, R267). -/
inductive SaveKind where
  | full | resident (die : Nat)
  deriving DecidableEq, Repr

/-- A context off the dies (10 R264 to R269): what the save slot's header and documented areas do not give. -/
structure Saved where
  id : Nat
  task : DieTask
  kind : SaveKind
  ctxt : Ctxt
  pc : Nat
  die : Nat
  rowLim : Nat
  colLim : Nat
  /-- arrivals logged (10 R268), oldest first -/
  log : List LogEntry := []
  /-- landing buffer entries of commands saved unbegun behind a parked copy, `due` the cycles left (10 R263) -/
  landings : List Landing := []
  /-- what its later bundles and accesses wait for (14 R375, 17 R449, 18 R469) -/
  memWait : List MemWait := []
  /-- a resident save whose panels have been written to the slot (10 R267) -/
  panelsOut : Bool := false
  deriving DecidableEq, Repr

/-! ## Debug block (10 Table 10.10) -/

structure Debug where
  group : Bool := false
  halted : Bool := false
  reason : Nat := 0
  accerr : Bool := false
  brk : BitVec 56 := 0
  brken : Bool := false
  file : Byte := 0
  index : BitVec 12 := 0
  word : Byte := 0
  /-- the die whose halt began the cascade -/
  origin : Option Nat := none
  /-- a step is running -/
  stepping : Bool := false
  /-- a bundle that a resume runs past its breakpoint -/
  pass : Option Nat := none
  /-- arrivals logged while halted (10 R268) -/
  log : List LogEntry := []
  deriving DecidableEq, Repr

/-! ## Links (02) and node fabric (03) -/

/-- LSTAT.STATE (02 R38). -/
inductive LinkState where
  | down | train | active | remap | dead | off
  deriving DecidableEq, Repr

/-- A remap or fast switch in progress (02 R39, R40, R43). -/
structure Remap where
  /-- a fast switch between lit states: no retrain -/
  fast : Bool := false
  /-- this end's receive mask, offered in MAPPROP -/
  mine : BitVec 16 := 0
  reason : Byte := 0
  /-- the far end's proposal, which becomes this end's transmit mask -/
  theirs : Option (BitVec 16) := none
  /-- the far end has answered this end's proposal -/
  acked : Bool := false
  /-- the laser state the sequence leads to -/
  ls : Option Nat := none
  /-- LSEQ from which the new set applies: of this end's flits, as its MAPACK named it, and of the far end's -/
  txFrom : Option (BitVec 13) := none
  rxFrom : Option (BitVec 13) := none
  /-- step 5 (R39): this end has retrained and sent its NAK; the far end's NAK has come -/
  trained : Bool := false
  naked : Bool := false
  deriving DecidableEq, Repr

/-- What the device remembers of a lane's samples (02 R37): uncorrected codewords with their times, and the last millisecond
window over the bit-error limit with the length of its run. -/
structure Watch where
  uncw : List (Nat × Nat) := []
  window : Nat := 0
  run : Nat := 0
  deriving DecidableEq, Repr

/-- A flit waiting to be sent: its channel, its place in a packet and its payload. -/
structure OutFlit where
  ch : BitVec 3
  sop : Bool := true
  eop : Bool := true
  payload : List Byte
  deriving DecidableEq, Repr

/-- A packet with its channel. -/
structure OutPkt where
  ch : BitVec 3
  pkt : Packet
  deriving DecidableEq, Repr

/-- One link of a node (02 Tables 2.7 to 2.17, 03 Tables 3.7, 3.8). -/
structure Link where
  enable : Bool := true
  fastwake : Bool := true
  minw : BitVec 4 := 1
  lsset : BitVec 2 := 0
  state : LinkState := .down
  ls : Nat := 0
  lsbusy : Bool := false
  lsrej : Bool := false
  maprej : Bool := false
  polrej : Bool := false
  deadev : Bool := false
  restarts : Nat := 0
  txmap : BitVec 16 := 0
  rxmap : BitVec 16 := 0
  propose : BitVec 16 := 0xFFFF
  crcerr : Nat := 0
  replays : Nat := 0
  remaps : Nat := 0
  uncorr : Nat := 0
  /-- LUTIL of the last completed window, and the counts of the window in progress -/
  flits : Nat := 0
  qmax : Nat := 0
  flitsNow : Nat := 0
  qmaxNow : Nat := 0
  lpol : W64 := 0x0002080C60000420
  lanes : FMap Health := []
  watch : FMap Watch := []
  /-- FTC of the flits that failed their check in the last microsecond (02 R37) -/
  crcTimes : List Nat := []
  below : Nat := 0
  bar : Nat := 0
  prev : Nat := 0
  /-- next LSEQ to assign, and next expected -/
  txSeq : BitVec 13 := 0
  rxSeq : BitVec 13 := 0
  /-- a flit has been received in order since the link trained: ASEQ is valid -/
  rxAny : Bool := false
  /-- sequenced flits not yet acknowledged, oldest first (02 R33) -/
  replay : List Flit := []
  /-- flits of the replay buffer still to be sent again -/
  resend : List Flit := []
  /-- LSEQ of the last of a run of flits beyond the one expected, whose replay has been asked for -/
  gapRun : Option (BitVec 13) := none
  /-- flits received since this end last sent ASEQ (02 R33) -/
  unreported : Nat := 0
  /-- the beats of the flit last sent: lane and byte (02 R35) -/
  wire : List (List (Nat × Byte)) := []
  /-- flits of packets begun, and link-control flits, in sending order -/
  flitQ : List OutFlit := []
  /-- packets placed on the link, and those begun whose last flit is not acknowledged, with that flit's LSEQ -/
  pktQ : List OutPkt := []
  inflight : List (OutPkt × Option (BitVec 13)) := []
  remapping : Option Remap := none
  /-- the laser state this end has asked for, and when -/
  lsReq : Option (Nat × Nat) := none
  /-- a request held until ACTIVE, and since when (02 R40) -/
  lsHeld : Option (Nat × Nat) := none
  /-- waits for a lighting slot or for the laser limit (01 R24, 02 R46) -/
  lighting : Bool := false
  upWait : Option Nat := none
  /-- the state a ramp leads to -/
  ramp : Option Nat := none
  waking : Bool := false
  /-- the link trains within its kept lane maps (05 Table 5.3 step 7, Table 5.7) -/
  keepMaps : Bool := false
  -- DETOUR
  ddim : BitVec 4 := 1
  den : Bool := true
  dactive : Bool := false
  draining : Bool := false
  dfail : Bool := false
  wrej : Bool := false
  /-- packets held while the detour drains or is unavailable -/
  held : List OutPkt := []
  /-- drain markers received from the far node, by channel -/
  drains : List Nat := []
  drainAt : Nat := 0
  /-- DETOUR writes made while it drains, oldest first -/
  detourWrites : List W64 := []
  /-- old detour dimension of a drain; none where the old path is the link's detour and the new the link -/
  drainOld : Nat := 0
  -- digests, by class
  digtx : FMap W64 := []
  digrx : FMap W64 := []
  /-- packets being reassembled, by channel: flits received -/
  asm : FMap (List (List Byte)) := []
  deriving DecidableEq, Repr

/-- An end-to-end send entry (03 R62). -/
structure SendEntry where
  peer : Nat
  cls : Nat
  epoch : BitVec 4
  next : Nat := 0
  /-- unacknowledged packets, oldest first -/
  unacked : List OutPkt := []
  /-- FTC when the timer was started -/
  timer : Nat := 0
  timeouts : Nat := 0
  /-- a BUSY EACK: the next timeout does not count (10 R274) -/
  busy : Bool := false
  idle : Nat := 0
  deriving DecidableEq, Repr

/-- An end-to-end receive entry (03 R63, R64). -/
structure RecvEntry where
  peer : Nat
  cls : Nat
  epoch : BitVec 4
  /-- next expected ESEQ, or the window's base -/
  expect : Nat := 0
  arrived : List Nat := []
  eack : Bool := false
  busy : Bool := false
  idle : Nat := 0
  deriving DecidableEq, Repr

/-- An entry of the reservation table (18 R461): a reservation of this die, or a token that has arrived. -/
structure Resv where
  own : Bool
  index : Nat
  /-- the partner -/
  peer : Nat
  dim : Nat
  ch : Nat
  seq : Nat
  key : Byte
  bytes : Nat
  /-- a token's DBAR flag -/
  dbar : Bool := false
  /-- own: stream and bytes written; a token: the TAG it carried -/
  stream : Nat := 0
  tag : BitVec 16 := 0
  deriving DecidableEq, Repr

/-- A cancellation held for a role that has not begun (18 R471). -/
structure Cancel where
  peer : Nat
  dim : Nat
  ch : Nat
  seq : Nat
  key : Byte
  srole : Bool
  deriving DecidableEq, Repr

/-- What a reply from another package completes (03 R56). -/
inductive Waiter where
  /-- fill of an atrium copy, for loads, walks and copies -/
  | fill (line : Nat)
  /-- a read of a UC or DEV page at its exact size, for a landing (08 R213) -/
  | load (id : Nat)
  /-- the trap record that a TRET reads from a UC or DEV page (10 R256, R257) -/
  | record
  | store (id : Nat)
  | atomic (stream : Nat)
  | tile (stream : Nat)
  /-- a write of a host copy of a class, and of a replay's done area -/
  | host (pool : Bool)
  | done (rid : Nat)
  /-- a decrement of a spill word at another package (06 R138) -/
  | spill (rid node : Nat)
  /-- nothing: its command or access went with a context that failed; whether it writes (06 R135) -/
  | gone (writes : Bool)
  deriving DecidableEq, Repr

/-- A request sent to another package (08 R192, R217). -/
structure Request where
  tag : BitVec 16
  peer : Nat
  waiter : Waiter
  /-- the line it asks for or writes -/
  line : Nat := 0
  /-- a fill made before an acquire of its line: its bytes are not kept (09 R233) -/
  stale : Bool := false
  /-- the replay whose task made it (06 R135) -/
  rid : Option Nat := none
  /-- a write that marks its line poisoned (10 R265) -/
  poison : Bool := false
  /-- not sent: type and payload, while every TAG of its storage class is in use (03 R56) -/
  unsent : Option (Byte × List Byte) := none
  deriving DecidableEq, Repr

/-- Lines of a tile group collected at the home (08 R217, 09 R246). -/
structure Group where
  peer : Nat
  group : Nat
  lines : List (Nat × List (Option Byte))
  /-- TAGs of the MWRs, answered when the group has been applied -/
  tags : List (BitVec 16) := []
  /-- lines written with POISON set (10 R265) -/
  bad : List Nat := []
  deriving DecidableEq, Repr

/-- Node fabric of a die (03, 18). -/
structure Fabric where
  e2eto : BitVec 16 := 100
  e2erty : BitVec 4 := 8
  ftcm : Bool := false
  dups : Nat := 0
  detdrop : Nat := 0
  noreach : Nat := 0
  badpkt : Nat := 0
  sends : List SendEntry := []
  recvs : List RecvEntry := []
  /-- epoch table, key NID · 4 + class; unlisted is invalid -/
  epochs : FMap (BitVec 4) := []
  /-- key (XKEY · 16 + logical dimension) · 2 + channel -/
  sseq : FMap (BitVec 16) := []
  rseq : FMap (BitVec 16) := []
  resv : List Resv := []
  nextResv : Nat := 0
  /-- pushes accepted that wait for the gallery's ports to move again (07 R162), with their reservations -/
  heldPushes : List (Resv × Packet) := []
  cancels : List Cancel := []
  /-- roles of this node that were cancelled (10 R271) -/
  dead : List Cancel := []
  /-- announced states of neighbours' links, key (dimension to the neighbour) · 16 + its dimension: (STATE, LS) -/
  views : FMap (LinkState × Nat) := []
  requests : List Request := []
  nextTag : Nat := 0
  groups : List Group := []
  nextGroup : Nat := 1
  /-- packets for this node itself or waiting for an end-to-end entry, by class -/
  stalled : List OutPkt := []
  -- FTC (03 Table 3.11)
  ftc : W64 := 0
  /-- picoseconds beyond the count -/
  ps : Nat := 0
  unsync : Bool := true
  parent : BitVec 4 := 0
  offset : BitVec 32 := 0
  steps : BitVec 16 := 0
  good : Nat := 0
  lastSample : Nat := 0
  /-- FTC of the last TSYNC -/
  syncAt : Nat := 0
  /-- sample in progress: t1 in picoseconds, and whether it is spoiled -/
  sample : Option (Nat × Bool) := none
  /-- picoseconds to hold, and to slew: up or down -/
  hold : Nat := 0
  slewUp : Nat := 0
  slewDown : Nat := 0
  deriving DecidableEq, Repr

/-- One compute die with its node. -/
structure Die where
  c : Ctxt := {}
  seq : Seq := {}
  cnt : Counters := {}
  gallery : FMap Byte := []
  tags : FMap Tag := []
  /-- single-bit errors corrected (08 R205): no register shows the count -/
  corrected : Nat := 0
  bankCls : FMap Nat := []
  /-- LAST[c] of bank b at key 8 · b + c; unlisted: never -/
  bankLast : FMap Nat := []
  sweepAt : FMap Nat := []
  /-- lines of another package that a PREF fills into the L1 when they come, with their pages' attributes (17 R442) -/
  prefs : FMap Nat := []
  /-- rows that engine ports have moved and whose weight has not been drawn, by bank (07 R176) -/
  port : FMap Nat := []
  temp : BitVec 12 := 0
  l1 : FMap L1Byte := []
  tlb : List TlbEntry := []
  task : Option DieTask := none
  lastCtx : Option Nat := none
  preload : Option Preload := none
  /-- the preload that the loader makes for the task the die has been given, before its first bundle (06 R148) -/
  load : Option Preload := none
  /-- PWRLIM.CAP, HALF, HALFON; PWRWIN -/
  cap : Nat := 64000
  half : Bool := false
  halfOn : Bool := false
  sum : Nat := 0
  peak : Nat := 0
  dbgBlock : Debug := {}
  links : FMap Link := []
  fab : Fabric := {}
  /-- the gang this die is held for: replay and node (06 R147) -/
  gang : Option (Nat × Nat) := none
  powered : Bool := false
  /-- column groups powered, 0 to 8 (01 R22, R23) -/
  groups : Nat := 0
  /-- wheel count when a group was last powered on leaving half-array mode (01 R23) -/
  groupAt : Option Nat := none
  deriving DecidableEq, Repr

/-! ## Trust, start, power (05) -/

/-- An entry of the verified-image cache (05 R110). -/
structure CacheEntry where
  firmware : Bool
  hash : List Byte
  svn : Nat
  key : List Byte
  deriving DecidableEq, Repr

/-- The management core's state. -/
structure Trust where
  ps : Nat := 0
  dbg : Nat := 0
  start : Nat := 1
  failcnt : Nat := 0
  lasterr : Nat := 0
  /-- fuse counter, and the counter as read at the last cold start -/
  fuseSvn : Nat := 0
  faFuse : Bool := false
  codefloor : Nat := 0
  /-- SVNCOMMIT pending -/
  commit : Option Nat := none
  flash : List Byte := []
  fwSvn : Nat := 0
  fwHash : List Byte := []
  recLen : BitVec 26 := 0
  recErr : Bool := false
  /-- host image buffer in recovery -/
  recImage : FMap Byte := []
  /-- the start step in progress, 1 to 12; 0 when none runs -/
  step : Nat := 1
  cold : Bool := true
  /-- the debug state a transition asks for at step 12, with its scope -/
  dbgNext : Option Nat := none
  scopeNext : BitVec 3 := 0
  scope : BitVec 3 := 0
  keys : FMap (List Byte) := []
  locked : Bool := false
  cache : List CacheEntry := []
  mlog : List (List Byte) := []
  nonce : Option W64 := none
  eventLog : List (Nat × BitVec 12) := []
  /-- next unit of a staggered power-up (01 Table 1.4) to begin -/
  stagger : Option Nat := some 0
  /-- the wheel count from which its units are timed: T of Table 1.4, later where the sequence has waited -/
  staggerAt : Nat := 0
  trip : Bool := false
  /-- PS1 or PS2 exit in progress -/
  psExit : Bool := false
  /-- junction temperatures of base dies, 16 + b -/
  baseTemp : FMap (BitVec 12) := []
  /-- ARENA.SIZE as written -/
  arenaSize : Byte := 4
  arenaBase : BitVec 30 := 0x4000000
  /-- the wheel count when vector 65 was last raised, while its interval is open (04 R83) -/
  v65At : Option Nat := none
  v65Pending : Bool := false
  /-- the host port is without power, since a supply event of its rail (04 R83, 01 Table 1.3) -/
  portDark : Bool := false
  idKey : List Byte := []
  attKey : List Byte := []
  deriving DecidableEq, Repr


/-! ## Queues, contexts, objects (04) -/

/-- A command as it stands in its ring (04 Table 4.6), with what acceptance fixed. -/
structure Command where
  op : Byte
  flags : Byte
  cid : BitVec 16
  ctx : BitVec 16
  /-- the 64 bytes of the entry -/
  bytes : List Byte
  /-- a blocked command: WAIT begun at this FTC, PATCH or LAUNCH held -/
  since : Option Nat := none
  deriving DecidableEq, Repr

/-- A command queue (04 R87 to R93). -/
structure Queue where
  en : Bool := false
  prio : BitVec 3 := 0
  log2n : BitVec 4 := 6
  off : BitVec 16 := 0
  /-- QCPL.ADDR, bits 63:4 -/
  cpl : BitVec 60 := 0
  head : BitVec 15 := 0
  tail : BitVec 15 := 0
  blocked : Bool := false
  cfgrej : Bool := false
  dberr : Bool := false
  halted : Bool := false
  phase : Bool := true
  /-- completions written on this pass -/
  cplIdx : Nat := 0
  /-- the command in progress -/
  cmd : Option Command := none
  /-- ASYNC commands accepted and not complete -/
  async : Nat := 0
  /-- FTC when the entry at the head became ready to read (04 R90) -/
  readyAt : Option Nat := none
  /-- FTC when it halted with such an entry -/
  haltedAt : Option Nat := none
  /-- a disable waits for the command in progress (04 Table 4.3) -/
  disabling : Bool := false
  deriving DecidableEq, Repr

/-- A context's binding block and root (04 R95 Table 4.13). -/
structure Context where
  root : Nat
  scm : BitVec 14
  lxor : BitVec 14
  lperm : BitVec 56
  anchor : BitVec 14
  wbase : Byte
  wstep : Byte
  wcount : BitVec 16
  savebase : W64
  saven : Nat
  xkey : Byte
  arenava : W64
  deriving DecidableEq, Repr

/-- A loaded code object (04 R99 to R103). -/
structure Obj where
  /-- arena offset and size in 64 KiB units -/
  off : Nat
  units : Nat
  hotUnits : Nat
  coldUnits : Nat
  constLen : Nat
  gotLen : Nat
  coldLen : Nat
  /-- GOT offset from the object's base -/
  constOff : Nat
  gotOff : Nat
  ptOff : Nat
  patchOff : Nat
  stepping : Byte
  svn : Nat
  fusel1 : Bool
  measurement : List Byte
  deriving DecidableEq, Repr

/-- A cold page fetch in progress (04 R101). -/
structure ColdFetch where
  handle : Nat
  page : Nat
  /-- its class, and the number of the first copy accepted after it (R96) -/
  pool : Bool := false
  place : Nat := 0
  deriving DecidableEq, Repr

/-- A copy by base die 0's engine: a COPY command or a COPY node (04 R96 R97, 06 R141). -/
structure HostCopy where
  /-- the model's own number -/
  id : Nat := 0
  ctx : Nat
  phys : Bool
  src : Nat
  dst : Nat
  len : Nat
  done : Nat := 0
  pool : Bool
  /-- the queue, CID and flags of a command; none for a node -/
  queue : Option (Nat × BitVec 16 × Byte)
  /-- the node of a replay -/
  node : Option (Nat × Nat)
  reruns : Nat := 0
  ready : Nat := 0
  parked : Option Nat := none
  /-- it has the engine; a write of it can no longer be performed -/
  begun : Bool := false
  lost : Bool := false
  /-- bytes of the chunk written and not acknowledged -/
  sent : Nat := 0
  deriving DecidableEq, Repr

/-! ## Replays (06) -/

/-- A graph's descriptor (06 Table 6.1, bytes 63:0). -/
structure GraphDesc where
  nodes : Nat
  tmo : Nat
  nodeBase : Nat
  succBase : Nat
  ver0 : Nat
  ver1 : Nat
  psize : Nat
  rslots : Nat
  doneVa : Nat
  spill : Nat
  deriving DecidableEq, Repr

/-- A graph's state (06 Table 6.1, bytes 127:64). -/
structure GraphState where
  ctx : Nat
  va : Nat
  /-- current slot, the version number it holds, and whether the other slot holds a version -/
  cur : Nat := 0
  number : Nat := 0
  next : Nat := 1
  nextReplay : Nat := 0
  regions : List Nat := []
  retired : Nat := 0
  abortedN : Nat := 0
  xrep : Nat := 0
  xstat : Nat := 0
  xcause : Nat := 0
  xnode : Nat := 0
  /-- bytes 127:64 as last written by the device: free values from this draw on -/
  image : Option Nat := none
  deriving DecidableEq, Repr

/-- A node record (06 Tables 6.2, 6.3). -/
structure Node where
  kind : Nat
  pinned : Bool
  migr : Bool
  prioset : Bool
  ovrabort : Bool
  pre : Bool
  prio : Nat
  retry : Nat
  nlev : Nat
  order : List Nat
  desig : BitVec 6
  extra : Nat
  npred : Nat
  entry : Nat
  param : Nat
  budget : Nat
  succ : Nat
  nsucc : Nat
  banks : BitVec 16
  bounds : List Nat
  psrc : Nat
  plen : Nat
  pbank : Nat
  ptile : Nat
  pfmt : Nat
  prows : Nat
  pcols : Nat
  csrc : Nat
  cdst : Nat
  clen : Nat
  deriving DecidableEq, Repr

/-- A flight under way (06 R142 to R147): next ordinals, tasks to run again, iterations ended. -/
structure Flight where
  node : Node
  ready : Nat
  /-- the next ordinal the walk of the free stream looks at -/
  nextN : Nat := 0
  /-- iterations to run again -/
  requeued : List Task := []
  /-- pinned: next ordinal of each logical die -/
  pinNext : FMap Nat := []
  /-- kept iterations not yet ended by FEND -/
  left : Nat
  /-- the gang has been dispatched -/
  ganged : Bool := false
  deriving DecidableEq, Repr

/-- Why a replay was aborted (06 Table 6.4). -/
structure Abort where
  xstat : Nat
  cause : Nat
  node : Nat
  deriving DecidableEq, Repr

/-- An unretired replay (06 R134). -/
structure Replay where
  rid : Nat
  ctx : Nat
  graph : Nat
  number : Nat
  slotVa : Nat
  region : Nat
  handle : Nat
  prio : Nat
  /-- the launching command: queue, CID, flags -/
  queue : Nat
  cid : BitVec 16
  flags : Byte
  accepted : Nat
  desc : GraphDesc
  /-- hardware counters: node and the decrements still expected (06 R138) -/
  hw : FMap Nat := []
  /-- nodes with a spill word -/
  spilled : List Nat := []
  /-- nodes that became ready and when, in the order they did; those with a pool entry -/
  readyList : List (Nat × Nat) := []
  pooled : List Nat := []
  overflow : List Nat := []
  /-- entries the overflow list has taken in all, and those whose record or place could not be reached yet: place and node (06 R139) -/
  listed : Nat := 0
  listing : List (Nat × Nat) := []
  /-- nodes whose spill word, at another package, is to be read after a decrement (06 R138) -/
  spillRead : List Nat := []
  flights : FMap Flight := []
  completed : Nat := 0
  aborted : Option Abort := none
  /-- the done area has been written, or could not be (06 R135) -/
  doneOk : Option Bool := none
  deriving DecidableEq, Repr

/-- Pinned windows (08 Table 8.9). -/
structure PWin where
  en : Bool := false
  base : BitVec 26 := 0
  size : BitVec 12 := 0
  deriving DecidableEq, Repr

/-- Format windows (08 Table 8.10). -/
structure Fmtw where
  en : Bool := false
  bs8 : Bool := false
  bf16 : Bool := false
  obase : BitVec 36 := 0
  osize : BitVec 12 := 0
  dbase : BitVec 52 := 0
  sbase : BitVec 52 := 0
  retiring : Bool := false
  enabling : Bool := false
  deriving DecidableEq, Repr

/-- A decoded atrium line of a format window (08 R215). -/
structure FmtLine where
  bytes : List Byte
  dirty : Bool
  deriving DecidableEq, Repr

/-- An atrium read copy of a class 0x4 line (08 R210, 09 R233). -/
structure RemoteCopy where
  bytes : List Byte
  deriving DecidableEq, Repr

/-! ## The machine -/

/-- An event: the die, queue or other unit it concerns, and its row. -/
structure Ev where
  unit : Nat := 0
  instr : Instr
  deriving DecidableEq, Repr

/-- Which slot of which bundle an operation issues from (07 R157, 12 R308, R314). -/
structure Issue where
  die : Nat := 0
  slot : Slot := .s
  /-- the bundle's address, and that of the next in program order (14 R359) -/
  addr : Nat := 0
  next : Nat := 0
  lits : List (BitVec 32) := []
  /-- scheduled cycles of its decision and its issue, and the predicates its guards named (07 R170) -/
  dec : Nat := 0
  sched : Nat := 0
  guards : List Nat := []
  /-- the next bundle is reached by falling through a segment with NOFALL (07 R181) -/
  noFall : Bool := false
  deriving DecidableEq, Repr

/-- The package. -/
structure State where
  -- the model's own (assumptions 1, 4, 14)
  /-- the unit a row without operands acts on -/
  unit : Nat := 0
  issue : Issue := {}
  turn : Nat := 0
  tape : List Ev := []
  agenda : List Ev := []
  round : Nat := 0
  free : Nat := 0
  nextRid : Nat := 0
  nextSave : Nat := 0
  nextHandle : Nat := 1
  nextCopy : Nat := 0
  -- the package
  /-- the package's number, NID bits 13:4 (08 R192) -/
  pkg : Nat := 0
  /-- wheel count (09 R236): wall cycles -/
  wc : Nat := 0
  dies : FMap Die := []
  mem : List Host.Cell := []
  poisonLines : List Nat := []
  remote : FMap RemoteCopy := []
  /-- remote lines whose fill for the package itself has failed, with the wheel count -/
  lostLines : List (Nat × Nat) := []
  fmtLines : FMap FmtLine := []
  /-- bytes of class 0x2 lines that the atrium holds and has not written back to the pool (08 R211) -/
  pool : FMap Byte := []
  poolRanges : List (Nat × Nat) := []
  pwin : FMap PWin := []
  fmtw : FMap Fmtw := []
  tlbinv : W64 := 0
  tlbBusy : Option (Nat × Nat × Nat) := none
  tlbRej : Bool := false
  /-- whether a base die's four L1s act as one, by base die (06 R146, 08 R209) -/
  fused : FMap Bool := []
  -- laser registers (02 Table 2.13)
  lpwin : BitVec 10 := 10
  lramp : BitVec 7 := 8
  upsBegun : Nat := 0
  lastLight : Option Nat := none
  -- host block (04)
  queues : FMap Queue := []
  lastServed : Nat := 63
  contexts : FMap Context := []
  objects : FMap Obj := []
  coldFetches : List ColdFetch := []
  graphs : List GraphState := []
  replays : List Replay := []
  saved : List Saved := []
  slotsUsed : List (Nat × Nat) := []
  hostCopies : List HostCopy := []
  fqbase : BitVec 59 := 0
  fqhead : BitVec 12 := 0
  fqtail : BitVec 12 := 0
  /-- records appended to the ring since its reset; record k has index k mod 4,096 (04 R97) -/
  fqCount : Nat := 0
  /-- records awaiting room in the ring -/
  fqWait : List (List Byte) := []
  msix : FMap Nat := []
  trust : Trust := {}
  deriving DecidableEq, Repr

/-! ## Stops -/

/-- Why the machine stops: nothing. No rule of the spec ends a run, so there is no fault. -/
inductive Fault where
  deriving DecidableEq, Repr

/-- Why there is no meaning. -/
inductive Refusal where
  /-- No meaning written for the row yet: raised by `exec` alone; safe. -/
  | notModelled (mnemonic : String)
  deriving DecidableEq, Repr

/-- The canonical form of memory: addresses strictly rise and no entry is 0, what an unlisted address reads as. -/
def Memory.wf (m : List Host.Cell) : Bool := FMap.wf m 0

/-- Right after reset: power-on has begun a cold start and its step 1 is to come (05 R113, Table 5.5 START). Where the spec
gives a register no reset value, the field's default is a DESIGN CHOICE (assumptions 1, 7, 8); unsafe. -/
def State.reset : State := {}

end Sys2Proof.Machine
end

