-- ==== Sys2Proof/Machine/Flags.lean ====
section
/-! DEFINITION. Values, rounding and flags (11): the formats of Tables 11.1 to 11.4, Round of R282 to R288, the arithmetic
on exact values, block scales and combines (R281, R298 to R302), format window blocks (08 R215) and status words. -/

namespace Sys2Proof.Machine

/-! ## Status words (11 Table 11.10) -/

def fIV : Flags := 0x001
def fDZ : Flags := 0x002
def fOF : Flags := 0x004
def fUF : Flags := 0x008
def fNX : Flags := 0x010
def fSAT : Flags := 0x020
def fESC : Flags := 0x040
def fNAN : Flags := 0x080
def fIOV : Flags := 0x100

/-- The smaller nonzero of two block marks (R304). -/
def minNonzero (a b : Nat) : Nat := if a = 0 then b else if b = 0 then a else min a b

/-- Marks of two evaluations together. -/
def Marks.add (a b : Marks) : Marks :=
  { flags := a.flags ||| b.flags, satn := a.satn + b.satn, escn := a.escn + b.escn, fblk := minNonzero a.fblk b.fblk }

/-- FBLK of a row-major block index (Table 11.10). -/
def fblkOf (index : Nat) : Nat := if 65533 < index then 65535 else index + 1

/-- `Status := Status merged with f` (12 R317): flags ORed, counts added saturating, the smaller nonzero FBLK. -/
def mergeStatus (w : W64) (k : Marks) : W64 :=
  let field (lo n : Nat) := (w.extractLsb' lo n).toNat
  let sat (x : Nat) : BitVec 16 := BitVec.ofNat 16 (min x 65535)
  BitVec.ofNat 16 (minNonzero (field 48 16) k.fblk) ++ sat (field 32 16 + k.escn) ++ sat (field 16 16 + k.satn)
    ++ (0 : BitVec 7) ++ (w.extractLsb' 0 9 ||| k.flags)

/-- Bits a program can write in a tile or accumulator status word, and in VSTAT (Table 11.10, R306). -/
def vstatMask : W64 := 0x1BF

/-! ## Exact values -/

/-- A value of a format: ± m · 2^e, an infinity, or a NaN. -/
inductive Num where
  | nan
  | inf (neg : Bool)
  | fin (neg : Bool) (m : Nat) (e : Int)
  deriving DecidableEq, Repr

/-- An exact result before rounding: a rational, or a value given by floor (|v| · 2^k) for each k, never exact. -/
inductive Exact where
  | nan
  | inf (neg : Bool)
  | zero (neg : Bool)
  | rat (neg : Bool) (num den : Nat)
  | irr (neg : Bool) (floorAt : Nat → Nat)

/-- 2^e for a nonnegative e, 1 otherwise. -/
def pow2 (e : Int) : Nat := 2 ^ e.toNat

/-- ± m · 2^e as an exact result. -/
def Exact.ofNum : Num → Exact
  | .nan => .nan
  | .inf n => .inf n
  | .fin n m e => if m = 0 then .zero n else .rat n (m * pow2 e) (pow2 (-e))

/-- An integer as an exact result. -/
def Exact.ofInt (x : Int) : Exact := if x = 0 then .zero false else .rat (x < 0) x.natAbs 1

/-- The floor of |v| · 2^k, and whether anything is left. -/
def scaleRat (num den k : Nat) : Nat × Bool := (num * 2 ^ k / den, num * 2 ^ k % den != 0)

/-! ## Formats (Table 11.2) -/

/-- How a format uses its top exponent. -/
inductive TopExp where
  | ieee | e4m3 | e2m1
  deriving DecidableEq, Repr

/-- A floating format. -/
structure Fmt where
  w : Nat
  f : Nat
  top : TopExp := .ieee
  deriving DecidableEq, Repr

def fp64 : Fmt := { w := 11, f := 52 }
def fp32 : Fmt := { w := 8, f := 23 }
def fp16 : Fmt := { w := 5, f := 10 }
def bf16 : Fmt := { w := 8, f := 7 }
def e5m2 : Fmt := { w := 5, f := 2 }
def e4m3 : Fmt := { w := 4, f := 3, top := .e4m3 }
def e2m1 : Fmt := { w := 2, f := 1, top := .e2m1 }

/-- Bits of an encoding without the sign. -/
def Fmt.low (F : Fmt) : Nat := F.w + F.f
def Fmt.width (F : Fmt) : Nat := F.w + F.f + 1
def Fmt.bias (F : Fmt) : Nat := 2 ^ (F.w - 1) - 1
/-- The magnitude bits of the largest finite value. -/
def Fmt.maxMag (F : Fmt) : Nat :=
  match F.top with
  | .ieee => (2 ^ F.w - 1) * 2 ^ F.f - 1
  | .e4m3 => 0x7E
  | .e2m1 => 0x7
/-- The canonical NaN. -/
def Fmt.canon (F : Fmt) : Nat :=
  match F.top with
  | .ieee => (2 ^ F.w - 1) * 2 ^ F.f + 2 ^ (F.f - 1)
  | .e4m3 => 0x7F
  | .e2m1 => 0
/-- Magnitude bits of infinity, in formats that have it. -/
def Fmt.infMag (F : Fmt) : Nat := (2 ^ F.w - 1) * 2 ^ F.f
/-- An encoding from a sign and magnitude bits. -/
def Fmt.pack (F : Fmt) (neg : Bool) (mag : Nat) : Nat := (if neg then 2 ^ F.low else 0) + mag

/-- The floating format of a type code (12 Table 12.6). -/
def fmtOf (t : BitVec 4) : Option Fmt :=
  match t.toNat with
  | 5 => some e4m3
  | 6 => some e5m2
  | 7 => some fp16
  | 8 => some bf16
  | 9 => some fp32
  | 10 => some fp64
  | _ => none

/-- The value of an encoding (R277, R278). -/
def Fmt.decode (F : Fmt) (bits : Nat) : Num :=
  let neg := bits.testBit F.low
  let mag := bits % 2 ^ F.low
  let exp := mag / 2 ^ F.f
  let frac := mag % 2 ^ F.f
  let finite : Num :=
    if exp = 0 then .fin neg frac (1 - (F.bias : Int) - F.f) else .fin neg (frac + 2 ^ F.f) ((exp : Int) - F.bias - F.f)
  match F.top with
  | .ieee => if exp = 2 ^ F.w - 1 then (if frac = 0 then .inf neg else .nan) else finite
  | .e4m3 => if mag = 0x7F then .nan else finite
  | .e2m1 => finite

/-! ## Rounding (R282 to R288) -/

/-- RMODE.MODE values; a mode of 5 to 7 is never held (Table 11.6). -/
inductive Mode where
  | rne | rtz | rup | rdn | sto
  deriving DecidableEq, Repr

/-- A mode from its code. -/
def Mode.ofCode (c : BitVec 3) : Mode :=
  match c.toNat with
  | 0 => .rne
  | 1 => .rtz
  | 2 => .rup
  | 3 => .rdn
  | _ => .sto

/-- Whether a magnitude `lo + (rem + more) / 2^sh`, inexact, goes up to `lo + 1` (R282, R291). `q` is the 24-bit random
number; `more` says that something lies below `rem`. `sh` is at least 24. -/
def roundsUp (mode : Mode) (q : Nat) (neg : Bool) (lo rem sh : Nat) (more : Bool) : Bool :=
  match mode with
  | .rne => decide (2 ^ sh < 2 * rem) || (decide (2 * rem = 2 ^ sh) && (more || lo % 2 == 1))
  | .rtz => false
  | .rup => !neg
  | .rdn => neg
  | .sto => decide (q < rem / 2 ^ (sh - 24))

/-- The overflow result of a format (R283). -/
def Fmt.overflow (F : Fmt) (mode : Mode) (neg : Bool) : Nat × Flags :=
  match F.top with
  | .ieee =>
    let toInf : Bool :=
      match mode with
      | .rne | .sto => true
      | .rtz => false
      | .rup => !neg
      | .rdn => neg
    (F.pack neg (if toInf then F.infMag else F.maxMag), fOF ||| fNX)
  | _ => (F.pack neg F.maxMag, fOF ||| fNX ||| fSAT)

/-- A finite nonzero magnitude into a format: `n` is the floor of |v| in units of the smallest subnormal divided by 2^25,
`more` whether anything is left. -/
def Fmt.roundMag (F : Fmt) (mode : Mode) (q : Nat) (neg : Bool) (n : Nat) (more : Bool) : Nat × Flags :=
  let t := Nat.log2 (n / 2 ^ 25) - F.f
  let sh := 25 + t
  let lo := n / 2 ^ sh
  let rem := n % 2 ^ sh
  let inexact := more || rem != 0
  let m := if inexact && roundsUp mode q neg lo rem sh more then lo + 1 else lo
  let mag := t * 2 ^ F.f + m
  if F.maxMag < mag then F.overflow mode neg
  else
    let small : Bool := decide (n < 2 ^ (F.f + 25))
    -- rounded with the exponent range unbounded below, a value in the binade under the smallest normal may reach it
    let reaches : Bool :=
      decide (2 ^ (F.f + 24) ≤ n) &&
        (roundsUp mode q neg (n / 2 ^ 24) (n % 2 ^ 24) 24 more && n / 2 ^ 24 + 1 == 2 ^ (F.f + 1) && (more || n % 2 ^ 24 != 0))
    let uf : Bool := inexact && small && !reaches
    (F.pack neg mag, (if inexact then fNX else 0) ||| (if uf then fUF else 0))

/-- Round(v, m, F): the delivered encoding and its flags (12 R317). -/
def Fmt.round (F : Fmt) (mode : Mode) (q : Nat) (v : Exact) : Nat × Flags :=
  let k := F.f + F.bias - 1 + 25
  match v with
  | .nan => (F.canon, fNAN)
  | .inf neg =>
    match F.top with
    | .ieee => (F.pack neg F.infMag, 0)
    | _ => (F.pack neg F.maxMag, fSAT ||| fOF)
  | .zero neg => (F.pack neg 0, 0)
  | .rat neg num den =>
    let (n, more) := scaleRat num den k
    F.roundMag mode q neg n more
  | .irr neg floorAt => F.roundMag mode q neg (floorAt k) true

/-- A floating value into an integer range (R288): rounded by the mode, then clamped. -/
def roundInt (mode : Mode) (q : Nat) (lo hi : Int) (v : Num) : Int × Flags :=
  match v with
  | .nan => (0, fIV)
  | .inf neg => (if neg then lo else hi, fSAT ||| fIV)
  | .fin neg m e =>
    let n := if 0 ≤ e then m * pow2 e * 2 ^ 24 else m * 2 ^ 24 / pow2 (-e)
    let more : Bool := decide (e < 0) && m * 2 ^ 24 % pow2 (-e) != 0
    let inexact := more || n % 2 ^ 24 != 0
    let base := n / 2 ^ 24
    let mag := if inexact && roundsUp mode q neg base (n % 2 ^ 24) 24 more then base + 1 else base
    let x : Int := if neg then -(mag : Int) else mag
    if x < lo then (lo, fSAT ||| fIV)
    else if hi < x then (hi, fSAT ||| fIV)
    else (x, if inexact then fNX else 0)

/-! ## Arithmetic on exact values -/

/-- The sign of a value. -/
def Num.isNeg : Num → Bool
  | .nan => false
  | .inf n => n
  | .fin n _ _ => n

def Num.isNan : Num → Bool
  | .nan => true
  | _ => false

def Num.isInf : Num → Bool
  | .inf _ => true
  | _ => false

/-- The negated value. -/
def Num.negate : Num → Num
  | .nan => .nan
  | .inf n => .inf (!n)
  | .fin n m e => .fin (!n) m e

/-- An exact product; 0 × ∞ is a NaN and sets IV (R286). -/
def Num.mul : Num → Num → Num × Flags
  | .nan, _ | _, .nan => (.nan, 0)
  | .inf a, .inf b => (.inf (a != b), 0)
  | .inf a, .fin b m _ | .fin b m _, .inf a => if m = 0 then (.nan, fIV) else (.inf (a != b), 0)
  | .fin a m e, .fin b n d => (.fin (a != b) (m * n) (e + d), 0)

/-- The signed mantissa of a finite value at exponent `lo`, which is no greater than its own. -/
def Num.at (lo : Int) : Num → Int
  | .fin n m e => (if n then -1 else 1) * ((m * pow2 (e - lo) : Nat) : Int)
  | _ => 0

/-- The least exponent among finite terms. -/
def minExp : List Num → Int → Int
  | [], lo => lo
  | .fin _ _ e :: r, lo => minExp r (min e lo)
  | _ :: r, lo => minExp r lo

/-- The exact sum of terms under a mode (R285, R286, R294): a NaN term, or infinities of both signs, give a NaN; IV is set
when the NaN comes from terms that are none. -/
def sumNum (mode : Mode) (terms : List Num) : Exact × Flags :=
  if terms.any Num.isNan then (.nan, 0)
  else
    let pos := terms.any fun t => t == .inf false
    let neg := terms.any fun t => t == .inf true
    if pos && neg then (.nan, fIV)
    else if pos then (.inf false, 0)
    else if neg then (.inf true, 0)
    else
      let lo := minExp terms 0
      let total := (terms.map (Num.at lo)).sum
      if total = 0 then
        let nonzero := terms.any fun t => match t with | .fin _ m _ => m != 0 | _ => false
        let allNeg := terms.all Num.isNeg && !terms.isEmpty
        (.zero (if nonzero then mode == .rdn else allNeg), 0)
      else (Exact.ofNum (.fin (total < 0) total.natAbs lo), 0)

/-- Order of values, −0 below +0; NaN is handled before (R286). -/
def Num.key (lo : Int) : Num → Int × Int
  | .nan => (0, 0)
  | .inf n => if n then (-2, 0) else (2, 0)
  | .fin n m e => (0, (if n then -1 else 0) + 2 * (Num.fin n m e).at lo)

/-- x orders below y, with −0 below +0. -/
def Num.below (x y : Num) : Bool :=
  let lo := minExp [x, y] 0
  let a := x.key lo
  let b := y.key lo
  decide (a.1 < b.1) || (decide (a.1 = b.1) && decide (a.2 < b.2))

/-- x is less than y as a real value, where neither is a NaN. -/
def Num.lt (x y : Num) : Bool :=
  let lo := minExp [x, y] 0
  match x, y with
  | .fin .., .fin .. => decide (x.at lo < y.at lo)
  | _, _ => x.below y

/-- x equals y as a real value, where neither is a NaN. -/
def Num.eqv (x y : Num) : Bool := !x.lt y && !y.lt x

/-! ## Reciprocal, square root, powers and logarithms (15 R387) -/

/-- The integer square root, by trial bits below 2^n. -/
def isqrtBits (x : Nat) : Nat → Nat → Nat
  | 0, r => r
  | n + 1, r => if (r + 2 ^ n) * (r + 2 ^ n) ≤ x then isqrtBits x n (r + 2 ^ n) else isqrtBits x n r

/-- The floor of the square root. -/
def isqrt (x : Nat) : Nat := isqrtBits x (Nat.log2 x / 2 + 1) 0

/-- 1/x of a nonzero finite value. -/
def recip (neg : Bool) (m : Nat) (e : Int) : Exact := .rat neg (pow2 (-e)) (m * pow2 e)

/-- 1/√x of a positive value num/den: exact where both are squares, else by its floors. -/
def rsqrt (num den : Nat) : Exact :=
  if isqrt (num * den) * isqrt (num * den) = num * den then .rat false den (isqrt (num * den))
  else .irr false fun k => isqrt (den * 4 ^ k / num)

/-- Fixed-point enclosures, of precision p, of 2^(2^-i) for i from 1 on, low and high. -/
def rootPairs (p : Nat) : Nat → Nat → Nat → List (Nat × Nat)
  | 0, _, _ => []
  | n + 1, lo, hi =>
    let lo' := isqrt (lo * 2 ^ p)
    let hi' := isqrt (hi * 2 ^ p) + 1
    (lo', hi') :: rootPairs p n lo' hi'

/-- The product of the roots whose fraction bit is set: an enclosure of 2^(0.b1 b2 …). `bits` has the first bit first. -/
def rootProduct (p : Nat) : List Bool → List (Nat × Nat) → Nat × Nat → Nat × Nat
  | b :: bs, (rl, rh) :: rs, (lo, hi) =>
    rootProduct p bs rs (if b then (lo * rl / 2 ^ p, hi * rh / 2 ^ p + 1) else (lo, hi))
  | _, _, acc => acc

/-- The q fraction bits of n / 2^q, first bit first. -/
def fracBits (n : Nat) : Nat → List Bool
  | 0 => []
  | q + 1 => n.testBit q :: fracBits n q

/-- m^(2^q) compared with 2^b decides floor (2^(n / 2^q) · 2^k): the definition without approximation. -/
def exp2Search (q b : Nat) : Nat → Nat → Nat
  | 0, r => r
  | n + 1, r => if (r + 2 ^ n) ^ (2 ^ q) ≤ 2 ^ b then exp2Search q b n (r + 2 ^ n) else exp2Search q b n r

/-- floor (2^(i + frac / 2^q) · 2^k), where 0 ≤ frac < 2^q: enclosures of rising precision, and last the definition. -/
def exp2Floor (q frac : Nat) (i : Int) (k : Nat) : Nat → Nat → Nat
  | 0, _ =>
    let s := (k : Int) + i
    if s < 0 then 0 else exp2Search q ((s.toNat * 2 ^ q) + frac) (s.toNat + 2) 0
  | fuel + 1, p =>
    let (lo, hi) := rootProduct p (fracBits frac q) (rootPairs p q (2 * 2 ^ p) (2 * 2 ^ p)) (2 ^ p, 2 ^ p)
    let s := (k : Int) + i - p
    let fl (x : Nat) := if 0 ≤ s then x * 2 ^ s.toNat else x / 2 ^ (-s).toNat
    if fl lo = fl hi then fl lo else exp2Floor q frac i k fuel (2 * p)

/-- 2^x of a finite value. -/
def exp2 (neg : Bool) (m : Nat) (e : Int) : Exact :=
  -- x = n / 2^q, as an integer part i and a fraction
  let q := (-e).toNat
  let n : Int := (if neg then -1 else 1) * ((m * pow2 e : Nat) : Int)
  let i := n / ((2 ^ q : Nat) : Int)
  let frac := (n - i * ((2 ^ q : Nat) : Int)).toNat
  -- beyond every format's range the value only has to overflow, or to round as a tiny value does
  let i' := max (-3000) (min i 3000)
  if frac = 0 then .rat false (pow2 i') (pow2 (-i'))
  else .irr false fun k => exp2Floor q frac i' k 6 (2 * k + 128)

/-- Bits of log2 y after the point for y in [1, 2) held between lo and hi at precision p; none where they run apart. -/
def log2Bits (p : Nat) : Nat → Nat → Nat → Nat → Option Nat
  | 0, _, _, acc => some acc
  | n + 1, lo, hi, acc =>
    let lo2 := lo * lo / 2 ^ p
    let hi2 := hi * hi / 2 ^ p + 1
    if 2 * 2 ^ p ≤ lo2 then log2Bits p n (lo2 / 2) (hi2 / 2 + 1) (2 * acc + 1)
    else if hi2 < 2 * 2 ^ p then log2Bits p n lo2 hi2 (2 * acc)
    else none

/-- floor (log2 (num / den) · 2^k) for num/den in [1, 2), no power of two, by search: 2^(r/2^k) ≤ num/den. -/
def log2Search (num den k : Nat) : Nat → Nat → Nat
  | 0, r => r
  | n + 1, r =>
    if 2 ^ (r + 2 ^ n) * den ^ (2 ^ k) ≤ num ^ (2 ^ k) then log2Search num den k n (r + 2 ^ n) else log2Search num den k n r

/-- floor (log2 (num / den) · 2^k) for num/den in [1, 2): rising precision, and last the definition. -/
def log2Floor (num den k : Nat) : Nat → Nat → Nat
  | 0, _ => log2Search num den k k 0
  | fuel + 1, p =>
    match log2Bits p k (num * 2 ^ p / den) (num * 2 ^ p / den + 1) 0 with
    | some r => r
    | none => log2Floor num den k fuel (2 * p)

/-- log2 of a positive value m · 2^e. -/
def log2 (m : Nat) (e : Int) : Exact :=
  let g := Nat.log2 m
  let i : Int := e + g
  if m = 2 ^ g then Exact.ofInt i
  else
    let fr (k : Nat) := log2Floor m (2 ^ g) k 6 (2 * k + 128)
    if 0 ≤ i then .irr false fun k => i.toNat * 2 ^ k + fr k
    else .irr true fun k => (-i).toNat * 2 ^ k - fr k - 1

/-! ## Random numbers (R290, R291) -/

/-- One step of the rounding LFSR. -/
def lfsrStep (s : BitVec 32) : BitVec 32 := if s.getLsbD 0 then (s >>> 1) ^^^ 0x80200003 else s >>> 1

/-- The LFSR after n steps. -/
def lfsrSteps : Nat → BitVec 32 → BitVec 32
  | 0, s => s
  | n + 1, s => lfsrSteps n (lfsrStep s)

/-- The element's random number Q from the draw and its index. -/
def drawQ (x : BitVec 32) (idx : Nat) : Nat :=
  let u := x + BitVec.ofNat 32 (idx * 0x9E3779B9)
  let u := u ^^^ (u >>> 16)
  let u := u * 0x85EBCA6B
  let u := u ^^^ (u >>> 13)
  (u >>> 8).toNat

/-- The seed at task start (R292). -/
def seedOf (ordinal node : Nat) : BitVec 32 :=
  let s : BitVec 32 := 0x9E3779B9 ^^^ BitVec.ofNat 32 ordinal ^^^ BitVec.ofNat 32 (node * 0x00010001)
  if s = 0 then 1 else s

/-! ## Element types -/

/-- The range of an integer type (Table 11.1), with the unsigned bit of 15 R380. -/
def intRange (t : BitVec 4) (u : Bool) : Int × Int :=
  let w := typeWidth t
  if t = 1 || u then (0, 2 ^ w - 1) else (-2 ^ (w - 1), 2 ^ (w - 1) - 1)

/-- An integer lane as its type reads it. -/
def intOf (t : BitVec 4) (u : Bool) (bits : Nat) : Int :=
  let w := typeWidth t
  if t = 1 || u then (bits % 2 ^ w : Nat) else (BitVec.ofNat w bits).toInt

/-- The low w bits of an integer. -/
def bitsOf (w : Nat) (x : Int) : Nat := (BitVec.ofInt w x).toNat

/-- A lane or element of a conversion's source as a value (R288); integers are exact. -/
def valueOf (t : BitVec 4) (u : Bool) (bits : Nat) : Num :=
  match fmtOf t with
  | some F => F.decode bits
  | none => let x := intOf t u bits; .fin (x < 0) x.natAbs 0

/-- Conversion between types other than CB4 and blocks (R288, 15 R388); integer narrowing saturates when `sat`. -/
def convert (mode : Mode) (q : Nat) (st : BitVec 4) (su : Bool) (dt : BitVec 4) (du : Bool) (sat : Bool) (bits : Nat) :
    Nat × Flags :=
  match fmtOf dt with
  | some F => F.round mode q (Exact.ofNum (valueOf st su bits))
  | none =>
    let (lo, hi) := intRange dt du
    let w := typeWidth dt
    match fmtOf st with
    | some F => let (x, f) := roundInt mode q lo hi (F.decode bits); (bitsOf w x, f)
    | none =>
      let x := intOf st su bits
      if sat && decide (x < lo) then (bitsOf w lo, fSAT)
      else if sat && decide (hi < x) then (bitsOf w hi, fSAT)
      else (bitsOf w x, 0)

/-- Clamp to a range. -/
def clampTo (r : Int × Int) (x : Int) : Int × Flags := if x < r.1 then (r.1, fSAT) else if r.2 < x then (r.2, fSAT) else (x, 0)

/-- A saturating narrowing reads its source with the signedness of its result and clamps (15 R384). -/
def narrowSat (ws : Nat) (dt : BitVec 4) (du : Bool) (bits : Nat) : Nat × Flags :=
  let v : Int := if dt = 1 ∨ du then (bits : Int) else (BitVec.ofNat ws bits).toInt
  let (y, fl) := clampTo (intRange dt du) v
  (bitsOf (typeWidth dt) y, fl)

/-- A VCVT lane (15 R388): `convert`, but between integer types as VWIDEN and VNARROW with SAT have it (15 R384): to a type as
wide or wider the source's value, exact; to a narrower one `narrowSat`. -/
def convertLane (mode : Mode) (q : Nat) (st : BitVec 4) (su : Bool) (dt : BitVec 4) (du : Bool) (bits : Nat) : Nat × Flags :=
  if (fmtOf st).isNone ∧ (fmtOf dt).isNone then
    if typeWidth st ≤ typeWidth dt then (bitsOf (typeWidth dt) (intOf st su bits), 0)
    else narrowSat (typeWidth st) dt du bits
  else convert mode q st su dt du true bits

/-! ## Blocks (R281) -/

/-- A 12-bit block scale: E in bits 11:4, M in bits 3:0. -/
def scaleE (s : Nat) : Nat := s % 4096 / 16
def scaleM (s : Nat) : Nat := s % 16

/-- The value of a scale with E from 1 to 254. -/
def scaleNum (s : Nat) : Num := .fin false (16 + scaleM s) ((scaleE s : Int) - 131)

/-- An element of a block under its scale; E2M1 in BS4, E4M3 in BS8. -/
def blockElem (F : Fmt) (scale bits : Nat) : Num :=
  if scaleE scale = 0 then .fin false 0 0
  else if scaleE scale = 255 then .nan
  else (F.decode bits).mul (scaleNum scale) |>.1

/-- Compare |x| · num ≤ … : whether |x| of a finite value is at most b · 2^c. -/
def absLe (x : Num) (b : Nat) (c : Int) : Bool :=
  match x with
  | .fin _ m e =>
    let lo := min e c
    decide (m * pow2 (e - lo) ≤ b * pow2 (c - lo))
  | _ => false

/-- x divided by a scale, exactly. -/
def divScale (x : Num) (s : Nat) : Exact :=
  match x with
  | .nan => .nan
  | .inf n => .inf n
  | .fin n m e =>
    if m = 0 then .zero n
    else
      let d := e - ((scaleE s : Int) - 131)
      .rat n (m * pow2 d) ((16 + scaleM s) * pow2 (-d))

/-- The smallest scale s, E from 1 to 254, with s · Emax at or above every |x|: scales in rising order of value. -/
def smallestScale (emax : Nat) (xs : List Num) : Nat → Nat → Nat
  | 0, s => s
  | n + 1, s =>
    if xs.all fun x => absLe x ((16 + scaleM s) * emax) ((scaleE s : Int) - 131) then s
    else if s = 0xFEF then 0xFEF
    else smallestScale emax xs n (s + 1)

/-- Encode a block of 32 values (08 R215): its scale and its elements. -/
def encodeBlock (F : Fmt) (emax : Nat) (xs : List Num) : Nat × List Nat :=
  if xs.any fun x => x.isNan || x.isInf then (0xFF0, xs.map fun _ => 0)
  else if xs.all fun x => absLe x 0 0 then (0, xs.map fun _ => 0)
  else
    let s := smallestScale emax xs 4096 0x010
    (s, xs.map fun x => (F.round .rne 0 (divScale x s)).1)

/-- Decode a block's element to its on-chip format (08 R215): rounded to nearest even, clamped to the largest finite value. -/
def decodeElem (G F : Fmt) (scale bits : Nat) : Nat :=
  match blockElem F scale bits with
  | .nan => G.canon
  | x =>
    let r := (G.round .rne 0 (Exact.ofNum x)).1
    if r % 2 ^ G.low = G.infMag ∧ G.top = .ieee then G.pack x.isNeg G.maxMag else r

/-! ## Combines (R298 to R302) -/

/-- Sum of two values, rounded to nearest even. -/
def addRne (F : Fmt) (x y : Num) : Nat × Flags :=
  let (v, f) := sumNum .rne [x, y]
  let (r, g) := F.round .rne 0 v
  (r, f ||| g)

/-- The smaller or larger of two values (R286): NaN gives the canonical NaN. -/
def selectNum (F : Fmt) (wantMax : Bool) (a b : Nat) : Nat × Flags :=
  let x := F.decode a
  let y := F.decode b
  if x.isNan || y.isNan then (F.canon, fNAN)
  else if wantMax then (if x.below y then b else a, 0)
  else (if y.below x then b else a, 0)

/-- A pair of blocks: local elements under sL, received elements under sR. -/
def blockSums (sL sR : Nat) (xs ys : List Nat) : List (Exact × Num) :=
  List.zipWith (fun x y =>
    let a := blockElem e4m3 sL x
    let b := blockElem e4m3 sR y
    let lo := minExp [a, b] 0
    let t := a.at lo + b.at lo
    ((sumNum .rne [a, b]).1,
      if t = 0 then (match (sumNum .rne [a, b]).1 with | .zero n => .fin n 0 0 | _ => .fin false 0 0)
      else .fin (t < 0) t.natAbs lo)) xs ys

/-- Whether a pair of blocks gives the NaN block (R300). -/
def blockNan (sL sR : Nat) (xs ys : List Nat) : Bool :=
  scaleE sL == 255 || scaleE sR == 255 || (scaleE sL != 0 && xs.any fun x => x % 128 == 127)
    || (scaleE sR != 0 && ys.any fun y => y % 128 == 127)

/-- Round every sum over a scale into E4M3, with the block's marks (index for FBLK). -/
def blockRound (s index : Nat) (ts : List Num) : List Nat × Marks :=
  let rs := ts.map fun t => e4m3.round .rne 0 (divScale t s)
  let f := rs.foldl (fun f r => f ||| r.2) (0 : Flags)
  let sat : Bool := (f &&& fSAT) != 0
  (rs.map (·.1), { flags := f, satn := if sat then 1 else 0, fblk := if sat then fblkOf index else 0 })

/-- Fixed scale (R301). -/
def combineFixed (index sL sR : Nat) (xs ys : List Nat) : Nat × List Nat × Marks :=
  if blockNan sL sR xs ys then (0xFF0, xs.map fun _ => 0, { flags := fNAN })
  else
    let s := if scaleE sL = 0 then sR % 4096 else sL % 4096
    if scaleE s = 0 then (0, xs.map fun _ => 0, {})
    else
      let (rs, k) := blockRound s index ((blockSums sL sR xs ys).map (·.2))
      (s, rs, k)

/-- Whether some sum over s0 · 2^k passes 464. -/
def passes464 (s0 k : Nat) (ts : List Num) : Bool :=
  ts.any fun t => !absLe t (464 * (16 + scaleM s0)) ((scaleE s0 : Int) - 131 + k)

/-- The least raise that brings every sum to 464, or the greatest there is (R302). -/
def raiseBy (s0 : Nat) (ts : List Num) : Nat → Nat → Nat
  | 0, k => k
  | n + 1, k => if k < 254 - scaleE s0 && passes464 s0 k ts then raiseBy s0 ts n (k + 1) else k

/-- Carried scale (R302). -/
def combineCarried (index sL sR : Nat) (xs ys : List Nat) : Nat × List Nat × Marks :=
  if blockNan sL sR xs ys then (0xFF0, xs.map fun _ => 0, { flags := fNAN })
  else
    let a := if scaleE sL = 0 then 0 else sL % 4096
    let b := if scaleE sR = 0 then 0 else sR % 4096
    let s0 := max a b
    if s0 = 0 then (0, xs.map fun _ => 0, {})
    else
      let ts := (blockSums sL sR xs ys).map (·.2)
      let k := raiseBy s0 ts 255 0
      let s := s0 + 16 * k
      let (rs, m) := blockRound s index ts
      (s, rs, if 0 < k then m.add { flags := fESC, escn := 1, fblk := fblkOf index } else m)

end Sys2Proof.Machine
end

