-- ==== Sys2Proof/Machine/Access.lean ====
section
/-! DEFINITION. Reading and updating the parts of the state: dies, links, queues, counters, the agenda, free values. -/

namespace Sys2Proof.Machine

/-- Die i. -/
def State.die (s : State) (i : Nat) : Die := s.dies.get {} i
/-- Give die i a value. -/
def State.setDie (s : State) (i : Nat) (d : Die) : State := { s with dies := s.dies.set i d }
/-- Change die i. -/
def State.onDie (s : State) (i : Nat) (f : Die → Die) : State := s.setDie i (f (s.die i))
/-- The die of the operation now issuing. -/
def State.cur (s : State) : Die := s.die s.issue.die
/-- Change the die of the operation now issuing. -/
def State.onCur (s : State) (f : Die → Die) : State := s.onDie s.issue.die f
/-- Change the context on a die. -/
def Die.onC (d : Die) (f : Ctxt → Ctxt) : Die := { d with c := f d.c }
/-- Change the sequencer of a die. -/
def Die.onSeq (d : Die) (f : Seq → Seq) : Die := { d with seq := f d.seq }
/-- Change the counters of a die. -/
def Die.onCnt (d : Die) (f : Counters → Counters) : Die := { d with cnt := f d.cnt }
/-- Change the fabric of a die. -/
def Die.onFab (d : Die) (f : Fabric → Fabric) : Die := { d with fab := f d.fab }
/-- Change the debug block of a die. -/
def Die.onDebug (d : Die) (f : Debug → Debug) : Die := { d with dbgBlock := f d.dbgBlock }

/-- The link of dimension d at reset: DETOUR.DIM is d XOR 1, or 5 for d = 6 (03 R71). -/
def Link.fresh (d : Nat) : Link := { ddim := if d = 6 then 5 else BitVec.ofNat 4 (d ^^^ 1) }
/-- Link d of a die. -/
def Die.link (d : Die) (dim : Nat) : Link := d.links.get (Link.fresh dim) dim
/-- Change link `dim` of a die. -/
def Die.onLink (d : Die) (dim : Nat) (f : Link → Link) : Die := { d with links := d.links.set dim (f (d.link dim)) }
/-- Link `dim` of die i. -/
def State.link (s : State) (i dim : Nat) : Link := (s.die i).link dim
/-- Change link `dim` of die i. -/
def State.onLink (s : State) (i dim : Nat) (f : Link → Link) : State := s.onDie i fun d => d.onLink dim f

/-- Queue q. -/
def State.queue (s : State) (q : Nat) : Queue := s.queues.get {} q
/-- Change queue q. -/
def State.onQueue (s : State) (q : Nat) (f : Queue → Queue) : State := { s with queues := s.queues.set q (f (s.queue q)) }
/-- Change the management core's state. -/
def State.onTrust (s : State) (f : Trust → Trust) : State := { s with trust := f s.trust }
/-- Change the unretired replay with the model's number rid. -/
def State.onReplay (s : State) (rid : Nat) (f : Replay → Replay) : State :=
  { s with replays := s.replays.map fun r => if r.rid = rid then f r else r }
/-- The unretired replay with the model's number rid. -/
def State.replay? (s : State) (rid : Nat) : Option Replay := s.replays.find? fun r => r.rid == rid
/-- Whether a replay is aborted, or over. -/
def State.replayDead (s : State) (rid : Nat) : Bool := match s.replay? rid with | some r => r.aborted.isSome | none => true

/-- The physical node ID of die i (01, 03 Table 3.6): the package's number above the die's. -/
def State.nid (s : State) (i : Nat) : Nat := 16 * s.pkg + i

/-- Append an event of the machine's own to the agenda. -/
def State.later (s : State) (unit : Nat) (i : Instr) : State := { s with agenda := s.agenda ++ [{ unit, instr := i }] }

/-- Put an event on the agenda unless it stands there. -/
def State.again (s : State) (unit : Nat) (e : Instr) : State :=
  if s.agenda.contains { unit, instr := e } then s else s.later unit e

/-- The next free bit, and the state with it drawn. -/
def State.drawBit (s : State) : Bool × State := (Config.freeBit s.free, { s with free := s.free + 1 })

/-- Fabric time of a die's node in ticks of 1 ns. -/
def State.ftc (s : State) (i : Nat) : Nat := (s.die i).fab.ftc.toNat
/-- Microseconds of fabric time (08 R200). -/
def State.us (s : State) (i : Nat) : Nat := s.ftc i / 1000

/-- Add 1 to a 64-bit counter. -/
def bump (w : W64) : W64 := w + 1
/-- Add to a counter that saturates at 2^n − 1. -/
def satAdd (n x k : Nat) : Nat := min (x + k) (2 ^ n - 1)

/-- The little-endian bytes of a bit vector. -/
def bytesOf (n : Nat) (x : Nat) : List Byte := toLE n x

/-- Bytes lo to hi of a list as a number. -/
def field (b : List Byte) (lo n : Nat) : Nat := ofLE ((b.drop lo).take n)

/-- A list of a length, filled with zero bytes or cut. -/
def padTo (n : Nat) (b : List Byte) : List Byte := (b ++ List.replicate n 0).take n

/-- A register word from (low bit, width, value) fields. -/
def packBits (fs : List (Nat × Nat × Nat)) : W64 :=
  BitVec.ofNat 64 ((fs.map fun f => (f.2.2 % 2 ^ f.2.1) * 2 ^ f.1).sum)

/-- A truth value as a number. -/
def b2n (b : Bool) : Nat := if b then 1 else 0

/-- The outcome of an event row: the state it leads to; a row that names a unit the package lacks does nothing. -/
def event (i : Instr) (s t : State) : Host.Outcome State Fault Refusal := .next (if i.problem = none then t else s)

/-- The outcome of an event row of a die: a unit that is no die of the package does nothing. -/
def dieEvent (s t : State) : Host.Outcome State Fault Refusal := .next (if s.unit < 16 then t else s)
/-- The outcome of a row of a queue: a unit that is none of the 64 does nothing. -/
def queueEvent (s t : State) : Host.Outcome State Fault Refusal := .next (if s.unit < 64 then t else s)

/-- Raise an MSI-X vector (04 R82). -/
def State.raise (s : State) (v : Nat) : State := { s with msix := s.msix.put 0 v (s.msix.get 0 v + 1) }

/-- Record a management event (04 R83): vector 65 at most once in 10 µs, and not while the host port is without power. -/
def State.mgmtEvent (s : State) : State :=
  if s.trust.portDark then s
  else
    match s.trust.v65At with
    | some _ => s.onTrust fun t => { t with v65Pending := true }
    | none => ((s.raise 65).onTrust fun t => { t with v65At := some s.wc }).later 0 .vector65IntervalEnd

end Sys2Proof.Machine
end

