-- ==== Sys2Proof/Machine/Net.lean ====
section
/-! DEFINITION. Packets and the sending side of the fabric (02 R31 R45, 03 R52 to R74): checks and digests, packet images,
end-to-end entries, routes and detours. -/

namespace Sys2Proof.Machine

/-! ## Check and digest -/

/-- One bit of the reflected CRC-32. -/
def crc32Bit (c : BitVec 32) : BitVec 32 := if c.getLsbD 0 then (c >>> 1) ^^^ 0x82F63B78 else c >>> 1

/-- One byte of the flit check (02 R31): 0x82F6_3B78 is 0x1EDC_6F41 reflected. -/
def crc32Byte (c : BitVec 32) (b : Byte) : BitVec 32 :=
  let c := c ^^^ b.setWidth 32
  crc32Bit (crc32Bit (crc32Bit (crc32Bit (crc32Bit (crc32Bit (crc32Bit (crc32Bit c)))))))

/-- The flit check over bytes (02 R31). -/
def crc32 (bs : List Byte) : BitVec 32 := bs.foldl crc32Byte 0xFFFFFFFF ^^^ 0xFFFFFFFF

/-- One byte of a digest, most significant bit first (03 R73). -/
def crc64Byte (c : W64) (b : Byte) : W64 :=
  [7, 6, 5, 4, 3, 2, 1, 0].foldl (fun c i =>
    let top := c.getLsbD 63 != b.getLsbD i
    let c := c <<< 1
    if top then c ^^^ 0x42F0E1EBA9EA3693 else c) c

/-- A digest after more bytes. -/
def crc64 (c : W64) (bs : List Byte) : W64 := bs.foldl crc64Byte c

/-! ## Packet images (03 Table 3.1) -/

/-- The 16 header bytes and the payload. -/
def packetImage (p : Packet) : List Byte :=
  toLE 2 p.dst.toNat ++ toLE 2 p.src.toNat ++ [p.type]
    ++ [BitVec.ofNat 8 (b2n p.vc1 + 2 * b2n p.retx + 4 * b2n p.syn + 8 * b2n p.lastp + 16 * p.dstep.toNat + 64 * b2n p.poison),
        p.edim ++ p.ddim, (0 : BitVec 4) ++ p.epoch]
    ++ toLE 2 p.payload.length ++ toLE 4 p.eseq.toNat ++ toLE 2 p.tag.toNat ++ p.payload

/-- The packet of an image; none where a reserved bit is set, LEN passes 1,024 or the bytes fall short (R53). DSTEP 3, which Table
3.1 gives no meaning, is taken as reserved (DESIGN CHOICE, assumption 47). -/
def packetOfImage (b : List Byte) : Option Packet :=
  let w (i n : Nat) := field b i n
  let len := w 8 2
  if b.length < 16 + len ∨ 1024 < len ∨ 2 ^ 14 ≤ w 0 2 ∨ 2 ^ 14 ≤ w 2 2 ∨ 128 ≤ w 5 1 ∨ w 5 1 / 16 % 4 = 3 ∨ 16 ≤ w 7 1 then none
  else
    some { dst := BitVec.ofNat 14 (w 0 2), src := BitVec.ofNat 14 (w 2 2), type := BitVec.ofNat 8 (w 4 1),
           vc1 := (w 5 1).testBit 0, retx := (w 5 1).testBit 1, syn := (w 5 1).testBit 2, lastp := (w 5 1).testBit 3,
           dstep := BitVec.ofNat 2 (w 5 1 / 16), poison := (w 5 1).testBit 6, ddim := BitVec.ofNat 4 (w 6 1),
           edim := BitVec.ofNat 4 (w 6 1 / 16), epoch := BitVec.ofNat 4 (w 7 1), eseq := BitVec.ofNat 32 (w 10 4),
           tag := BitVec.ofNat 16 (w 14 2), payload := (b.drop 16).take len }

/-- Channel classes (R54): 0 requests, 1 replies, 2 and 3 pushes. -/
def classOf (ch : BitVec 3) : Nat :=
  match ch.toNat with
  | 0 | 1 => 0
  | 2 => 1
  | 3 => 2
  | _ => 3

/-- Whether a type may travel on a channel (Table 3.2). -/
def typeFits (type : Byte) (ch : BitVec 3) : Bool :=
  let c := ch.toNat
  match type.toNat with
  | 1 | 2 | 3 | 4 => c ≤ 1
  | 5 => c ≤ 1 || c == 3 || c == 4
  | 0x10 | 0x11 | 0x12 | 0x13 | 0x14 | 0x15 | 0x16 | 0x17 => c == 2
  | 0x20 => c == 3 || c == 4
  | _ => false

/-- Whether a type takes an end-to-end sequence number (Table 3.2). -/
def sequenced (type : Byte) : Bool :=
  match type.toNat with
  | 1 | 2 | 3 | 4 | 0x10 | 0x11 | 0x12 | 0x13 | 0x20 => true
  | _ => false

/-- The dimension in which two nodes are neighbours. -/
def neighbourDim (x y : Nat) : Option Nat := (List.range 14).find? fun d => x ^^^ y == 2 ^ d

/-! ## Digests (R72) -/

/-- Count a packet's payload in the send or receive digest of the link to a neighbour. -/
def State.digest (s : State) (i : Nat) (peer cls : Nat) (tx : Bool) (payload : List Byte) : State :=
  match neighbourDim (s.nid i) peer with
  | none => s
  | some d =>
    s.onLink i d fun l =>
      if tx then { l with digtx := l.digtx.put 0 cls (crc64 (l.digtx.get 0 cls) payload) }
      else { l with digrx := l.digrx.put 0 cls (crc64 (l.digrx.get 0 cls) payload) }

/-! ## Placing packets on links, detours (R55, R59, R67 to R70) -/

/-- Whether the detour of link d at a node may be taken (R67). -/
def detourAvailable (n : Die) (d : Nat) : Bool :=
  let l := n.link d
  let e := l.ddim.toNat
  let le := n.link e
  let far (via dim : Nat) : Bool :=
    let (st, ls) := n.fab.views.get (LinkState.down, 0) (16 * via + dim)
    st == .active && ls ≤ 2
  -- the far links are seen through announcements: link d of x⊕e, and link e of x⊕e⊕d, which is link e of x⊕d's other end
  l.den && e != d && e ≤ 13 && le.state == .active && le.ls ≤ 1 && far e d && far d e

/-- Payload of a link-control flit (02 Table 2.3): the type in byte 4, then its fields. -/
def controlPayload (type : Nat) (rest : List Byte) : List Byte :=
  padTo 56 ([0, 0, 0, 0, BitVec.ofNat 8 type] ++ rest)

/-- Queue a link-control flit. -/
def Link.control (l : Link) (type : Nat) (rest : List Byte) : Link :=
  { l with flitQ := l.flitQ ++ [{ ch := 5, payload := controlPayload type rest }] }

/-- Flits of a packet (R52). -/
def flitCount (o : OutPkt) : Nat := (16 + o.pkt.payload.length + 55) / 56

/-- Data flits that wait for a link. -/
def Link.waiting (l : Link) : Nat := (l.flitQ.filter fun f => f.ch != 5).length + (l.pktQ.map flitCount).sum

/-- Put a packet behind those that wait for a link. -/
def Link.enqueue (l : Link) (o : OutPkt) : Link :=
  let l := { l with pktQ := l.pktQ ++ [o] }
  { l with qmaxNow := min 65535 (max l.qmaxNow l.waiting) }

/-- Ask the far end for a laser state, or hold the request: during a remap (02 R40), during a laser change, and while the link
carries nothing. -/
def State.requestLs (s : State) (i d ls : Nat) : State :=
  let l := s.link i d
  (if (l.state == .active || l.state == .off) && !l.lsbusy then
    s.onLink i d fun l =>
      { (l.control 4 [BitVec.ofNat 8 ls]) with lsReq := some (ls, s.ftc i), lsbusy := true, waking := l.waking || l.state == .off }
  else s.onLink i d fun l => { l with lsHeld := some (ls, (l.lsHeld.map (·.2)).getD (s.ftc i)) }).again i (.lsRequestHoldTimeout i d)

/-- With more than 64 flits waiting for a link in LS1 or LS2, FASTWAKE requests LS0 (02 R45). -/
def State.wakeFull (s : State) (i d : Nat) : State :=
  let l := s.link i d
  if l.state == .active && (l.ls == 1 || l.ls == 2) && l.fastwake && decide (64 < l.waiting) && l.ramp != some 0
      && (l.lsReq.map (·.1)) != some 0 && (l.lsHeld.map (·.1)) != some 0 then s.requestLs i d 0
  else s

/-- Put a packet behind those that wait for link d of node i. -/
def State.enqueueOn (s : State) (i d : Nat) (o : OutPkt) : State := (s.onLink i d fun l => l.enqueue o).wakeFull i d

/-- Hold a packet for link d at a node. -/
def Link.hold (l : Link) (o : OutPkt) : Link := { l with held := l.held ++ [o] }

/-- A packet entering the detour of link d (Table 3.4 step 3, R55). -/
def intoDetour (l : Link) (d : Nat) (o : OutPkt) : OutPkt :=
  let req : Bool := decide (o.ch.toNat ≤ 1)
  { o with ch := if req then 1 else o.ch,
           pkt := { o.pkt with dstep := 1, ddim := BitVec.ofNat 4 d, edim := l.ddim, vc1 := req || o.pkt.vc1 } }

/-- Whether a packet has had its detour: a request on VC1, or one on a detour now (R69). -/
def OutPkt.detoured (o : OutPkt) : Bool := o.pkt.dstep != 0 || (o.pkt.vc1 && decide (o.ch.toNat ≤ 1))

/-- A node discards a packet by R69. -/
def State.detourDrop (s : State) (i : Nat) : State := s.onDie i fun n => n.onFab fun f => { f with detdrop := satAdd 16 f.detdrop 1 }

/-- The sample under way on link d to the parent is spoiled (R79). -/
def State.spoil (s : State) (i d : Nat) : State :=
  s.onDie i fun n => n.onFab fun f => if f.parent.toNat = d then { f with sample := f.sample.map fun x => (x.1, true) } else f

/-- A timing packet does not take its plain way over link d of node i (R79): a TSYNC spoils the sample of this node, a TSYNCR that of
the far end. -/
def State.spoilTimed (s : State) (i d : Nat) (type : Byte) : State :=
  if type = 0x16 then s.spoil i d else if type = 0x17 ∧ d < 4 then s.spoil (i ^^^ 2 ^ d) d else s

/-- Whether traffic for a link takes its detour: the link is DEAD, it is OFF and wakes, or it has a detour to leave (R68, R70). -/
def Link.detours (l : Link) : Bool := l.state == .dead || (l.state == .off && l.waking) || (l.dactive && l.state != .active)

/-- Send a packet out of a node toward dimension d: on the link, over its detour, or held behind those that are held already; it
takes no second detour (R68 to R70). Step 6 of Table 3.4 gives no moment: DETOUR.ACTIVE is set when the first packet takes the detour
(DESIGN CHOICE, assumption 47). -/
def State.place (s : State) (i d : Nat) (o : OutPkt) : State :=
  let n := s.die i
  let l := n.link d
  let all := if l.draining then [o] else l.held ++ [o]
  let rest := if l.draining then l.held else []
  if l.draining && o.ch != 2 then s.onLink i d fun l => l.hold o
  else if !l.detours then
    all.foldl (fun s o => s.enqueueOn i d o) (s.onLink i d fun l => { l with held := rest })
  else if o.detoured then s.detourDrop i
  else if detourAvailable n d then
    let s := s.spoilTimed i d o.pkt.type
    all.foldl (fun s o => s.enqueueOn i l.ddim.toNat (intoDetour l d o)) (s.onLink i d fun l => { l with dactive := true, held := rest })
  else s.onLink i d fun l => { l.hold o with dfail := true }

/-- Packets of a link that its detour takes: those not acknowledged, whole, then those not yet sent (Table 3.4 step 2). The replay
buffer of a waking link keeps its flits. -/
def State.detourQueue (s : State) (i d : Nat) : State :=
  let l := s.link i d
  (l.inflight.map (·.1) ++ l.pktQ).foldl (fun s o => s.place i d o) (s.onLink i d fun l => { l with pktQ := [] })

/-- A link that is OFF is asked to wake, and its traffic takes the detour meanwhile (02 R45). -/
def State.wakeOff (s : State) (i d : Nat) (ls : Nat) : State :=
  if (s.link i d).waking then s else (s.requestLs i d ls).detourQueue i d

/-- A flit needs link d of node i: with FASTWAKE a link that is OFF wakes (02 R45). -/
def State.needed (s : State) (i d : Nat) : State :=
  let l := s.link i d
  if l.state == .off && l.fastwake then s.wakeOff i d 0 else s

/-- What waits for a link wakes it, where FASTWAKE is set (02 R45). -/
def State.wakeWaiting (s : State) (i d : Nat) : State :=
  let l := s.link i d
  (if !l.pktQ.isEmpty || !l.inflight.isEmpty then s.needed i d else s).wakeFull i d

/-- Packets with VC1 or DSTEP that wait for a link which is not ACTIVE are discarded (R69), those begun among them where `all`. -/
def State.dropDetoured (s : State) (i d : Nat) (all : Bool) : State :=
  let l := s.link i d
  let gone := l.pktQ.countP OutPkt.detoured + (if all then l.inflight.countP fun o => o.1.detoured else 0)
  (s.onLink i d fun l =>
    { l with pktQ := l.pktQ.filter fun o => !o.detoured
             inflight := if all then l.inflight.filter fun o => !o.1.detoured else l.inflight }).onDie i fun n => n.onFab fun f =>
      { f with detdrop := satAdd 16 f.detdrop gone }

/-- Send a packet out of a node toward dimension d. -/
def State.placeOn (s : State) (i d : Nat) (o : OutPkt) : State := (s.needed i d).place i d o

/-- Packets held for link d go again, in order; those that still cannot go are held again (R68). -/
def State.resendHeld (s : State) (i d : Nat) : State :=
  let l := s.link i d
  if l.draining || l.held.isEmpty then s
  else l.held.foldl (fun s o => s.placeOn i d o) (s.onLink i d fun l => { l with held := [] })

/-- Everything node i holds goes again: a link of a detour has changed. -/
def State.resendAll (s : State) (i : Nat) : State := (List.range 14).foldl (fun s d => s.resendHeld i d) s

/-- Forward a packet from a node that is not its destination, or that a detour passes (R59, R68, R69). A link in REMAP holds what
waits for it until it is ACTIVE again (Table 3.5). -/
def State.forward (s : State) (i : Nat) (o : OutPkt) : State :=
  let n := s.die i
  let up (d : Nat) : Bool := (n.link d).state == .active || (n.link d).state == .remap
  let forced (d : Nat) (step : BitVec 2) : State :=
    if up d then s.enqueueOn i d { o with pkt := { o.pkt with dstep := step } } else (s.needed i d).detourDrop i
  if o.pkt.dstep = 1 then forced o.pkt.ddim.toNat 2
  else if o.pkt.dstep = 2 then forced o.pkt.edim.toNat 0
  else
    match (List.range 14).find? fun d => ((s.nid i) ^^^ o.pkt.dst.toNat).testBit d with
    | none => s
    | some d => if o.detoured && !up d then (s.needed i d).detourDrop i else s.placeOn i d o

/-! ## End-to-end sending (R62) -/

/-- Unacknowledged packets of a node. -/
def Fabric.unackedCount (f : Fabric) : Nat := (f.sends.map fun e => e.unacked.length).sum

/-- A node sends a packet it originates: sequenced packets take the entry's next number and are kept until acknowledged; a
class without a free entry or buffer space stalls. -/
def State.originate (s : State) (i : Nat) (ch : BitVec 3) (p : Packet) : State :=
  let p := { p with src := BitVec.ofNat 14 (s.nid i) }
  if !sequenced p.type then s.forward i { ch, pkt := p }
  else
    let f := (s.die i).fab
    let cls := classOf ch
    let peer := p.dst.toNat
    let found := f.sends.find? fun e => e.peer == peer && e.cls == cls
    if (found.isNone && 1024 ≤ f.sends.length) || 2048 ≤ f.unackedCount || f.stalled.any fun o => classOf o.ch == cls then
      s.onDie i fun n => n.onFab fun f => { f with stalled := f.stalled ++ [{ ch, pkt := p }] }
    else
      let e : SendEntry := found.getD
        { peer, cls, epoch := match f.epochs.get? (4 * peer + cls) with | some e => e + 1 | none => 0 }
      let p := { p with epoch := e.epoch, eseq := BitVec.ofNat 32 e.next, syn := e.next == 0 && found.isNone }
      let o : OutPkt := { ch, pkt := p }
      let e' := { e with next := e.next + 1, unacked := e.unacked ++ [o],
                         timer := if e.unacked.isEmpty then s.ftc i else e.timer, idle := s.ftc i }
      let s := s.onDie i fun n => n.onFab fun f =>
        { f with sends := (f.sends.filter fun x => !(x.peer == peer && x.cls == cls)) ++ [e'],
                 epochs := f.epochs.set (4 * peer + cls) e.epoch }
      ((s.digest i peer cls true p.payload).forward i o).again i (.e2eTimeout i peer cls)

/-- Packets of a stalled class whose turn may have come, sent again in order. -/
def State.unstall (s : State) (i : Nat) : State :=
  let waiting := (s.die i).fab.stalled
  waiting.foldl (fun s o => s.originate i o.ch o.pkt) (s.onDie i fun n => n.onFab fun f => { f with stalled := [] })

/-! ## End-to-end receiving (R63, R64) -/

/-- Schedule an EACK for a receive entry. -/
def State.scheduleEack (s : State) (i peer cls : Nat) : State :=
  if (s.die i).fab.recvs.any fun e => e.peer == peer && e.cls == cls && e.eack then s
  else
    (s.onDie i fun n => n.onFab fun f =>
      { f with recvs := f.recvs.map fun e => if e.peer = peer ∧ e.cls = cls then { e with eack := true } else e }).later i
      (.eackSend i peer cls)

/-- Put a receive entry in its place. -/
def State.putRecv (s : State) (i : Nat) (e : RecvEntry) : State :=
  s.onDie i fun n => n.onFab fun f =>
    { f with recvs := (f.recvs.filter fun x => !(x.peer == e.peer && x.cls == e.cls)) ++ [e] }

def State.countBad (s : State) (i : Nat) : State :=
  s.onDie i fun n => n.onFab fun f => { f with badpkt := satAdd 16 f.badpkt 1 }
def State.countDup (s : State) (i : Nat) : State :=
  s.onDie i fun n => n.onFab fun f => { f with dups := satAdd 16 f.dups 1 }

/-- The base of a reply window past every arrived number at its front (R64). -/
def advanceWindow : Nat → Nat → List Nat → Nat × List Nat
  | 0, b, a => (b, a)
  | n + 1, b, a => if a.contains b then advanceWindow n (b + 1) (a.filter (· != b)) else (b, a)

/-- A sequenced packet arrives at its destination: the state, and whether it is accepted (R63, R64). A packet that
`refuses` is discarded whole and acknowledged BUSY (10 R274); one that `counts` not is no part of a digest (R72). With all 1,024
entries in use, and before the packet with SYN, a packet is discarded as one without an entry (DESIGN CHOICE, assumption 47). -/
def State.accept (s : State) (i : Nat) (ch : BitVec 3) (p : Packet) (refuses : Bool := false) (counts : Bool := true) : State × Bool :=
  let cls := classOf ch
  let peer := p.src.toNat
  let found := (s.die i).fab.recvs.find? fun e => e.peer == peer && e.cls == cls
  let fresh : Bool := p.syn && (match found with | none => true | some e => p.epoch == e.epoch + 1)
  let full : Bool := found.isNone && decide (1024 ≤ (s.die i).fab.recvs.length)
  let entry : Option RecvEntry :=
    if fresh && !full then some { peer, cls, epoch := p.epoch } else found
  match entry with
  | none => (s.countBad i, false)
  | some e =>
    let e := { e with idle := s.ftc i }
    if p.epoch ≠ e.epoch then (s.countBad i, false)
    else
      let seqn := p.eseq.toNat
      let s := s.again i (.receiveEntryIdleFree i peer cls)
      let ok (e : RecvEntry) : State × Bool :=
        let s := (s.putRecv i e).scheduleEack i peer cls
        (if counts then s.digest i peer cls false p.payload else s, true)
      let busy : State × Bool := ((s.putRecv i { e with busy := true }).scheduleEack i peer cls, false)
      let dup : State × Bool := (((s.putRecv i e).countDup i).scheduleEack i peer cls, false)
      if cls = 1 then
        if seqn < e.expect ∨ e.arrived.contains seqn then dup
        else if e.expect + 1024 ≤ seqn then (s.putRecv i e, false)
        else if refuses then busy
        else
          let (b, a) := advanceWindow 1024 e.expect (seqn :: e.arrived)
          ok { e with expect := b, arrived := a }
      else if seqn = e.expect then (if refuses then busy else ok { e with expect := e.expect + 1 })
      else if seqn < e.expect then dup
      else (s.putRecv i e, false)

/-! ## Delivery -/

/-- The event a packet is at its destination (Table 3.2). -/
def deliveryOf (i : Nat) (ch : BitVec 3) (p : Packet) : Option Instr :=
  match p.type.toNat with
  | 1 => some (.mrd i p)
  | 2 => some (.mwr i p)
  | 3 => some (.matom i p)
  | 4 => some (.msync i p)
  | 5 => some (.drain i ch p)
  | 0x10 => some (.mrdr i p)
  | 0x11 => some (.mwrr i p)
  | 0x12 => some (.matomr i p)
  | 0x13 => some (.rtok i p)
  | 0x14 => some (.eack i p)
  | 0x15 => some (.drainack i p)
  | 0x16 => some (.tsync i p)
  | 0x17 => some (.tsyncr i p true)
  | 0x20 => some (.push i ch p)
  | _ => none

/-- A packet has come out of a link whole: bad ones are counted (R53), those for this node are delivered, others forwarded. -/
def State.arrive (s : State) (i : Nat) (ch : BitVec 3) (p : Option Packet) : State :=
  match p with
  | none => s.countBad i
  | some p =>
    if !typeFits p.type ch then s.countBad i
    else if p.dstep = 0 ∧ p.dst.toNat = s.nid i then
      match deliveryOf i ch p with
      | some ev => s.later i ev
      | none => s.countBad i
    else s.forward i { ch, pkt := p }

end Sys2Proof.Machine
end

