-- ==== Sys2Proof/Machine/Links.lean ====
section
/-! DEFINITION. Links (02): flits and their replay, training, remap, laser states, policy, and the link and detour registers
with a behaviour of their own. One definition per row. -/

namespace Sys2Proof.Machine

/-! ## Shared operations -/

/-- Fabric time in picoseconds. -/
def Fabric.picos (f : Fabric) : Nat := f.ftc.toNat * 1000 + f.ps
/-- A time stamp: FTC and the fraction beyond it. -/
def Fabric.stamp (f : Fabric) : List Byte := toLE 8 f.ftc.toNat ++ toLE 2 f.ps

/-- Lanes in a mask. -/
def lanesIn (m : BitVec 16) : Nat := ((List.range 16).filter fun l => m.getLsbD l).length

/-- LCTL.MINW as used (02 Table 2.7). -/
def Link.needed (l : Link) : Nat := max l.minw.toNat 1

/-- The lowest n lanes of a mask. -/
def lowestLanes (m : BitVec 16) (n : Nat) : BitVec 16 :=
  (((List.range 16).filter fun l => m.getLsbD l).take n).foldl (fun a l => a ||| BitVec.ofNat 16 (2 ^ l)) 0

/-- The lit lanes of a direction in a laser state (02 Table 2.5). -/
def litLanes (m : BitVec 16) (ls : Nat) : BitVec 16 :=
  match ls with
  | 0 => m
  | 1 => lowestLanes m ((lanesIn m + 1) / 2)
  | 2 => lowestLanes m 1
  | _ => 0

/-- Beats a flit takes over n lanes (02 R35). -/
def beatsOf (n : Nat) : Nat := (64 + n - 1) / n

/-- The beats of a flit over the lanes of a mask (02 R35): byte k goes on lane w(k mod n) in beat k / n; the last beat is filled
with idle bytes. -/
def stripe (m : BitVec 16) (bs : List Byte) : List (List (Nat × Byte)) :=
  let w := (List.range 16).filter fun l => m.getLsbD l
  (List.range (beatsOf w.length)).map fun b => w.zipIdx.map fun x => (x.1, bs.getD (b * w.length + x.2) 0)

/-- Flit bytes 59:0 (02 R30). -/
def flitBody (f : Flit) : List Byte :=
  toLE 4 (f.ch.toNat + 8 * b2n f.sop + 16 * b2n f.eop + 32 * f.lseq.toNat + 2 ^ 18 * f.aseq.toNat + 2 ^ 31 * b2n f.av) ++ f.payload

/-- A flit with its check. -/
def sealFlit (f : Flit) : Flit := { f with check := crc32 (flitBody f) }

/-- Whether the check of a received flit holds (02 R31). -/
def flitGood (f : Flit) : Bool := f.check == crc32 (flitBody f)

/-- Announce a link's state to the node's neighbours in the package (03 R67). -/
def State.announce (s : State) (i d : Nat) : State :=
  let l := s.link i d
  let code : BitVec 3 := match l.state with
    | .down => 0 | .train => 1 | .active => 2 | .remap => 3 | .dead => 4 | .off => 5
  [0, 1, 2, 3].foldl (fun s v => s.later 0 (.linkStateAnnouncement (i ^^^ 2 ^ v) v d code (BitVec.ofNat 2 l.ls))) s

/-- Send DRAIN markers on the ordered classes of link d over the detour through `e`, or over the link (R70); where link e cannot
take them they are discarded (R69). -/
def State.sendDrains (s : State) (i d e : Nat) : State :=
  let up : Bool := (s.link i e).state == .active || (s.link i e).state == .remap
  let p : Packet := { dst := BitVec.ofNat 14 (s.nid i ^^^ 2 ^ d), src := BitVec.ofNat 14 (s.nid i), type := 5 }
  [(0 : BitVec 3), 3, 4].foldl (fun s ch =>
    if up then s.enqueueOn i e
      { ch := if ch = 0 then 1 else ch, pkt := { p with vc1 := ch == 0, dstep := 1, ddim := BitVec.ofNat 4 d, edim := BitVec.ofNat 4 e } }
    else s.detourDrop i) s

/-- Begin to leave the detour of link d, or to change it (R70): replies that are held take the new path at once. -/
def State.beginDrain (s : State) (i d old : Nat) : State :=
  let replies := (s.link i d).held.filter fun o => o.ch == 2
  let s := s.onLink i d fun l =>
    { l with draining := true, drainOld := old, drainAt := s.ftc i, held := l.held.filter fun o => o.ch != 2 }
  replies.foldl (fun s o => s.placeOn i d o) ((s.sendDrains i d old).later i (.drainResend i d))

/-- Requests held until ACTIVE are made (02 R40), unless the link is in that state already. -/
def State.releaseHeld (s : State) (i d : Nat) : State :=
  let l := s.link i d
  match l.lsHeld with
  | none => s
  | some (ls, _) =>
    if l.lsbusy || !(l.state == .active || l.state == .off) then s
    else
      let s := s.onLink i d fun l => { l with lsHeld := none }
      if ls = l.ls then s else if l.state = .off then s.wakeOff i d ls else s.requestLs i d ls

/-- A link becomes ACTIVE: its detour is left, and held traffic goes (02 R47, 03 R70). -/
def State.becomeActive (s : State) (i d : Nat) : State :=
  let s := s.onLink i d fun l =>
    { l with state := .active, below := 0, bar := 0, prev := l.ls, remapping := none, waking := false, lsbusy := l.ramp.isSome }
  let l := s.link i d
  let s := if l.dactive && !l.draining then s.beginDrain i d l.ddim.toNat else s
  (((s.announce i d).resendAll i).wakeFull i d).releaseHeld i d

/-- What a laser change or a remap under way leaves behind when the link goes out of service. -/
def Link.quiet (l : Link) : Link :=
  { l with remapping := none, ramp := none, lighting := false, lsReq := none, lsHeld := none, upWait := none, waking := false
           lsbusy := false, keepMaps := false }

/-- A link begins again from training: both ends number their flits from 0, and what was not acknowledged goes again whole, ahead
of what waits (DESIGN CHOICE, assumption 48). -/
def Link.renumber (l : Link) : Link :=
  { l with txSeq := 0, rxSeq := 0, rxAny := false, gapRun := none, replay := [], resend := [], flitQ := []
           pktQ := l.inflight.map (·.1) ++ l.pktQ, inflight := [], asm := [] }

/-- A link becomes DEAD: its unacknowledged packets and those waiting take the detour in order (R41, Table 3.4). -/
def State.becomeDead (s : State) (i d : Nat) : State :=
  let l := s.link i d
  let pkts := l.inflight.map (·.1) ++ l.pktQ
  let s := (s.onLink i d fun l =>
    { l.quiet with state := .dead, deadev := true, replay := [], resend := [], flitQ := [], inflight := [], pktQ := [] }).spoil i d
  let s := pkts.foldl (fun s o => s.placeOn i d o) s
  (s.announce i d).mgmtEvent

/-- The lanes of this end's receiver that fail (02 R37). -/
def Link.failing (l : Link) : BitVec 16 :=
  (List.range 16).foldl (fun m w => if (l.lanes.get {} w).fail then m ||| BitVec.ofNat 16 (2 ^ w) else m) 0

/-- Offer a receive mask (R39, R43): MAPPROP goes three times, behind the control flits that wait. A full remap leaves ACTIVE; with
too few lanes, or none to carry MAPPROP, the link is DEAD (R40). -/
def State.offer (s : State) (i d : Nat) (mine : BitVec 16) (reason : Byte) (fast : Bool) (ls : Option Nat) : State :=
  let s := (s.onLink i d fun l =>
    let prop : OutFlit := { ch := 5, payload := controlPayload 2 (toLE 2 mine.toNat ++ [reason]) }
    { l with remapping := some { fast, mine, reason, ls }, state := if fast then l.state else .remap
             flitQ := (l.flitQ.filter fun f => f.ch == 5) ++ [prop, prop, prop] ++ l.flitQ.filter fun f => f.ch != 5 }).spoil i d
  if fast then s
  else if lanesIn mine < (s.link i d).needed ∨ (s.link i d).txmap = 0 then s.becomeDead i d
  else s.announce i d

/-- Begin a remap, or a fast switch. -/
def State.beginRemap (s : State) (i d : Nat) (mine : BitVec 16) (reason : Byte) (fast : Bool) (ls : Option Nat) : State :=
  (s.onLink i d fun l => { l with restarts := 0 }).offer i d mine reason fast ls

/-- Close a laser change: the state reached (R42, R43). Traffic that waits for a link now OFF wakes it (R45). -/
def State.endChange (s : State) (i d ls : Nat) : State :=
  let s := s.onLink i d fun l =>
    { l with ls, ramp := none, lsbusy := false, lsReq := none, remaps := satAdd 16 l.remaps 1, remapping := none
             state := if ls = 3 then .off else l.state }
  let l := s.link i d
  let s := (s.announce i d).resendAll i
  let s := s.wakeWaiting i d
  (if l.state == .off then s.dropDetoured i d false else s).releaseHeld i d

/-- LRAMP.MAXUP as used (02 Table 2.13). -/
def State.maxUp (s : State) : Nat := max 1 (min 112 s.lramp.toNat)

/-- Begin an agreed change of laser state (R42 to R46): steps down begin at once, steps up light lasers first. A change from LS3
lights the link to LS0, whichever state was agreed (R24 speaks of LS0 alone: DESIGN CHOICE, assumption 48). -/
def State.beginChange (s : State) (i d ls : Nat) : State :=
  let l := s.link i d
  if ls = l.ls then (s.onLink i d fun l => { l with lsbusy := false, lsReq := none, upWait := none }).releaseHeld i d
  else if l.ls = 3 then
    let s := s.onLink i d fun l => { l with lsbusy := true, lsReq := none, waking := true, lighting := true, upWait := none }
    (if l.waking then s else s.detourQueue i d).later 0 .lightingSlot
  else if ls < l.ls then
    if s.upsBegun < s.maxUp then
      let s := { s with upsBegun := s.upsBegun + 1 }
      (s.onLink i d fun l => { l with lsbusy := true, lsReq := none, ramp := some ls, upWait := none }).later i (.laserRampComplete i d)
    else s.onLink i d fun l => { l with lsbusy := true, lsReq := none, upWait := some ls }
  else
    let fast : Bool := ls != 3
    let s := s.onLink i d fun l => { l with lsbusy := true, lsReq := none, ramp := some ls }
    s.beginRemap i d (if fast then litLanes l.rxmap ls else l.rxmap &&& ~~~l.failing) 2 fast (some ls)

/-- Distance of LSEQ b behind a, modulo 8,192. -/
def lseqBehind (a b : BitVec 13) : Nat := (a - b).toNat

/-- Free replay entries up to ASEQ (R33). -/
def Link.acked (l : Link) (aseq : BitVec 13) : Link :=
  let live (q : BitVec 13) : Bool := decide (4096 ≤ lseqBehind aseq q)
  { l with replay := l.replay.filter fun f => live f.lseq
           resend := l.resend.filter fun f => live f.lseq
           inflight := l.inflight.filter fun o => match o.2 with | none => true | some q => live q }

/-- Cut a packet's image into flit payloads. -/
def cutPayloads : Nat → List Byte → List (List Byte)
  | 0, _ => []
  | n + 1, b => padTo 56 b :: (if b.length ≤ 56 then [] else cutPayloads n (b.drop 56))

/-- The flits of a packet (03 R52). -/
def flitsOf (o : OutPkt) : List OutFlit :=
  let ps := cutPayloads 20 (packetImage o.pkt)
  ps.zipIdx.map fun (b, k) => { ch := o.ch, sop := k == 0, eop := k + 1 == ps.length, payload := b }

/-- Ask for a replay (R33). -/
def Link.nak (l : Link) : Link := { (l.control 1 (toLE 2 l.rxSeq.toNat)) with replays := satAdd 16 l.replays 1 }

/-- A flit beyond the one expected: a gap asks for a replay, the flits that follow it one by one ask no more. -/
def Link.gap (l : Link) (lseq : BitVec 13) : Link :=
  { (if (l.gapRun.map (· + 1)) = some lseq then l else l.nak) with gapRun := some lseq }

/-- A flit that failed its check: it asks for a replay, and stands for the next of its run. -/
def Link.badFlit (l : Link) (now : Nat) : Link :=
  { l.nak with gapRun := some ((l.gapRun.map (· + 1)).getD l.rxSeq), crcerr := satAdd 16 l.crcerr 1
               crcTimes := now :: l.crcTimes.filter fun t => now < t + 1000 }

/-! ## Flits -/

/-- Whether an LSEQ is the next or has passed. -/
def lseqReached (next lseq : BitVec 13) : Bool := decide ((next - lseq).toNat < 4096)

/-- The transmit lanes a flit goes on (02 R35): the lit ones, of a fast switch those of the new set from the LSEQ on that MAPACK named (R43),
and the lowest while a link remaps (R39). While the link is dark, the lowest working lane, or lane 0 where none works (DESIGN CHOICE,
assumption 48). -/
def Link.sendMask (l : Link) (lseq : BitVec 13) : BitVec 16 :=
  match l.state with
  | .remap => lowestLanes l.txmap 1
  | .active =>
    (match l.remapping.bind fun r => if r.fast then r.theirs.bind fun m => r.txFrom.map fun q => (m, q) else none with
     | some (m, q) => if lseqReached lseq q then m else litLanes l.txmap l.ls
     | none => litLanes l.txmap l.ls)
  | _ => lowestLanes (if l.txmap = 0 then 1 else l.txmap) 1

/-- The ASEQ report of a flit; none is valid until a flit has been received in order (R33; DESIGN CHOICE, assumption 48). -/
def Link.aseq (l : Link) : BitVec 13 := if l.rxAny then l.rxSeq - 1 else 0

/-- A null flit (R32). -/
def Link.nullFlit (l : Link) : Flit :=
  sealFlit { ch := 7, sop := false, eop := false, lseq := l.txSeq - 1, aseq := l.aseq, av := l.rxAny, payload := List.replicate 56 0, check := 0 }

/-- Both proposals stand and are answered, and each direction has come to the LSEQ its MAPACK named: a fast switch ends (R43). -/
def State.remapAgreed (s : State) (i d : Nat) : State :=
  let l := s.link i d
  match l.remapping with
  | some r =>
    let past (o : Option (BitVec 13)) (next : BitVec 13) : Bool := match o with | some q => lseqReached next q | none => false
    if r.fast && r.acked && past r.txFrom l.txSeq && past r.rxFrom l.rxSeq then s.endChange i d (r.ls.getD l.ls) else s
  | none => s

/-- Whether new traffic goes: not in a remap or a fast switch (R39, R43). -/
def Link.injects (l : Link) : Bool := l.state == .active && l.remapping.isNone

/-- A laser request or answer, which travels while the link is dark (R44; DESIGN CHOICE, assumption 48). -/
def OutFlit.laser (f : OutFlit) : Bool := f.ch == 5 && (f.payload.getD 4 0 == 4 || f.payload.getD 4 0 == 5)

/-- Whether the link carries laser requests and answers alone: OFF, or DOWN in a sleep state (R44, 05 R123). -/
def State.darkLink (s : State) (i d : Nat) : Bool :=
  (s.link i d).state == .off || ((s.link i d).state == .down && decide (2 ≤ s.trust.ps))

/-- A flit leaves on the lit lanes; the far end of a link within the package receives it. -/
def State.emit (s : State) (i d : Nat) (f : Flit) : State :=
  let s := s.onLink i d fun l => { l with wire := stripe (l.sendMask f.lseq) (flitBody f ++ toLE 4 f.check.toNat), unreported := 0 }
  if d < 4 then s.later 0 (.flitReceive (i ^^^ 2 ^ d) d f) else s

/-- A flit that takes the next LSEQ (R33): it is kept until it is acknowledged. -/
def Link.assign (l : Link) (o : OutFlit) : Flit × Link :=
  let f := sealFlit { ch := o.ch, sop := o.sop, eop := o.eop, lseq := l.txSeq, aseq := l.aseq, av := l.rxAny, payload := o.payload, check := 0 }
  let sent := l.inflight.takeWhile fun x => x.2.isSome
  let infl := match l.inflight.dropWhile fun x => x.2.isSome with
    | x :: xs => if o.ch != 5 && o.eop then sent ++ (x.1, some l.txSeq) :: xs else l.inflight
    | [] => l.inflight
  (f, { l with txSeq := l.txSeq + 1, replay := l.replay ++ [f], inflight := infl
               flitsNow := if o.ch = 5 then l.flitsNow else (l.flitsNow + 1) % 2 ^ 32 })

/-- A packet begins when no flit of another waits (03 R52). -/
def Link.begin (l : Link) : Link :=
  match l.pktQ with
  | o :: r => if l.injects && !(l.flitQ.any fun f => f.ch != 5) then
      { l with pktQ := r, flitQ := l.flitQ ++ flitsOf o, inflight := l.inflight ++ [(o, none)] } else l
  | [] => l

/-- The time stamp of a timing packet is that of its transmission (03 R79): t1 of a TSYNC, at bytes 25:16 of its image, and t3 of a TSYNCR, at
bytes 35:26. -/
def OutFlit.stamped (o : OutFlit) (stamp : List Byte) : OutFlit :=
  let put (at_ : Nat) : OutFlit := { o with payload := o.payload.take at_ ++ stamp ++ o.payload.drop (at_ + 10) }
  if o.ch = 2 ∧ o.sop then
    match (o.payload.getD 4 0).toNat with
    | 0x16 => put 16
    | 0x17 => put 26
    | _ => o
  else o

/-- A TSYNC leaves: its sample begins (03 R79). -/
def State.sampled (s : State) (i : Nat) (o : OutFlit) : State :=
  if o.ch = 2 ∧ o.sop ∧ o.payload.getD 4 0 = 0x16 ∧ field o.payload 2 2 = s.nid i then
    s.onDie i fun n => n.onFab fun f => { f with sample := f.sample.map fun x => (f.picos, x.2) }
  else s

/-- FLIT_TRANSMIT (02 R32, R33, R35): a flit of the replay, a control flit, the next data flit, or a null flit, which goes too while the
replay buffer is full. A flit sent again counts in FLITS once (DESIGN CHOICE, assumption 48). -/
def State.flitTransmit (s : State) (i d : Nat) : State :=
  let l := (s.link i d).begin
  let lit : Bool := l.state == .active || l.state == .remap
  match if lit then l.resend else [] with
  | f :: r => (s.onLink i d fun _ => { l with resend := r }).emit i d (sealFlit { f with aseq := l.aseq, av := l.rxAny })
  | [] =>
    let pick := if l.injects then l.flitQ.head? else if lit then l.flitQ.find? fun f => f.ch == 5
                else if s.darkLink i d then l.flitQ.find? OutFlit.laser else none
    match pick with
    | some o =>
      if 4096 ≤ l.replay.length then (let s := s.onLink i d fun _ => l; if lit then s.emit i d l.nullFlit else s)
      else
        let (f, l) := { l with flitQ := l.flitQ.erase o }.assign (o.stamped (s.die i).fab.stamp)
        (((s.onLink i d fun _ => l).sampled i o).emit i d f).remapAgreed i d
    | none => if lit then (s.onLink i d fun _ => l).emit i d l.nullFlit else s

def execFlitTransmit (i d : Nat) (s : State) : Host.Outcome State Fault Refusal :=
  event (.flitTransmit i d) s (s.flitTransmit i d)

/-- The event of a link-control flit; none where its type is reserved (02 Table 2.3). A laser state above 3 is taken modulo 4, and byte 6 of
LSACK other than 1 counts as accepted: Table 2.3 gives these values no meaning (DESIGN CHOICE, assumption 48). -/
def controlEvent (i d : Nat) (p : List Byte) : Option Instr :=
  let w (k n : Nat) := field p k n
  match w 4 1 with
  | 1 => some (.nak i d (BitVec.ofNat 13 (w 5 2)))
  | 2 => some (.mapprop i d (BitVec.ofNat 16 (w 5 2)) (BitVec.ofNat 8 (w 7 1)))
  | 3 => some (.mapack i d (BitVec.ofNat 16 (w 5 2)) (BitVec.ofNat 13 (w 7 2)))
  | 4 => some (.lsreq i d (BitVec.ofNat 2 (w 5 1)))
  | 5 => some (.lsack i d (BitVec.ofNat 2 (w 5 1)) (w 6 1 == 1))
  | _ => none

/-- A flit accepted in order: a control flit acts, data flits make up packets (02 R32, R34, 03 R52). -/
def State.takeFlit (s : State) (i d : Nat) (f : Flit) : State :=
  let count (s : State) : State := s.onLink i d fun l => { l with crcerr := satAdd 16 l.crcerr 1 }
  match f.ch.toNat with
  | 5 => match controlEvent i d f.payload with
    | some ev => s.later i ev
    | none => count s
  | 6 => count s
  | ch =>
    let parts := (if f.sop then [] else (s.link i d).asm.get [] ch) ++ [f.payload]
    if f.eop then
      let s := s.onLink i d fun l => { l with asm := l.asm.erase ch }
      s.arrive i f.ch (packetOfImage parts.flatten)
    else s.onLink i d fun l => { l with asm := l.asm.set ch parts }

/-- More than 16 bad flits in 1 µs on a link within the package start a remap, whose retraining names the lane (R37). -/
def State.badFlits (s : State) (i d : Nat) : State :=
  let l := s.link i d
  if d < 4 ∧ 16 < l.crcTimes.length ∧ l.state = .active ∧ l.remapping.isNone then
    (s.onLink i d fun l => { l with crcTimes := [] }).beginRemap i d (l.rxmap &&& ~~~l.failing) 0 false none
  else s

/-- A flit has been received: after 64 of them ASEQ is reported (R33). -/
def State.counted (s : State) (i d : Nat) : State :=
  let s := s.onLink i d fun l => { l with unreported := l.unreported + 1 }
  if 64 ≤ (s.link i d).unreported then s.again i (.aseqReport i d) else s

/-- FLIT_RECEIVE (02 R31 to R33). -/
def State.flitReceive (s : State) (i d : Nat) (f : Flit) : State :=
  let l := s.link i d
  if !(l.state == .active || l.state == .remap ||
      (s.darkLink i d && flitGood f && ({ ch := f.ch, payload := f.payload } : OutFlit).laser)) then s
  else if !flitGood f then ((s.onLink i d fun l => l.badFlit (s.ftc i)).spoil i d).badFlits i d
  else
    let s := (if f.av then s.onLink i d fun l => l.acked f.aseq else s).counted i d
    if f.ch = 7 then s
    else
      let l := s.link i d
      if f.lseq = l.rxSeq then
        ((s.onLink i d fun l => { l with rxSeq := l.rxSeq + 1, rxAny := true, gapRun := none }).takeFlit i d f).remapAgreed i d
      else if lseqBehind l.rxSeq f.lseq ≤ 4096 then s
      else (s.onLink i d fun l => l.gap f.lseq).spoil i d

def execFlitReceive (i d : Nat) (f : Flit) (s : State) : Host.Outcome State Fault Refusal :=
  event (.flitReceive i d f) s (s.flitReceive i d f)

/-- ASEQ_REPORT (02 R32, R33): with nothing else to send, a null flit carries ASEQ. -/
def State.aseqReport (s : State) (i d : Nat) : State :=
  let l := s.link i d
  if l.state = .active ∨ l.state = .remap then s.emit i d l.nullFlit else s

def execAseqReport (i d : Nat) (s : State) : Host.Outcome State Fault Refusal := event (.aseqReport i d) s (s.aseqReport i d)

/-- A remap has come to its end: the link is ACTIVE in the laser state it led to (R39 step 5). -/
def State.endRemap (s : State) (i d : Nat) (r : Remap) : State :=
  (s.onLink i d fun l =>
    { l with ls := r.ls.getD l.ls, ramp := if r.ls.isSome then none else l.ramp, lsReq := if r.ls.isSome then none else l.lsReq
             remaps := satAdd 16 l.remaps 1 }).becomeActive i d

/-- NAK (02 R33): resend from the named LSEQ in order; in step 5 of a remap new traffic follows the replay, and the link is ACTIVE (R39). The
far end may come to step 5 first. A TSYNC sent again spoils its sample (03 R79). -/
def State.nak (s : State) (i d : Nat) (lseq : BitVec 13) : State :=
  let s := s.onLink i d fun l =>
    let l := l.acked (lseq - 1)
    { l with resend := l.replay }
  let timed (t : Byte) : Bool := (s.link i d).resend.any fun f => f.ch == 2 && f.sop && f.payload.getD 4 0 == t
  let s := if timed 0x16 then s.spoilTimed i d 0x16 else s
  let s := if timed 0x17 then s.spoilTimed i d 0x17 else s
  match (s.link i d).remapping with
  | some r =>
    if r.fast then s
    else if r.trained then s.endRemap i d r
    else if r.acked && r.theirs.isSome then s.onLink i d fun l => { l with remapping := some { r with naked := true } }
    else s
  | none => s

def execNak (i d : Nat) (lseq : BitVec 13) (s : State) : Host.Outcome State Fault Refusal :=
  event (.nak i d lseq) s (s.nak i d lseq)

/-! ## Training and remap (02 R38 to R41) -/

/-- The lanes a pattern test passed stop failing, and those it did not fail (R37, R38). -/
def Link.tested (l : Link) (of rx : BitVec 16) : Link :=
  { l with lanes := (List.range 16).foldl (fun f w =>
      if of.getLsbD w then f.set w { (f.get {} w) with fail := !rx.getLsbD w } else f) l.lanes
           watch := [] }

/-- LINK_TRAINING_COMPLETE: the lanes that pass become the working set, within the kept maps where they are offered; ACTIVE or
DEAD. FAIL of a lane that passes clears (DESIGN CHOICE, assumption 48). -/
def State.trained (s : State) (i d : Nat) (tx rx : BitVec 16) : State :=
  let l := s.link i d
  if l.state ≠ .train then s
  else
    let keep (m kept : BitVec 16) : BitVec 16 := if l.keepMaps && kept != 0 then m &&& kept else m
    let s := s.onLink i d fun l =>
      { (l.renumber.tested 0xFFFF rx) with txmap := keep tx l.txmap, rxmap := keep rx l.rxmap, ls := 0, ramp := none, keepMaps := false }
    let l := s.link i d
    if l.needed ≤ lanesIn l.txmap ∧ l.needed ≤ lanesIn l.rxmap then s.becomeActive i d else s.becomeDead i d

def execLinkTrainingComplete (i d : Nat) (tx rx : BitVec 16) (s : State) : Host.Outcome State Fault Refusal :=
  event (.linkTrainingComplete i d tx rx) s (s.trained i d tx rx)

/-- Restart a remap at step 1, or give the link up after three restarts (R40). -/
def State.restartRemap (s : State) (i d : Nat) (mine : BitVec 16) : State :=
  let l := s.link i d
  if 3 ≤ l.restarts then s.becomeDead i d
  else
    (s.onLink i d fun l => { l with restarts := l.restarts + 1 }).offer i d mine ((l.remapping.map (·.reason)).getD 0) false
      (l.remapping.bind (·.ls))

/-- The far end's proposal is answered: its receive mask becomes this end's transmit mask, for a fast switch from the flit behind
the MAPACK. -/
def State.answerMap (s : State) (i d : Nat) (mask : BitVec 16) : State :=
  let l := s.link i d
  match l.remapping with
  | none => s
  | some r =>
    let next := l.txSeq + BitVec.ofNat 13 ((l.flitQ.filter fun f => f.ch == 5).length + 1)
    let s := s.onLink i d fun l =>
      { (l.control 3 (toLE 2 mask.toNat ++ toLE 2 next.toNat)) with remapping := some { r with theirs := some mask, txFrom := some next } }
    if lanesIn mask < l.needed ∧ !r.fast then s.becomeDead i d else s.remapAgreed i d

/-- MAPPROP (R39, R40, R43): it begins the sequence here, answers this end's own, or, with another mask than before, restarts it
here too. A copy of it changes nothing. A step up waits until this end's lasers are ready. -/
def State.mapprop (s : State) (i d : Nat) (mask : BitVec 16) (reason : Byte) : State :=
  let l := s.link i d
  if !(l.state == .active || l.state == .remap) then s
  else
    match l.remapping with
    | some r =>
      if r.theirs = some mask then s
      else if r.theirs.isSome && !r.fast then (s.restartRemap i d r.mine).answerMap i d mask
      else s.answerMap i d mask
    | none =>
      let up : Bool := match l.ramp with | some t => decide (t < l.ls) | none => l.upWait.isSome
      if reason = 2 ∧ up then s.later i (.mapprop i d mask reason)
      else
        let fast : Bool := reason == 2 && (match l.ramp with | some t => t != 3 && l.ls != 3 | none => false)
        (s.beginRemap i d (if fast then litLanes l.rxmap (l.ramp.getD l.ls) else l.rxmap &&& ~~~l.failing) reason fast l.ramp).answerMap
          i d mask

def execMapprop (i d : Nat) (mask : BitVec 16) (reason : Byte) (s : State) : Host.Outcome State Fault Refusal :=
  event (.mapprop i d mask reason) s (s.mapprop i d mask reason)

/-- MAPACK (R39, R43): the far end has adopted this end's proposal from the LSEQ named. -/
def execMapack (i d : Nat) (mask : BitVec 16) (lseq : BitVec 13) (s : State) : Host.Outcome State Fault Refusal :=
  event (.mapack i d mask lseq) s
    ((s.onLink i d fun l =>
      { l with remapping := l.remapping.map fun r => if r.mine = mask then { r with acked := true, rxFrom := some lseq } else r }).remapAgreed i d)

/-- REMAP_RETRAIN_COMPLETE (R39 step 4 and 5, R40): `tx` and `rx` are the lanes that pass. A receive lane that does not restarts the
remap; a transmit lane that does not is the far end's, whose restart is awaited. This end sends the NAK of step 5, and waits for the far
end's; a link that goes dark has nothing to replay, and does not wait. -/
def State.remapRetrainComplete (s : State) (i d : Nat) (tx rx : BitVec 16) : State :=
  let l := s.link i d
  match l.remapping with
  | some r =>
    match r.theirs with
    | some theirs =>
      if r.fast ∨ !r.acked then s.later i (.remapRetrainComplete i d tx rx)
      else if r.trained then s
      else
        let s := s.onLink i d fun l => l.tested r.mine rx
        if r.mine &&& ~~~rx ≠ 0 then s.restartRemap i d (r.mine &&& rx)
        else if theirs &&& ~~~tx ≠ 0 then s
        else
          let s := s.onLink i d fun l => { l.nak with txmap := theirs, rxmap := r.mine, remapping := some { r with trained := true } }
          if r.ls = some 3 then s.endChange i d 3
          else if r.naked then s.endRemap i d r
          else s
    | none => s.later i (.remapRetrainComplete i d tx rx)
  | none => s

def execRemapRetrainComplete (i d : Nat) (tx rx : BitVec 16) (s : State) : Host.Outcome State Fault Refusal :=
  event (.remapRetrainComplete i d tx rx) s (s.remapRetrainComplete i d tx rx)

/-- A lane of this end's receiver fails (R37, R40, R44): an unlit lane leaves the set; a lit one starts the remap, or restarts it where it is
still in the mask offered. -/
def State.laneFails (s : State) (i d lane : Nat) : State :=
  let bit : BitVec 16 := BitVec.ofNat 16 (2 ^ lane)
  let l := s.link i d
  let left := l.rxmap &&& ~~~bit
  let s := s.onLink i d fun l => { l with lanes := l.lanes.set lane { (l.lanes.get {} lane) with fail := true } }
  match l.state, l.remapping with
  | .remap, some r => if r.mine &&& bit = 0 then s else s.restartRemap i d (r.mine &&& ~~~bit)
  | .active, r =>
    if l.rxmap &&& bit = 0 then s
    else if r.isSome then s.restartRemap i d left
    else if litLanes l.rxmap l.ls &&& bit = 0 then s.onLink i d fun l => { l with rxmap := left }
    else if left = 0 then s.becomeDead i d
    else s.beginRemap i d left 0 false none
  | _, _ => s

/-- LANE_FAILING (R37). -/
def State.laneFailing (s : State) (i d lane : Nat) (rx : Bool) : State :=
  let bit : BitVec 16 := BitVec.ofNat 16 (2 ^ lane)
  let l := s.link i d
  if rx then s.laneFails i d lane
  else if litLanes l.txmap l.ls &&& bit = 0 then s.onLink i d fun l => { l with txmap := l.txmap &&& ~~~bit }
  else s

def execLaneFailing (i d lane : Nat) (rx : Bool) (s : State) : Host.Outcome State Fault Refusal :=
  event (.laneFailing i d lane rx) s (s.laneFailing i d lane rx)

/-- Whether an error estimate passes 1 × 10⁻⁵ (02 Table 2.16). -/
def noisyEstimate (h : Health) : Bool := decide (256 * 2 ^ h.bere.toNat < h.berm.toNat * 100000)

/-- The counts of a sample (R29): a codeword with up to 8 bytes in error is corrected, one with more is uncorrected. -/
def coded (h : Health) : Health :=
  { h with corr := BitVec.ofNat 32 (min (2 ^ 32 - 1) (h.codewords.filter (· ≤ 8)).sum)
           uncw := BitVec.ofNat 16 (min 65535 (h.codewords.countP (8 < ·))), codewords := [] }

/-- A sample counted in what the device remembers of the lane: a millisecond window is over the limit when a sample in it is. R37 does not
say where its windows begin: they are those of FTC divided by 10⁶ (DESIGN CHOICE, assumption 48). -/
def Watch.count (w : Watch) (h : Health) (now : Nat) : Watch :=
  let k := now / 1000000
  let w := { w with uncw := (now, h.uncw.toNat) :: w.uncw.filter fun x => now < x.1 + 1000000 }
  if !noisyEstimate h ∨ (w.run ≠ 0 ∧ w.window = k) then w
  else { w with window := k, run := if w.run ≠ 0 ∧ w.window + 1 = k then w.run + 1 else 1 }

/-- Whether a lane is failing by its sample (R37). -/
def failsBy (d : Nat) (h : Health) (w : Watch) : Bool :=
  h.fail || h.loss != 0
    || (decide (4 ≤ d) && (decide (4 ≤ (w.uncw.map (·.2)).sum) || decide (3 ≤ w.run)))
    || (decide (7 ≤ d) && decide (h.rxpwr.toInt < -1000))

/-- HEALTH_SAMPLE (R51): readings replace, counts accumulate; a lane that is unlit or not working holds its last sample. In-package
lanes have no FEC, and so no estimate and no codewords (R29). A sample past a threshold makes the lane fail (R37). -/
def State.healthSample (s : State) (i d lane : Nat) (h : Health) : State :=
  let l := s.link i d
  let bit : BitVec 16 := BitVec.ofNat 16 (2 ^ lane)
  if litLanes l.rxmap l.ls &&& bit = 0 then s
  else
    let h := if d < 4 then { h with berm := 0, bere := 0, corr := 0, uncw := 0, codewords := [] } else coded h
    let o := l.lanes.get {} lane
    let w := (l.watch.get {} lane).count h (s.ftc i)
    let s := s.onLink i d fun l =>
      { l with uncorr := satAdd 16 l.uncorr h.uncw.toNat
               watch := l.watch.set lane w
               lanes := l.lanes.set lane { h with fail := o.fail
                                                  corr := BitVec.ofNat 32 (satAdd 32 o.corr.toNat h.corr.toNat)
                                                  uncw := BitVec.ofNat 16 (satAdd 16 o.uncw.toNat h.uncw.toNat)
                                                  loss := BitVec.ofNat 16 (satAdd 16 o.loss.toNat h.loss.toNat) } }
    if failsBy d h w then s.laneFails i d lane else s

def execHealthSample (i d lane : Nat) (h : Health) (s : State) : Host.Outcome State Fault Refusal :=
  event (.healthSample i d lane h) s (s.healthSample i d lane h)

/-! ## Laser states (02 R42 to R47, 01 R24) -/

/-- Whether an end refuses LS3 (R44). -/
def State.refusesLs (s : State) (i d ls : Nat) : Bool :=
  let e := (s.link i d).ddim.toNat
  let le := s.link i e
  ls == 3 && !(le.state == .active && decide (le.ls ≤ 1))

/-- LSREQ (R44): the far end asks; crossing requests give the lower state, and this end's own is answered with it. Where both ask for LS3
the change waits for both answers, since either end may refuse, and neither goes where one does (DEDUCED, assumption 48). During a change
or a remap the request waits; an end in PS2 or PS3 refuses it (R123). -/
def State.lsreq (s : State) (i d ls : Nat) : State :=
  let l := s.link i d
  let agreed := match l.lsReq with | some (own, _) => min own ls | none => ls
  if d < 7 then s
  else if 2 ≤ s.trust.ps then s.onLink i d fun l => l.control 5 [BitVec.ofNat 8 ls, 1]
  else if l.state = .remap ∨ (l.lsbusy ∧ l.lsReq.isNone) then s.later i (.lsreq i d (BitVec.ofNat 2 ls))
  else if !(l.state == .active || l.state == .off) then s
  else if s.refusesLs i d agreed then
    -- an end that refuses a crossing request cannot enter LS3 by its own
    s.onLink i d fun l =>
      let l := l.control 5 [BitVec.ofNat 8 ls, 1]
      if l.lsReq.isSome then { l with lsrej := true, lsReq := none, lsbusy := false } else l
  else if agreed = 3 ∧ l.lsReq.isSome then s.onLink i d fun l => l.control 5 [3, 0]
  else (s.onLink i d fun l => { (l.control 5 [BitVec.ofNat 8 agreed, 0]) with lsReq := none }).beginChange i d agreed

def execLsreq (i d : Nat) (ls : BitVec 2) (s : State) : Host.Outcome State Fault Refusal :=
  event (.lsreq i d ls) s (s.lsreq i d ls.toNat)

/-- LSACK (R44). -/
def State.lsack (s : State) (i d ls : Nat) (rejected : Bool) : State :=
  let l := s.link i d
  if d < 7 ∨ l.lsReq.isNone then s
  else if rejected then
    (s.onLink i d fun l => { l with lsrej := true, lsReq := none, lsbusy := false, waking := false }).releaseHeld i d
  else s.beginChange i d ls

def execLsack (i d : Nat) (ls : BitVec 2) (rejected : Bool) (s : State) : Host.Outcome State Fault Refusal :=
  event (.lsack i d ls rejected) s (s.lsack i d ls.toNat rejected)

/-- LS_REQUEST_HOLD_TIMEOUT (Table 2.8): a request not answered, or held, past 1 ms sets LSREJ. -/
def State.lsTimeout (s : State) (i d : Nat) : State :=
  let l := s.link i d
  let times := (l.lsReq.map (·.2)).toList ++ (l.lsHeld.map (·.2)).toList
  if d < 7 ∨ times.isEmpty then s
  else if times.any fun t => decide (t + 1000000 < s.ftc i) then s.onLink i d fun l => { l with lsrej := true }
  else s.again i (.lsRequestHoldTimeout i d)

def execLsRequestHoldTimeout (i d : Nat) (s : State) : Host.Outcome State Fault Refusal :=
  event (.lsRequestHoldTimeout i d) s (s.lsTimeout i d)

/-- LASER_RAMP_COMPLETE (R43): lit lanes are ready, and the change goes on to MAPPROP or to retraining. -/
def execLaserRampComplete (i d : Nat) (s : State) : Host.Outcome State Fault Refusal :=
  event (.laserRampComplete i d) s
    (let l := s.link i d
     match l.ramp with
     | none => s
     | some ls =>
      if l.remapping.isSome then s.later i (.laserRampComplete i d)
      else if l.ls = 3 then s.beginRemap i d (l.rxmap &&& ~~~l.failing) 2 false (some ls)
      else s.beginRemap i d (litLanes l.rxmap ls) 2 true (some ls))

/-- Optical links in (d, i) order. -/
def opticalLinks : List (Nat × Nat) :=
  [7, 8, 9, 10, 11, 12, 13].flatMap fun d => (List.range 16).map fun i => (d, i)

/-- Whether a lighting slot is open (01 R24). -/
def State.slotOpen (s : State) : Bool := match s.lastLight with | none => true | some t => decide (t + 20000 ≤ s.ftc 0)

/-- A link takes the lighting slot and one of the window's transitions. -/
def State.light (s : State) (i d : Nat) : State :=
  (({ s with lastLight := some (s.ftc 0), upsBegun := s.upsBegun + 1 } : State).onLink i d fun l =>
    { l with lighting := false, ramp := some 0 }).later i (.laserRampComplete i d)

/-- LIGHTING_SLOT (01 R24, 02 R46): the pending request lowest in (d, i) order begins lighting, 20 µs after the last and within the
transitions the policy window allows. -/
def State.lightingSlot (s : State) : State :=
  match opticalLinks.find? fun (d, i) => (s.link i d).lighting with
  | none => s
  | some (d, i) =>
    if !s.slotOpen || decide (s.maxUp ≤ s.upsBegun) then s.again 0 .lightingSlot
    else
      let s := s.light i d
      if opticalLinks.any fun (d, i) => (s.link i d).lighting then s.again 0 .lightingSlot else s

def execLightingSlot (s : State) : Host.Outcome State Fault Refusal := event .lightingSlot s s.lightingSlot

/-- LPWIN.US as used (02 Table 2.13). -/
def State.windowUs (s : State) : Nat := max 1 (min 1000 s.lpwin.toNat)

/-- The laser policy for one optical link (R47). -/
def State.policy (s : State) (i d : Nat) : State :=
  let l := s.link i d
  let p (k : Nat) := (l.lpol.extractLsb' (8 * k) 8).toNat
  let dwell := p 5
  let deep := (l.lpol.extractLsb' 48 2).toNat
  let (below, bar) := if l.ls < l.prev then (0, 4 * dwell) else (l.below, l.bar)
  let set (s : State) (below bar : Nat) : State := s.onLink i d fun l => { l with below, bar, prev := l.ls }
  if l.state ≠ .active ∨ l.lsbusy then set s 0 bar
  else
    let n := lanesIn l.txmap
    let cap := s.windowUs * 16000 / beatsOf n
    let u := if cap = 0 then 0 else l.flits * 256 / cap
    if (l.ls = 1 ∧ p 3 ≤ u) ∨ (l.ls = 2 ∧ p 4 ≤ u) then (set s 0 (4 * dwell)).requestLs i d 0
    else
      let lim := match l.ls with | 0 => p 0 | 1 => p 1 | _ => p 2
      let below := if u < lim then below + 1 else 0
      if 0 < bar then set s below (bar - 1)
      else if max dwell 1 ≤ below ∧ l.ls < deep then (set s 0 bar).requestLs i d (l.ls + 1)
      else set s below bar

/-- A transition that waits for a window's room begins (R46): a step up, or the lighting of a link whose slot is open. -/
def State.beginUp (s : State) (i d : Nat) : State :=
  let l := s.link i d
  match l.upWait with
  | some ls => s.beginChange i d ls
  | none => if l.lighting && s.slotOpen && decide (s.upsBegun < s.maxUp) then s.light i d else s

/-- POLICY_WINDOW (R46, R47): LUTIL takes the window's counts, the next window begins with the flits that wait, waiting transitions begin in
(d, i) order, and firmware decides. -/
def execPolicyWindow (s : State) : Host.Outcome State Fault Refusal :=
  event .policyWindow s
    (let all := (List.range 14).flatMap fun d => (List.range 16).map fun i => (d, i)
     let s := all.foldl (fun s (d, i) => s.onLink i d fun l =>
        { l with flits := l.flitsNow, qmax := l.qmaxNow, flitsNow := 0, qmaxNow := min 65535 l.waiting }) s
     let s := { s with upsBegun := 0 }
     let s := opticalLinks.foldl (fun s (d, i) => s.beginUp i d) s
     opticalLinks.foldl (fun s (d, i) => s.policy i d) s)

/-- LINK_STATE_ANNOUNCEMENT (03 R67): the neighbour across `via` announces its link `dim`. -/
def execLinkStateAnnouncement (i via dim : Nat) (st : BitVec 3) (ls : BitVec 2) (s : State) : Host.Outcome State Fault Refusal :=
  event (.linkStateAnnouncement i via dim st ls) s
    (let st : LinkState := match st.toNat with
      | 0 => .down | 1 => .train | 2 => .active | 3 => .remap | 4 => .dead | _ => .off
     (s.onDie i fun n => n.onFab fun f => { f with views := f.views.set (16 * via + dim) (st, ls.toNat) }).resendAll i)

/-! ## Registers with a behaviour of their own -/

/-- An enabled link that is not DEAD begins training (R38). -/
def State.train (s : State) (i d : Nat) (keep : Bool) : State :=
  let l := s.link i d
  if l.enable && l.state != .dead then
    (s.onLink i d fun l => { l.quiet with state := .train, ls := 0, restarts := 0, keepMaps := keep }).announce i d
  else s

/-- LCTL_ENABLE (02 R38, Table 2.7): a 0 to 1 write starts training, and is how a link leaves DEAD. -/
def execLctlEnable (i d : Nat) (en : Bool) (s : State) : Host.Outcome State Fault Refusal :=
  event (.lctlEnable i d en) s
    (let l := s.link i d
     if en then
      if l.enable then s
      else (s.onLink i d fun l => { l with enable := true, state := .down }).train i d false
     else
      (((s.onLink i d fun l => { l.quiet with enable := false, state := if l.state = .dead then .dead else .down }).dropDetoured i d true).spoil
        i d).announce i d)

/-- LCTL_REMAP (02 R39, R40); in any other state than ACTIVE, and during a fast switch, it is ignored as during a remap (DESIGN
CHOICE, assumption 48). -/
def State.lctlRemap (s : State) (i d : Nat) : State :=
  let l := s.link i d
  if l.state = .active ∧ l.remapping.isNone then s.beginRemap i d (l.propose &&& ~~~l.failing) 1 false none
  else s.onLink i d fun l => { l with maprej := true }

def execLctlRemap (i d : Nat) (s : State) : Host.Outcome State Fault Refusal :=
  event (.lctlRemap i d) s (s.lctlRemap i d)

/-- LCTL_CLRCNT (02 Table 2.7, R51): LERR, LUTIL and the counts of WHLD. -/
def execLctlClrcnt (i d : Nat) (s : State) : Host.Outcome State Fault Refusal :=
  event (.lctlClrcnt i d) s (s.onLink i d fun l =>
    { l with crcerr := 0, replays := 0, remaps := 0, uncorr := 0, flits := 0, qmax := 0
             lanes := l.lanes.map fun (k, h) => (k, { h with corr := 0, uncw := 0, loss := 0 }) })

/-- LCTL_LSSET (02 R44, R50). -/
def execLctlLsset (i d : Nat) (ls : BitVec 2) (s : State) : Host.Outcome State Fault Refusal :=
  event (.lctlLsset i d ls) s
    (let s' := s.onLink i d fun l => { l with lsset := ls }
     if d < 7 then s else if (s.link i d).state = .off then s'.wakeOff i d ls.toNat else s'.requestLs i d ls.toNat)

/-- LPOL_WRITE (02 R48). -/
def execLpolWrite (i d : Nat) (v : W64) (s : State) : Host.Outcome State Fault Refusal :=
  event (.lpolWrite i d v) s
    (let p (k : Nat) := (v.extractLsb' (8 * k) 8).toNat
     if d < 7 then s
     else if p 2 ≤ p 1 ∧ p 1 ≤ p 0 ∧ p 0 < p 3 ∧ p 1 < p 4 then s.onLink i d fun l => { l with lpol := v &&& 0x3FFFFFFFFFFFF }
     else s.onLink i d fun l => { l with polrej := true })

/-- A DETOUR write takes effect (03 R70, R71): another DIM while a detour is taken begins a drain; the same DIM changes no path, and
begins none (DESIGN CHOICE, assumption 47). -/
def State.writeDetour (s : State) (i d : Nat) (v : W64) : State :=
  let l := s.link i d
  let dim := v.extractLsb' 0 4
  let bad : Bool := dim.toNat == d || decide (13 < dim.toNat)
  let s := s.onLink i d fun l =>
    { l with ddim := if bad then l.ddim else dim, den := v.getLsbD 4, dfail := l.dfail && !v.getLsbD 7
             wrej := (l.wrej && !v.getLsbD 8) || bad }
  (if !bad && dim != l.ddim && l.dactive then s.beginDrain i d l.ddim.toNat else s).resendHeld i d

/-- DETOUR writes take effect in order, until one begins a drain; those behind it wait for that drain (R70). -/
def State.writeDetours (s : State) (i d : Nat) : List W64 → State
  | [] => s
  | v :: r => if (s.link i d).draining then s.onLink i d fun l => { l with detourWrites := v :: r } else (s.writeDetour i d v).writeDetours i d r

/-- DETOUR_WRITE (03 R70, R71): during a drain it waits for the drain's end. -/
def execDetourWrite (i d : Nat) (v : W64) (s : State) : Host.Outcome State Fault Refusal :=
  event (.detourWrite i d v) s
    (if (s.link i d).draining then s.onLink i d fun l => { l with detourWrites := l.detourWrites ++ [v] } else s.writeDetour i d v)

/-- DRAIN_RESEND (03 R70). -/
def execDrainResend (i d : Nat) (s : State) : Host.Outcome State Fault Refusal :=
  event (.drainResend i d) s
    (let l := s.link i d
     if !l.draining then s
     else if s.ftc i < l.drainAt + 100000 then s.later i (.drainResend i d)
     else ((s.onLink i d fun l => { l with drainAt := s.ftc i }).sendDrains i d l.drainOld).later i (.drainResend i d))

/-- DIGCLR (03 R74). -/
def execDigclr (i d : Nat) (s : State) : Host.Outcome State Fault Refusal :=
  event (.digclr i d) s (s.onLink i d fun l => { l with digtx := [], digrx := [] })

/-- FSTAT_CLR (03 Table 3.10), of die `unit`. -/
def execFstatClr (s : State) : Host.Outcome State Fault Refusal :=
  dieEvent s (s.onDie s.unit fun n => n.onFab fun f => { f with dups := 0, detdrop := 0, noreach := 0, badpkt := 0 })

end Sys2Proof.Machine
end

