-- ==== Sys2Proof/Machine/Ops.lean ====
section
/-! DEFINITION. Named operations over memory (08, 09): address classes, home slices, format windows, the L1, translation, the
loads and stores of a die, and accesses of its engines; then stopping events: entering a trap and returning from it (10 R249
to R257). -/

namespace Sys2Proof.Machine

/-! ## Physical addresses (08 Table 8.2) -/

/-- The class of a physical address, bits 55:52. -/
def paClass (pa : Nat) : Nat := pa / 2 ^ 52 % 16
/-- Bits 51:0. -/
def paLow (pa : Nat) : Nat := pa % 2 ^ 52
/-- The 64-byte line of an address. -/
def lineOf (pa : Nat) : Nat := pa / 64
/-- 768 GiB. -/
def packageBytes : Nat := 768 * 2 ^ 30

/-- Whether a location is mapped (Table 8.2). -/
def State.mapped (s : State) (pa : Nat) : Bool :=
  match paClass pa with
  | 0 => paLow pa < packageBytes
  | 1 => s.pwin.any fun (_, w) => w.en && w.base.toNat * 2 ^ 26 ≤ paLow pa && paLow pa < (w.base.toNat + w.size.toNat) * 2 ^ 26
  | 2 => s.poolRanges.any fun (base, len) => base ≤ paLow pa && paLow pa < base + len
  | 3 => true
  | 4 => paLow pa / 2 ^ 42 != s.pkg && paLow pa % 2 ^ 42 < packageBytes
  | _ => false

/-- The home slice of a line (R209). -/
def homeSlice (pa : Nat) : Nat :=
  let a := if paClass pa = 4 then pa % 2 ^ 42 else pa
  let f (k : Nat) := a / 2 ^ k % 64
  f 8 ^^^ f 14 ^^^ f 20 ^^^ f 26 ^^^ f 32 ^^^ f 38

/-! ## Format windows (R214, R215) -/

/-- The active window whose on-chip range holds an address. -/
def State.window? (s : State) (pa : Nat) : Option Fmtw :=
  if paClass pa ≠ 0 then none
  else (s.fmtw.find? fun (_, w) =>
    w.en && w.obase.toNat * 2 ^ 16 ≤ pa && pa < w.obase.toNat * 2 ^ 16 + w.osize.toNat * 2 ^ 30).map (·.2)

/-- A stored byte of memory, as it stands; an unlisted address reads 0 (DESIGN CHOICE, assumption 2; unsafe). -/
def State.rawByte (s : State) (pa : Nat) : Byte := FMap.get s.mem 0 pa
/-- n stored bytes as a number. -/
def State.rawNat (s : State) (pa n : Nat) : Nat := ofLE ((List.range n).map fun k => s.rawByte (pa + k))

/-- Bytes an element takes on chip. -/
def Fmtw.elemBytes (w : Fmtw) : Nat := if w.bf16 then 2 else 1

/-- The on-chip range of a window, and the stored ranges of its elements and of its scales: where each begins, and its bytes. -/
def Fmtw.ranges (w : Fmtw) : List (Nat × Nat) :=
  let n := w.osize.toNat * 2 ^ 30 / w.elemBytes
  [(w.obase.toNat * 2 ^ 16, w.osize.toNat * 2 ^ 30), (w.dbase.toNat, if w.bs8 then n else n / 2), (w.sbase.toNat, n / 16)]

/-- Two ranges with a byte in common. -/
def rangesMeet (a b : Nat × Nat) : Bool := a.1 < b.1 + b.2 && b.1 < a.1 + a.2

/-- A window whose ranges overlap each other or those of another active window (R215). -/
def State.windowClash (s : State) (w : Fmtw) : Bool :=
  let meets (v : Fmtw) : Bool := w.ranges.any fun a => v.ranges.any (rangesMeet a ·)
  1 < (s.fmtw.filter fun v => v.2.en && meets v.2).length || w.ranges.any fun a => 1 < (w.ranges.filter (rangesMeet a ·)).length

/-- The decoded 64 bytes of a line of a window; of a window that overlaps, free values. -/
def State.decodeLine (s : State) (w : Fmtw) (line : Nat) : List Byte :=
  if s.windowClash w then (List.range 64).map fun o => Config.freeDecoded (64 * line + o) s.wc s.free
  else
  let e0 := (64 * line - w.obase.toNat * 2 ^ 16) / w.elemBytes
  (List.range (64 / w.elemBytes)).flatMap fun j =>
    let e := e0 + j
    let k := e / 32
    let scale := s.rawNat (w.sbase.toNat + 2 * k) 2
    let bits := if w.bs8 then s.rawNat (w.dbase.toNat + 32 * k + e % 32) 1
                else s.rawNat (w.dbase.toNat + 16 * k + e % 32 / 2) 1 / (if e % 2 = 0 then 1 else 16) % 16
    toLE w.elemBytes (decodeElem (if w.bf16 then bf16 else e4m3) (if w.bs8 then e4m3 else e2m1) scale bits)

/-- The decoded line as held, or as a fill decodes it. -/
def State.fmtLine (s : State) (w : Fmtw) (line : Nat) : List Byte :=
  match s.fmtLines.get? line with
  | some l => l.bytes
  | none => s.decodeLine w line

/-- Write bytes of memory as they stand. -/
def State.rawWrite (s : State) (ws : List (Nat × Byte)) : State :=
  { s with mem := ws.foldl (fun m (a, b) => FMap.put m 0 a b) s.mem }

/-- Pair addresses from `a` on with bytes. -/
def placeAt (a : Nat) (bs : List Byte) : List (Nat × Byte) := bs.zipIdx.map fun (b, k) => (a + k, b)

/-- Pair two nibbles. -/
def nibbles : List Nat → List Byte
  | x :: y :: r => BitVec.ofNat 8 (x % 16 + 16 * (y % 16)) :: nibbles r
  | [x] => [BitVec.ofNat 8 (x % 16)]
  | [] => []

/-- Encode a dirty decoded line into its stored blocks. -/
def State.encodeLine (s : State) (w : Fmtw) (line : Nat) (bytes : List Byte) : State :=
  let e0 := (64 * line - w.obase.toNat * 2 ^ 16) / w.elemBytes
  let F := if w.bf16 then bf16 else e4m3
  let vals := (List.range (64 / w.elemBytes)).map fun j => F.decode (field bytes (j * w.elemBytes) w.elemBytes)
  (List.range (vals.length / 32)).foldl (fun s b =>
    let k := e0 / 32 + b
    let (scale, es) := encodeBlock (if w.bs8 then e4m3 else e2m1) (if w.bs8 then 448 else 6) ((vals.drop (32 * b)).take 32)
    let data := if w.bs8 then placeAt (w.dbase.toNat + 32 * k) (es.map fun e => BitVec.ofNat 8 e)
                else placeAt (w.dbase.toNat + 16 * k) (nibbles es)
    s.rawWrite (data ++ placeAt (w.sbase.toNat + 2 * k) (toLE 2 scale))) s

/-- An atrium line of a format window leaves the atrium: a dirty one is encoded. -/
def State.dropFmtLine (s : State) (line : Nat) : State :=
  let s' := match s.fmtLines.get? line, s.window? (64 * line) with
    | some l, some w => if l.dirty then s.encodeLine w line l.bytes else s
    | _, _ => s
  { s' with fmtLines := s'.fmtLines.erase line }

/-! ## Accesses at the home (R207, R210, R216) -/

/-- A stored byte as its home has it: of class 0x2 the atrium's own copy comes first (R211). -/
def State.heldByte (s : State) (pa : Nat) : Byte := ((if paClass pa = 2 then s.pool.get? pa else none).getD (s.rawByte pa))

/-- Write class 0x2 bytes that the atrium holds on lines that meet a test back to the pool (R211). -/
def State.poolBack (s : State) (p : Nat → Bool) : State :=
  if s.pool.isEmpty then s
  else
    let (out, kept) := s.pool.partition fun x => p (lineOf x.1)
    { s.rawWrite out with pool := kept }

/-- A line leaves the atrium: a dirty one of a format window is encoded, one of the pool is written back. -/
def State.evictLine (s : State) (line : Nat) : State := (s.dropFmtLine line).poolBack (· == line)

/-- A byte as its home gives it; of a class 0x4 line, as the local copy has it. -/
def State.homeByte (s : State) (pa : Nat) : Byte :=
  if paClass pa = 4 then (match s.remote.get? (lineOf pa) with | some c => c.bytes.getD (pa % 64) 0 | none => 0)
  else
    match s.window? pa with
    | some w => (s.fmtLine w (lineOf pa)).getD (pa % 64) 0
    | none => s.heldByte pa

/-- n bytes as a number. -/
def State.homeNat (s : State) (pa n : Nat) : Nat := ofLE ((List.range n).map fun k => s.homeByte (pa + k))

/-- A class 0x4 line that no local copy holds. -/
def State.absent (s : State) (pa : Nat) : Bool := paClass pa == 4 && (s.remote.get? (lineOf pa)).isNone

def State.poisoned (s : State) (pa : Nat) : Bool := s.poisonLines.contains (lineOf pa)

/-- Mark a line poisoned at its home. -/
def State.poisonLine (s : State) (line : Nat) : State :=
  if s.poisonLines.contains line then s else { s with poisonLines := s.poisonLines ++ [line] }

/-- Write one byte at its home, or into the local copy of a remote line. -/
def State.homeByteWrite (s : State) (pa : Nat) (b : Byte) : State :=
  if paClass pa = 4 then
    match s.remote.get? (lineOf pa) with
    | some c => { s with remote := s.remote.set (lineOf pa) { c with bytes := c.bytes.set (pa % 64) b } }
    | none => s
  else
    match s.window? pa with
    | some w => { s with fmtLines := s.fmtLines.set (lineOf pa) { bytes := (s.fmtLine w (lineOf pa)).set (pa % 64) b, dirty := true } }
    | none => if paClass pa = 2 then { s with pool := s.pool.set pa b } else s.rawWrite [(pa, b)]

/-- A write of all 64 bytes of a line clears its poison; a smaller one leaves it (R216). -/
def coversLine (ws : List (Nat × Byte)) (line : Nat) : Bool := (List.range 64).all fun o => ws.any fun w => w.1 == 64 * line + o

/-- A write performed at its homes under its byte mask. -/
def State.homeWrite (s : State) (ws : List (Nat × Byte)) : State :=
  let s := ws.foldl (fun s (a, b) => s.homeByteWrite a b) s
  { s with poisonLines := s.poisonLines.filter fun l => !coversLine ws l }

/-- Whether the atrium holds a line whose bytes differ from the memory behind it in form or in value. -/
def State.lineHeld (s : State) (l : Nat) : Bool := (s.fmtLines.get? l).isSome || s.pool.any fun x => lineOf x.1 == l

/-- The same, of bytes of a UC or DEV page: the atrium allocates no line for them (R210), so a line it did not hold leaves it at once. -/
def State.homeWriteAt (s : State) (attr : Nat) (ws : List (Nat × Byte)) : State :=
  let t := s.homeWrite ws
  if attr ≤ 1 then t else ((ws.map fun w => lineOf w.1).filter fun l => !s.lineHeld l).foldl (fun t l => t.evictLine l) t

/-! ## The L1 (R206 to R208) -/

/-- The die whose L1 holds a line for die i: a fused cluster spreads lines by address bits 7:6. -/
def State.l1Die (s : State) (i pa : Nat) : Nat :=
  if s.fused.get false (i / 4) then 4 * (i / 4) + pa / 64 % 4 else i

/-- The dies whose L1s serve die i, and the dies its L1 serves. -/
def State.l1Dies (s : State) (i : Nat) : List Nat :=
  if s.fused.get false (i / 4) then (List.range 4).map fun k => 4 * (i / 4) + k else [i]

/-- A valid byte of the L1 that serves die i. -/
def State.l1Get (s : State) (i pa : Nat) : Option L1Byte := (s.die (s.l1Die i pa)).l1.get? pa
/-- Hold a byte. -/
def State.l1Set (s : State) (i pa : Nat) (b : L1Byte) : State := s.onDie (s.l1Die i pa) fun d => { d with l1 := d.l1.set pa b }

/-- Whether a store of a die this L1 serves, not performed at its home, writes a byte: a fill leaves that byte not valid (09 R225). -/
def State.storeOut (s : State) (i pa : Nat) : Bool :=
  (s.l1Dies i).any fun y => (s.die y).seq.stores.any fun w => !w.sent && w.bytes.any fun b => b.1 == pa

/-- Fetch a line into the L1 under its valid mask. -/
def State.l1Fill (s : State) (i line attr : Nat) : State :=
  (List.range 64).foldl (fun s o =>
    let pa := 64 * line + o
    if (s.l1Get i pa).isSome || s.storeOut i pa then s else s.l1Set i pa { b := s.homeByte pa, swm := attr == 1 }) s

/-- The lines an L1 holds bytes of, in rising order. -/
def linesHeld (m : FMap L1Byte) : List Nat :=
  (m.foldl (fun (ls : List Nat) b => if ls.head? = some (lineOf b.1) then ls else lineOf b.1 :: ls) []).reverse

/-! ## Remote lines (R192, R210, R217) -/

/-- A fill on its way, of a line that meets a test, brings bytes that are not kept; no L1 awaits it. -/
def Die.voidFills (d : Die) (p : Nat → Bool) : Die :=
  let void (r : Request) : Request := match r.waiter with | .fill l => if p l && r.unsent.isNone then { r with stale := true } else r | _ => r
  { d.onFab fun f => { f with requests := f.requests.map void } with prefs := d.prefs.keep fun l => !p l }

/-- Drop local copies of remote lines that meet a test, those on their way with them (09 R233). -/
def State.dropCopies (s : State) (p : Nat → Bool) : State :=
  { s with remote := s.remote.keep fun l => !p l, dies := s.dies.map fun (i, d) => (i, d.voidFills p) }

/-- Storage classes of TAG bits 15:12, whose numbers the spec leaves to the requester: 1 an atrium copy, 2 a write or an atomic
(DESIGN CHOICE, assumption 47). -/
def Waiter.cls : Waiter → Nat
  | .fill _ | .load _ | .record => 1
  | _ => 2

/-- A TAG of a storage class that no request holds, from the last one given on (R56). -/
def Fabric.freeTag (f : Fabric) (cls : Nat) : Option (BitVec 16) :=
  ((List.range 4096).find? fun k => !f.requests.any fun r => r.unsent.isNone && r.tag == BitVec.ofNat 16 (cls * 4096 + (f.nextTag + k) % 4096)).map
    fun k => BitVec.ofNat 16 (cls * 4096 + (f.nextTag + k) % 4096)

/-- Send a request packet to the package a class 0x4 address names, and remember what its reply completes. It is sent when storage
for the reply is free, and not before those of its class that wait. `rid` is the replay it is made for, of a request sent later. -/
def State.sendRequest (s : State) (i pa : Nat) (w : Waiter) (type : Byte) (payload : List Byte) (rid : Option Nat := none)
    (poison : Bool := false) : State :=
  let f := (s.die i).fab
  let rid := rid.or ((s.die i).task.map (·.task.rid))
  let peer := paLow pa / 2 ^ 42 * 16 + i
  let behind : Bool := f.requests.any fun r => r.unsent.isSome && r.waiter.cls == w.cls
  match if behind then none else f.freeTag w.cls with
  | none => s.onDie i fun n => n.onFab fun f =>
      { f with requests := f.requests ++ [{ tag := 0, peer, waiter := w, line := lineOf pa, rid, poison, unsent := some (type, payload) }] }
  | some tag =>
    let s := s.onDie i fun n => n.onFab fun f =>
      { f with nextTag := f.nextTag + 1, requests := f.requests ++ [{ tag, peer, waiter := w, line := lineOf pa, rid }] }
    s.originate i 0 { dst := BitVec.ofNat 14 peer, type, tag, payload, poison }

/-- Requests that waited for storage are sent, as far as it goes. -/
def State.sendWaiting (s : State) (i : Nat) : State :=
  let wait := (s.die i).fab.requests.filter fun r => r.unsent.isSome
  wait.foldl (fun s r =>
    match r.unsent with
    | some (type, payload) => s.sendRequest i (64 * r.line) r.waiter type payload r.rid r.poison
    | none => s) (s.onDie i fun n => n.onFab fun f => { f with requests := f.requests.filter fun r => r.unsent.isNone })

/-- Whether the package awaits a copy of a remote line, or, where `fill` is false, the reply to a write of it. -/
def State.farOut (s : State) (fill : Bool) (line : Nat) : Bool :=
  (List.range 16).any fun y => (s.die y).fab.requests.any fun r =>
    r.line == line && (match r.waiter with | .fill _ => fill && !r.stale | .load _ | .record => false | _ => !fill)

/-- Ask for a line that is absent, once for the package (MRD of Table 8.11), and not while the package's own write of it is on its
way (09 R225). -/
def State.fetchRemote (s : State) (i pa : Nat) : State :=
  if s.farOut true (lineOf pa) || s.farOut false (lineOf pa) then s
  else s.sendRequest i pa (.fill (lineOf pa)) 1 (toLE 8 (pa % 2 ^ 42 / 64 * 64) ++ [63, 2] ++ List.replicate 6 0)

/-- Ask a remote home for the bytes of an access to a UC or DEV page, at its exact size (R213), where none is on its way and the
package's own write of the line is not (09 R225). -/
def State.readRemote (s : State) (i id : Nat) (pas : List Nat) : State :=
  let lo := pas.foldl min (pas.headD 0)
  let n := pas.foldl max 0 + 1 - lo
  if ((s.die i).fab.requests.any fun r => r.waiter == .load id && r.line == lineOf lo) || s.farOut false (lineOf lo) then s
  else s.sendRequest i lo (.load id) 1 (toLE 8 (lo % 2 ^ 42) ++ [BitVec.ofNat 8 (n - 1), 2] ++ List.replicate 6 0)

/-- The mask and data bytes of one line of an MWR. -/
def maskData (ws : List (Nat × Byte)) (line : Nat) : List Byte :=
  let mine := ws.filter fun w => lineOf w.1 == line
  toLE 8 ((mine.map fun w => 2 ^ (w.1 % 64)).sum)
    ++ (List.range 64).map fun o => ((mine.find? fun w => w.1 % 64 == o).map (·.2)).getD 0

/-- Distinct values in the order first seen. -/
def distinct : List Nat → List Nat
  | [] => []
  | x :: r => x :: (distinct r).filter (· != x)

/-- Send a write to a remote home, one MWR a line (Table 8.11), after merging it into local copies (09 R224). A fill of the line that is
on its way may be older than the write and is not kept (09 R225). Lines that meet `bad` are written with POISON set (10 R265). -/
def State.sendWrites (s : State) (i : Nat) (w : Waiter) (ws : List (Nat × Byte)) (flags group : Nat) (bad : Nat → Bool := fun _ => false) : State :=
  let lines := distinct (ws.map fun x => lineOf x.1)
  let s := s.homeWrite ws
  let s := { s with dies := s.dies.map fun (y, d) => (y, d.voidFills lines.contains) }
  lines.foldl (fun s l =>
    s.sendRequest i (64 * l) w 2
      (toLE 8 (64 * l % 2 ^ 42) ++ [0, BitVec.ofNat 8 flags] ++ toLE 4 group ++ [0, 0] ++ maskData ws l) none (bad l)) s

/-! ## The L1 written back and dropped (Table 8.8, R207) -/

/-- Write back the dirty bytes of the L1 of die d that meet a test, and clear their dirty masks. -/
def State.l1WriteBack (s : State) (d : Nat) (p : Nat → Bool) : State :=
  let dirty := (s.die d).l1.filter fun (a, b) => b.dirty && p a
  let (far, near) := (dirty.map fun (a, b) => (a, b.b)).partition fun w => paClass w.1 == 4
  let s := s.homeWrite near
  let s := if far.isEmpty then s else s.sendWrites d (.store 0) far 0 0
  s.onDie d fun n => { n with l1 := n.l1.map fun (a, b) => if p a then (a, { b with dirty := false }) else (a, b) }

/-- Whether bytes written back to another package by an L1 that serves die i are not acknowledged. -/
def State.writeBackOut (s : State) (i : Nat) : Bool :=
  (s.l1Dies i).any fun y => (s.die y).fab.requests.any fun r => r.waiter == .store 0

/-- Drop the bytes of the L1 of die d that meet a test. -/
def State.l1Drop (s : State) (d : Nat) (p : Nat → L1Byte → Bool) : State :=
  s.onDie d fun n => { n with l1 := n.l1.filter fun (a, b) => !p a b }

/-- Invalidate the WT lines of the L1 of die i (09 R227, R235). -/
def State.l1DropWt (s : State) (i : Nat) : State := (s.l1Dies i).foldl (fun s d => s.l1Drop d fun _ b => !b.swm) s

/-- The L1 lets lines go that it holds for die i: dirty bytes are written back first (17 R430, 09 R225). -/
def State.l1Purge (s : State) (i : Nat) (lines : List Nat) : State :=
  lines.foldl (fun s l =>
    let d := s.l1Die i (64 * l)
    (s.l1WriteBack d fun a => lineOf a == l).l1Drop d fun a _ => lineOf a == l) s

/-- One line of an L1 goes: the spec does not say which (R206). -/
def State.l1Evict (s : State) (i d : Nat) : State :=
  let ls := linesHeld (s.die d).l1
  ({ s with free := s.free + 1 } : State).l1Purge i [ls.getD (Config.freeNat s.free % ls.length) 0]

/-- No more lines than an L1 has room for, 1 MiB (R206): one goes for each beyond 16,384. -/
def State.l1Room (s : State) (i : Nat) : State :=
  (s.l1Dies i).foldl (fun s d => ((linesHeld (s.die d).l1).drop 16384).foldl (fun s _ => s.l1Evict i d) s) s

/-- The clean bytes of lines go, so that the next load reads what their homes hold now (09 R225). -/
def State.l1Refresh (s : State) (i : Nat) (lines : List Nat) : State :=
  lines.foldl (fun s l => s.l1Drop (s.l1Die i (64 * l)) fun a b => lineOf a == l && !b.dirty) s

/-- A kernel boundary (09 R234): every L1 writes back and invalidates. -/
def State.kernelBoundary (s : State) : State :=
  (List.range 16).foldl (fun s d => (s.l1WriteBack d fun _ => true).l1Drop d fun _ _ => true) s

/-! ## Translation (R218 to R221) -/

/-- The end of a translation. -/
inductive Xlate where
  | ok (pa attr : Nat)
  | fault (c : Cause)
  /-- a class 0x4 line of the table, or of the frame, must be fetched first -/
  | wait (pa : Nat)
  deriving DecidableEq, Repr

/-- What a leaf found at a level maps, its checks made: the size, or why it is malformed (Table 8.13). -/
def State.leafSize (s : State) (level : Nat) (pte : W64) : Option Nat :=
  let size := (pte.extractLsb' 2 2).toNat
  let frame := (pte.extractLsb' 16 40).toNat * 2 ^ 16
  let bytes := match level, size with
    | 4, 0 => 2 ^ 16
    | 4, 1 => 2 ^ 21
    | 3, 2 => 2 ^ 30
    | _, _ => 0
  if bytes ≠ 0 ∧ frame % bytes = 0 ∧ s.mapped frame then some bytes else none

/-- Reserved bits of an entry are zero. -/
def pteClean (pte : W64) : Bool := pte.extractLsb' 8 8 == 0 && pte.extractLsb' 56 8 == 0

/-- Permission and physical address of an access through a leaf. `need` has bit 0 for R and bit 1 for W. -/
def useLeaf (s : State) (pte : W64) (size va need : Nat) : Xlate :=
  let frame := (pte.extractLsb' 16 40).toNat * 2 ^ 16
  let pa := frame + va % size
  if (need.testBit 0 && !pte.getLsbD 4) || (need.testBit 1 && !pte.getLsbD 5) then .fault .prot
  else if !s.mapped pa then .fault .badAddr
  else .ok pa (pte.extractLsb' 6 2).toNat

/-- The walk: levels left with the shift of each index (Table 8.12), the table read and the leaf with its size (R220). -/
def State.walk (s : State) (va : Nat) : List (Nat × Nat × Nat) → Nat → Except Xlate (W64 × Nat)
  | [], _ => .error (.fault .ptBad)
  | (level, shift, bits) :: r, table =>
    let at_ := table + 8 * (va / 2 ^ shift % 2 ^ bits)
    if !s.mapped at_ then .error (.fault .ptBad)
    else if s.absent at_ then .error (.wait at_)
    else if s.poisoned at_ then .error (.fault .poison)
    else
      let pte : W64 := BitVec.ofNat 64 (s.homeNat at_ 8)
      if !pte.getLsbD 0 then .error (.fault .page)
      else if !pteClean pte then .error (.fault .ptBad)
      else if pte.getLsbD 1 then
        match s.leafSize level pte with
        | some size => .ok (pte, size)
        | none => .error (.fault .ptBad)
      else if pte.extractLsb' 2 2 ≠ 0 ∨ level = 4 then .error (.fault .ptBad)
      else
        let next := (pte.extractLsb' 16 40).toNat * 2 ^ 16
        if s.mapped next then s.walk va r next else .error (.fault .ptBad)

/-- The five levels: number, shift, index bits (Table 8.12). -/
def vaLevels : List (Nat × Nat × Nat) := [(0, 68, 4), (1, 55, 13), (2, 42, 13), (3, 29, 13), (4, 16, 13)]

/-- Translate for a context by a walk, or through a translation that die i still holds (R221, R222): where a held one
differs from the tables, either may be used. -/
def State.translate (s : State) (i ctx va need : Nat) : Xlate :=
  match s.contexts.get? ctx with
  | none => .fault .page
  | some c =>
    let va := va % 2 ^ 72
    let walked := match s.walk va vaLevels c.root with
      | .error x => x
      | .ok (pte, size) => useLeaf s pte size va need
    match (s.die i).tlb.find? fun e => e.ctx == ctx && e.va ≤ va && va < e.va + e.size with
    | none => walked
    | some e =>
      let held := useLeaf s e.pte e.size va need
      if held = walked then walked else if Config.freeBit s.free then held else walked

/-- Hold the leaf of an address in the TLB of die i (R221), once. -/
def State.tlbFill (s : State) (i ctx va : Nat) : State :=
  match s.contexts.get? ctx with
  | none => s
  | some c =>
    match s.walk va vaLevels c.root with
    | .error _ => s
    | .ok (pte, size) =>
      let e : TlbEntry := { ctx, va := va / size * size, size, pte }
      if (s.die i).tlb.contains e then s else s.onDie i fun d => { d with tlb := d.tlb ++ [e] }

/-- The 64 KiB pages of pieces, as page numbers. -/
def pagesOf (ps : List Piece) : List Nat :=
  distinct (ps.flatMap fun p =>
    let a := p.va.toNat
    (List.range (if p.len = 0 then 0 else (p.len - 1 + a % 2 ^ 16) / 2 ^ 16 + 1)).map fun k => (a / 2 ^ 16 + k) % 2 ^ 56)

/-- The end of translating every page of an access. -/
inductive XlateAll where
  | ok (pages : List (Nat × Nat × Nat))
  | fault (c : Cause) (page : Nat)
  | wait (pa : Nat)
  deriving DecidableEq, Repr

/-- Translate pages one after another: page number, frame and attribute of each. -/
def State.translatePages (s : State) (i ctx need : Nat) : List Nat → XlateAll
  | [] => .ok []
  | p :: r =>
    match s.translate i ctx (p * 2 ^ 16) need with
    | .fault c => .fault c p
    | .wait pa => .wait pa
    | .ok pa attr =>
      match s.translatePages i ctx need r with
      | .ok ps => .ok ((p, pa, attr) :: ps)
      | x => x

/-- The bytes of pieces, as virtual addresses. -/
def vaBytes (ps : List Piece) : List Nat :=
  ps.flatMap fun p => (List.range p.len).map fun k => (p.va.toNat + k) % 2 ^ 72

/-- The physical address and attribute of a virtual byte by translated pages. -/
def byPages (pages : List (Nat × Nat × Nat)) (va : Nat) : Nat × Nat :=
  match pages.find? fun p => p.1 == va / 2 ^ 16 with
  | some (_, pa, attr) => (pa + va % 2 ^ 16, attr)
  | none => (0, 0)

/-- The first address of an access on a page. -/
def firstOn (ps : List Piece) (page : Nat) : W72 :=
  BitVec.ofNat 72 (((vaBytes ps).find? fun a => a / 2 ^ 16 == page).getD (page * 2 ^ 16))

/-- Keep the translations of an access (R221). -/
def State.tlbFillAll (s : State) (i ctx : Nat) (ps : List Piece) : State :=
  (pagesOf ps).foldl (fun s p => s.tlbFill i ctx (p * 2 ^ 16)) s

/-! ## Loads of a die -/

/-- The context on die i. -/
def State.ctxOn (s : State) (i : Nat) : Nat := ((s.die i).task.map (·.ctx)).getD 1024

/-- The byte the L1 gives an access of attribute a: of a page the L1 does not serve, only what the die has not written back. -/
def State.l1Byte (s : State) (i pa a : Nat) : Option Byte :=
  (s.l1Get i pa).bind fun x => if a ≤ 1 || x.dirty then some x.b else none

/-- Whether accesses and commands of the die issued before may still touch memory: a load then takes nothing from the L1 yet (09 R225). -/
def Die.accessOut (d : Die) : Bool :=
  !d.c.copyQ0.isEmpty || !d.c.copyQ1.isEmpty || (d.seq.stores.any fun w => !w.vbytes.isEmpty)
    || d.seq.landings.any fun l => l.data.isNone && l.fault.isNone && !l.pieces.isEmpty

/-- The place of the next access of die i in the issue order of the dies its L1 serves. -/
def State.accessId (s : State) (i : Nat) : Nat := ((s.l1Dies i).map fun y => (s.die y).seq.nextId).foldl max 0

/-- An access takes its place. -/
def State.takeId (s : State) (i : Nat) : State :=
  let n := s.accessId i
  s.onDie i fun d => d.onSeq fun q => { q with nextId := n + 1 }

/-- Bytes of an access, each with what the L1 gives where it has every byte of the access in that line: a line it has only in part
is read at its home (R206, 09 R242). -/
def State.l1Hits (s : State) (i : Nat) (bytes : List (Nat × Nat)) : List (Nat × Option Byte) :=
  let lines := distinct (bytes.map fun b => lineOf b.1)
  let whole := lines.filter fun l => bytes.all fun b => lineOf b.1 != l || (s.l1Byte i b.1 b.2).isSome
  bytes.map fun (pa, a) => (pa, if whole.contains (lineOf pa) then s.l1Byte i pa a else none)

/-- Resolve a landing's addresses, with the bytes the L1 has (09 R224); where `held` says so of those, it is left as it is. -/
def State.resolveLoad (s : State) (i : Nat) (l : Landing) (held : List Nat → Bool) : State × Landing :=
  match s.translatePages i (s.ctxOn i) 1 (pagesOf l.pieces) with
  | .wait pa => (s.fetchRemote i pa, l)
  | .fault c p =>
    (s, { l with fault := some { cause := c, landing := true, faddr := l.faddr, vaddr := firstOn l.pieces p, access := l.id } })
  | .ok pages =>
    let s := s.tlbFillAll i (s.ctxOn i) l.pieces
    let bytes := (vaBytes l.pieces).map (byPages pages)
    let attr := (bytes.map (·.2)).foldl max 0
    if l.vec && attr == 3 then
      let va := ((vaBytes l.pieces).find? fun a => (byPages pages a).2 == 3).getD 0
      (s, { l with fault := some { cause := .attr, landing := true, faddr := l.faddr, vaddr := BitVec.ofNat 72 va, access := l.id } })
    else
      let pas := s.l1Hits i bytes
      let l' := { l with pas, attr }
      if held ((pas.filter fun x => x.2.isSome).map (·.1)) then (s, l) else
      (s, if pas.all fun x => x.2.isSome then { l' with data := some (pas.filterMap (·.2)) } else l')

/-- Replace a landing. -/
def Seq.putLanding (q : Seq) (l : Landing) : Seq := { q with landings := q.landings.map fun x => if x.id = l.id then l else x }

/-- Issue a variable-latency load: it takes a landing buffer entry and its accesses go out (07 R173, 14 R354). -/
def State.issueLoad (s : State) (i : Nat) (l : Landing) : State :=
  let l := { l with id := s.accessId i }
  let s := s.takeId i
  let (s, l) := s.resolveLoad i l fun hits => !hits.isEmpty && (s.die i).accessOut
  let s := s.onDie i fun d => d.onSeq fun q => { q with landings := q.landings ++ [l] }
  if l.data.isSome || l.fault.isSome then s else s.later i (.landingDataArrival i l.id {})

/-- Whether two lists of physical bytes meet. -/
def overlaps (xs : List Nat) (ys : List Nat) : Bool := xs.any ys.contains

/-- Whether an earlier store of a die that the L1 of die i serves, to a byte of an access, is not performed: its bytes may have been
read in that L1 (09 R225, R226). Accesses to DEV pages follow the die's earlier ones (R213). -/
def State.storeInWay (s : State) (i : Nat) (id : Nat) (pas : List Nat) (attr : Nat) : Bool :=
  (s.l1Dies i).any fun y => (s.die y).seq.stores.any fun w =>
    w.id < id && ((!w.sent && (overlaps pas (w.bytes.map (·.1)) || !w.vbytes.isEmpty)) || (y == i && attr == 3 && w.attr == 3))

/-- The home of an address: its package and its slice (R209). -/
def homeOf (pa : Nat) : Nat × Nat := (if paClass pa = 4 then 1 + paLow pa / 2 ^ 42 else 0, homeSlice pa)

/-- Whether an earlier store of die i to a UC page has the home of one (R213: stores to one home are merged in issue order). -/
def State.ucInWay (s : State) (i id : Nat) (pas : List Nat) (attr : Nat) : Bool :=
  decide (2 ≤ attr) && (s.die i).seq.stores.any fun w =>
    decide (w.id < id) && !w.sent && decide (2 ≤ w.attr) && w.bytes.any fun b => pas.any fun a => homeOf a == homeOf b.1

/-- Whether a store issued before, of a die the L1 of die i serves, has not acted on the L1 yet. -/
def State.storeUnresolved (s : State) (i id : Nat) : Bool :=
  (s.l1Dies i).any fun y => (s.die y).seq.stores.any fun w => decide (w.id < id) && !w.vbytes.isEmpty

/-- Whether an earlier DEV load of die i has not been performed (08 R213). -/
def State.devLoadInWay (s : State) (i id attr : Nat) : Bool :=
  attr == 3 && (s.die i).seq.landings.any fun l => l.id < id && l.attr == 3 && l.data.isNone && l.fault.isNone

/-- A byte read now: what the L1 has not written back, else what its home holds. -/
def State.byteNow (s : State) (i pa : Nat) : Byte :=
  match s.l1Get i pa with
  | some x => if x.dirty then x.b else s.homeByte pa
  | none => s.homeByte pa

/-- Read the bytes of a load that lie on some lines and that it lacks, at one instant, and merge the lines into the L1 of WT and SWM
pages under its valid mask (Table 8.8). -/
def State.readBytes (s : State) (i attr : Nat) (pas : List (Nat × Option Byte)) (on : Nat → Bool) : State × List (Nat × Option Byte) :=
  let read := pas.map fun (pa, b) => (pa, if on (lineOf pa) then some (b.getD (s.byteNow i pa)) else b)
  let missing := (pas.filter fun x => x.2.isNone && on (lineOf x.1)).map (·.1)
  let s := missing.foldl (fun s pa => s.l1Drop (s.l1Die i pa) fun a b => a == pa && !b.dirty) s
  if attr ≤ 1 then (((distinct (missing.map lineOf)).foldl (fun s l => s.l1Fill i l attr) s).l1Room i, read) else (s, read)

/-- A load whose line was fetched from home is counted (14 Table 14.6). -/
def State.countMiss (s : State) (i attr : Nat) : State :=
  if attr ≤ 1 then s.onDie i fun d => d.onCnt fun c => { c with l1miss := bump c.l1miss } else s

/-! ## Stores of a die -/

/-- Add a pending stopping event (10 R253). -/
def State.pendTrap (s : State) (i : Nat) (t : Trap) : State :=
  s.onDie i fun d => d.onC fun c => { c with pendTraps := c.pendTraps ++ [t] }

/-- The effect of a store in the L1: WT bytes that are present, SWM bytes in any case (Table 8.8); of UC and DEV bytes no copy stays
(09 R225). -/
def State.storeL1 (s : State) (i attr : Nat) (ws : List (Nat × Byte)) : State :=
  ws.foldl (fun s (pa, b) =>
    match attr with
    | 0 => if (s.l1Get i pa).isSome then s.l1Set i pa { b } else s
    | 1 => s.l1Set i pa { b, dirty := true, swm := true }
    | _ => s.l1Drop (s.l1Die i pa) fun a _ => a == pa) s

/-- The effect in the L1 of bytes at physical addresses with their attributes. -/
def State.storeL1All (s : State) (i : Nat) (ws : List (Nat × Nat × Byte)) : State :=
  (List.range 4).foldl (fun s a => s.storeL1 i a ((ws.filter fun x => x.2.1 == a).map fun x => (x.1, x.2.2))) s

/-- Resolve a store's addresses and act on the L1 (14 R355): a fault comes back to the die at a boundary. Where `held` says so of the
bytes that go into the L1 alone, the store is left as it is. -/
def State.resolveStore (s : State) (i : Nat) (w : Store) (held : List Nat → Bool) : State × Store :=
  let ps : List Piece := w.vbytes.map fun (a, _) => { va := BitVec.ofNat 72 a, len := 1 }
  let trap (c : Cause) : Trap := { cause := c, landing := true, faddr := w.faddr, vaddr := w.va, access := w.id }
  match s.translatePages i (s.ctxOn i) 2 (pagesOf ps) with
  | .wait pa => (s.fetchRemote i pa, w)
  | .fault c _ => (s, { w with vbytes := [], fault := some (trap c) })
  | .ok pages =>
    let s := s.tlbFillAll i (s.ctxOn i) ps
    let ws := w.vbytes.map fun (a, b) => ((byPages pages a).1, (byPages pages a).2, b)
    if w.vec && ws.any fun x => x.2.1 == 3 then (s, { w with vbytes := [], fault := some (trap .attr) })
    else if s.storeUnresolved i w.id || held ((ws.filter fun x => x.2.1 == 1).map (·.1)) then (s, w)
    else
      let s := s.storeL1All i ws
      let s := if ws.any fun x => x.2.1 == 1 then s.l1Room i else s
      (s, { w with vbytes := [], bytes := (ws.filter fun x => x.2.1 != 1).map fun x => (x.1, x.2.2)
                   attr := (ws.map fun x => x.2.1).foldl max 0 })

/-- Issue a store of bytes at virtual addresses: it is performed at its home later (14 R355, 15 R395). -/
def State.issueStore (s : State) (i : Nat) (va : W72) (vbytes : List (Nat × Byte)) (vec : Bool) : State :=
  if vbytes.isEmpty then s
  else
    let w : Store := { id := s.accessId i, va, vbytes, faddr := s.issue.addr, vec }
    let s := s.takeId i
    let (s, w) := s.resolveStore i w fun swm => !swm.isEmpty
    if w.vbytes.isEmpty && w.bytes.isEmpty && w.fault.isNone then s
    else (s.onDie i fun d => d.onSeq fun q => { q with stores := q.stores ++ [w] }).later i (.writePerformed i { id := w.id })

/-- Bytes from `va` on, modulo 2^72. -/
def vaPlace (va : W72) (bs : List Byte) : List (Nat × Byte) := bs.zipIdx.map fun (b, k) => ((va.toNat + k) % 2 ^ 72, b)

/-! ## Accesses made at once: the trap record, the loader, engines -/

/-- The end of an access made at once. -/
inductive Got (α : Type) where
  | ok (x : α)
  | fault (c : Cause) (va : W72)
  | wait (s : State)

/-- Physical addresses of n bytes from a virtual address on, with the attribute of each page. -/
inductive Addrs where
  | ok (pas : List (Nat × Nat))
  | fault (c : Cause) (va : W72)
  | wait (pa : Nat)

/-- Translate bytes of an engine access of die i. -/
def State.engAddrs (s : State) (i : Nat) (va : W72) (n need : Nat) : Addrs :=
  let ps : List Piece := [{ va, len := n }]
  match s.translatePages i (s.ctxOn i) need (pagesOf ps) with
  | .wait pa => .wait pa
  | .fault c p => .fault c (firstOn ps p)
  | .ok pages => .ok ((vaBytes ps).map (byPages pages))

/-- Whether an earlier access of die i to a DEV page is to be performed: a load, a store or an atomic operation (08 R213). -/
def State.deviceInWay (s : State) (i id attr : Nat) : Bool :=
  let d := s.die i
  s.devLoadInWay i id attr || (attr == 3 && (d.c.copyQ0 ++ d.c.copyQ1).any fun k =>
    decide (k.id < id) && !k.performed && (match k.instr with | .amo _ | .cas _ => true | _ => false)
      && (match s.engAddrs i k.a0 1 0 with | .ok ((_, a) :: _) => a == 3 | .wait _ => true | _ => false))

/-- What an access made at once waits for: the die's earlier ones (09 R225, R226; 08 R213). -/
def State.nowInWay (s : State) (i : Nat) (pas : List Nat) (attr : Nat) : Bool :=
  let id := (s.die i).seq.nextId
  s.storeInWay i id pas attr || s.deviceInWay i id attr || s.ucInWay i id pas attr

/-- Ask a remote home for the bytes of a trap record on a UC or DEV page, once (R213). -/
def State.readRecordFar (s : State) (i pa n : Nat) : State :=
  if (s.die i).fab.requests.any fun r => r.waiter == .record then s
  else s.sendRequest i pa .record 1 (toLE 8 (pa % 2 ^ 42) ++ [BitVec.ofNat 8 (n - 1), 2] ++ List.replicate 6 0)

/-- Read n bytes as a load of die i does; those of a UC or DEV page of another package come in `Seq.record`. -/
def State.loadNow (s : State) (i ctx : Nat) (va : W72) (n : Nat) : Got (State × List Byte) :=
  let ps : List Piece := [{ va, len := n }]
  match s.translatePages i ctx 1 (pagesOf ps) with
  | .wait pa => .wait (s.fetchRemote i pa)
  | .fault c p => .fault c (firstOn ps p)
  | .ok pages =>
    let bytes := (vaBytes ps).map (byPages pages)
    let pas := s.l1Hits i bytes
    let attr := (bytes.map (·.2)).foldl max 0
    let need := pas.filter fun x => x.2.isNone
    let far : Bool := decide (2 ≤ attr) && need.any fun x => paClass x.1 == 4
    if s.nowInWay i (need.map (·.1)) attr then .wait s
    else if far then
      match (s.die i).seq.record with
      | none => .wait (s.readRecordFar i ((need.map (·.1)).headD 0) n)
      | some (b, bad) =>
        if bad then .fault .poison va else .ok (s.onDie i fun d => d.onSeq fun q => { q with record := none }, b)
    else if need.any fun x => s.poisoned x.1 then .fault .poison va
    else
      match need.find? fun x => s.absent x.1 with
      | some (pa, _) => .wait (s.fetchRemote i pa)
      | none =>
        let (s, read) := s.readBytes i attr pas fun _ => true
        .ok (if need.isEmpty then s else s.countMiss i attr, read.filterMap (·.2))

/-- Write bytes as a store of die i does, performed at once (10 R256). -/
def State.storeNow (s : State) (i ctx : Nat) (va : W72) (bs : List Byte) : Got State :=
  let ps : List Piece := [{ va, len := bs.length }]
  match s.translatePages i ctx 2 (pagesOf ps) with
  | .wait pa => .wait (s.fetchRemote i pa)
  | .fault c p => .fault c (firstOn ps p)
  | .ok pages =>
    let ws := (vaPlace va bs).map fun (a, b) => ((byPages pages a).1, (byPages pages a).2, b)
    let attr := (ws.map fun x => x.2.1).foldl max 0
    if s.nowInWay i (ws.map (·.1)) attr then .wait s
    else
    let s := (s.storeL1All i ws).l1Room i
    let out := (ws.filter fun x => x.2.1 != 1).map fun x => (x.1, x.2.2)
    let (far, near) := out.partition fun w => paClass w.1 == 4
    let s := s.homeWriteAt attr near
    .ok (if far.isEmpty then s else s.sendWrites i (.store 0) far 0 0)

/-- Bytes an engine of die i reads at their homes, the die's own dirty bytes of the lines written back first (17 R430); its L1 keeps no
copy older than what is read (09 R225). -/
def State.engRead (s : State) (i : Nat) (pas : List Nat) : State × List Byte :=
  let s := s.l1Purge i (distinct (pas.map lineOf))
  (s, pas.map s.homeByte)

/-- Bytes of pages of an attribute an engine of die i writes at their homes, the die's L1 copies of the lines dropped. -/
def State.engWrite (s : State) (i : Nat) (ws : List (Nat × Byte)) (attr : Nat := 0) : State :=
  (s.l1Purge i (distinct (ws.map fun w => lineOf w.1))).homeWriteAt attr ws

/-! ## Register writes that take effect later (07 R158, R168, R173) -/

/-- The bits of m from x, the others from old. -/
def blend {n : Nat} (old x m : BitVec n) : BitVec n := (old &&& ~~~m) ||| (x &&& m)

/-- A write of a register of Table 7.2 takes effect; s0, p0 and k0 discard it (07 R159). -/
def Ctxt.writeReg (c : Ctxt) (w : RegWrite) : Ctxt :=
  match w with
  | .s i x => if i = 0 then c else { c with s := c.s.put 0 i x }
  | .a i x => { c with a := c.a.put 0 i x }
  | .v i x m => { c with v := c.v.put 0 i (blend (c.v.get 0 i) x m) }
  | .p i x => if i = 0 then c else { c with p := c.p.put false i x }
  | .k i x m => if i = 0 then c else { c with k := c.k.put 0 i (blend (c.k.get 0 i) x m) }
  | .h i x => { c with h := c.h.put {} i x }
  | .e i l x run =>
    let n := c.nests.get {} i
    { c with nests := c.nests.put {} i { levels := n.levels.put {} l x, run := run.getD n.run } }
  | .sys _ _ => c

/-- The register a write names. -/
def RegWrite.reg : RegWrite → Reg
  | .s i _ => .s i
  | .a i _ => .a i
  | .v i _ _ => .v i
  | .p i _ => .p i
  | .k i _ _ => .k i
  | .h i _ => .h i
  | .e i _ _ _ => .e i
  | .sys i _ => .sys i

/-- Lane l of width w of a vector register (12 R317). -/
def laneGet (x : Vec) (w l : Nat) : Nat := x.toNat / 2 ^ (w * l) % 2 ^ w
/-- The register with lane l replaced. -/
def laneSet (x : Vec) (w l v : Nat) : Vec :=
  BitVec.ofNat 2048 (x.toNat - laneGet x w l * 2 ^ (w * l) + v % 2 ^ w * 2 ^ (w * l))

/-- The register writes of a landing's bytes. -/
def landWrites (d : LandDest) (data : List Byte) : List RegWrite :=
  match d with
  | .s i n sg =>
    let x := ofLE (data.take n)
    [.s i (if sg then (BitVec.ofNat (8 * n) x).signExtend 64 else BitVec.ofNat 64 x)]
  | .a i => [.a i (BitVec.ofNat 72 (ofLE data))]
  | .v i w lanes =>
    let width := (w + 7) / 8
    [.v i (lanes.zipIdx.foldl (fun x (l, k) => laneSet x w l (field data (k * width) width)) 0)
      (lanes.foldl (fun x l => laneSet x w l (2 ^ w - 1)) 0)]
  | .pair i => [.s i (BitVec.ofNat 64 (field data 0 8)), .s (i + 1) (BitVec.ofNat 64 (field data 8 8))]
  | .waita i p t =>
    let val : W64 := BitVec.ofNat 64 (field data 0 8)
    [.s i val, .s (i + 1) (BitVec.ofNat 64 (field data 8 8)), .p p (decide (t.toNat ≤ val.toNat))]
  | .discard => []

/-- A SYSW takes effect (14 R368 to R370): read-only fields and reserved bits keep their values. -/
def Die.sysWrite (d : Die) (x : Nat) (w : W72) : Die :=
  let v : W64 := w.extractLsb' 0 64
  let mode := if v.toNat % 8 ≤ 4 then v.extractLsb' 0 3 else d.c.rmode.extractLsb' 0 3
  let seed := v.extractLsb' 32 32
  let lfsr := if v.getLsbD 3 then (if seed = 0 then 1 else seed) else d.c.rmode.extractLsb' 32 32
  match x with
  | 0x001 => d.onC fun c => { c with scm := v &&& 0x3FFF }
  | 0x002 => d.onC fun c => { c with lxor := v &&& 0x3FFF }
  | 0x003 => d.onC fun c => { c with lperm := v &&& 0xFFFFFFFFFFFFFF }
  | 0x011 => d.onC fun c => { c with tvec := v &&& 0x1FFFFFFFF }
  | 0x012 => d.onC fun c => { c with trecbase := w &&& ~~~0xFF }
  | 0x016 => d.onC fun c => { c with xwait := v &&& 0xFFFFF }
  | 0x020 => d.onC fun c => { c with rmode := lfsr ++ (0 : BitVec 29) ++ mode }
  | 0x021 => d.onC fun c => { c with vstat := v &&& vstatMask }
  | 0x022 => d.onC fun c => { c with chksb := v &&& 7 }
  | 0x023 => d.onC fun c => { c with wheel := v &&& 0x1FFFFFF }
  | 0x028 => { d with half := v.getLsbD 34, c := { d.c with lim := max 4096 (min (v.toNat % 2 ^ 17) d.cap) } }
  | 0x029 => { d with peak := if v.getLsbD 40 then 0 else d.peak }
  | _ => d

/-- A register write of die d takes effect. -/
def Die.applyWrite (d : Die) (w : RegWrite) : Die :=
  match w with
  | .sys x v => d.sysWrite x v
  | w => d.onC fun c => c.writeReg w

/-- Put a write behind those issued no later (07 R169). -/
def insertWrite (x : Nat × RegWrite) : List (Nat × RegWrite) → List (Nat × RegWrite)
  | [] => [x]
  | y :: r => if y.1 ≤ x.1 then y :: insertWrite x r else x :: y :: r

/-- Register writes due by a test of their cycle, in the order their bundles issued. -/
def Seq.dueWrites (q : Seq) (p : Nat → Bool) : List (Nat × RegWrite) :=
  let fixed := (q.pend.filter fun w => p w.due).map fun w => (w.at_, w.write)
  let landed := (q.landings.filter fun l => p l.due).flatMap fun l => (landWrites l.dest (l.data.getD [])).map fun w => (l.at_, w)
  (fixed ++ landed).foldl (fun ws x => insertWrite x ws) []

/-- Fixed-latency writes and landings that have their data take effect, those due by a test of their cycle (07 R169, R173).
Landings without data stay. -/
def Die.applyDue (d : Die) (p : Nat → Bool) : Die :=
  let ready (l : Landing) : Bool := p l.due && l.data.isSome
  let done := (d.seq.landings.filter ready).length
  let q := { d.seq with landings := d.seq.landings.filter ready }
  let d := (q.dueWrites p).foldl (fun d w => d.applyWrite w.2) d
  { d with
    seq := { d.seq with pend := d.seq.pend.filter fun w => !p w.due
                        landings := d.seq.landings.filter fun l => !ready l }
    cnt := { d.cnt with landn := d.cnt.landn + BitVec.ofNat 64 done } }

/-! ## Stopping events (10) -/

/-- Table 10.1's codes. -/
def Cause.code : Cause → Nat
  | .illegal => 0x01 | .holdShort => 0x02 | .fetchBound => 0x03 | .coldFault => 0x04 | .noShape => 0x05
  | .shapeRegrant => 0x06 | .notPinned => 0x07 | .subcube => 0x08 | .noWheel => 0x09 | .badTret => 0x0A
  | .badBind => 0x0B | .soft => 0x0C | .tileEmpty => 0x0D | .page => 0x10 | .ptBad => 0x11 | .prot => 0x12
  | .attr => 0x13 | .badAddr => 0x14 | .stale => 0x15 | .poison => 0x16 | .tileLimit => 0x17 | .tileSpan => 0x18
  | .noreach => 0x19 | .xwait => 0x1A | .depth => 0x1C | .recFault => 0x1D

/-- TSTATUS as it reads (Table 10.4): H, and the predicates with p0 true. -/
def Ctxt.tstatus (c : Ctxt) : W64 :=
  packBits ([(0, 1, b2n c.inHandler), (16, 1, 1)] ++ (List.range 15).map fun k => (17 + k, 1, b2n (c.p.get false (k + 1))))

/-- The trap record (Table 10.2). -/
def trapRecord (c : Ctxt) (t : Trap) (cause : Cause) (resume : Nat) (more : Bool) : List Byte :=
  [BitVec.ofNat 8 cause.code, BitVec.ofNat 8 t.engine, BitVec.ofNat 8 (b2n t.landing + 2 * b2n more), 0]
    ++ toLE 4 (if t.engine = 0 then c.cmdix.toNat else t.cmdix.toNat) ++ toLE 4 c.cmdix.toNat ++ toLE 4 0
    ++ toLE 8 (resume % 2 ^ 56) ++ toLE 8 (t.faddr % 2 ^ 56) ++ toLE 9 t.vaddr.toNat ++ toLE 7 0 ++ toLE 8 t.estat.toNat ++ toLE 8 c.tstatus.toNat

/-- The context on die i fails with a cause (06 R152): the task ends, and the scheduler is told. -/
def State.failContext (s : State) (i : Nat) (c : Cause) (engine : Nat := 0) : State :=
  (s.onDie i fun d => d.onSeq fun q => { q with run := .ended, endCause := some (.failed c engine), held := none, taking := none }).later i .taskEnd

/-- Whether every register write of an issued bundle has taken effect, landings among them (07 R175). -/
def Die.drained (d : Die) : Bool := d.seq.pend.isEmpty && d.seq.landings.isEmpty

/-- A running context's handler is entered, or the context fails (10 R256). The die is drained. -/
def State.enterTrap (s : State) (i : Nat) (t : Trap) : State :=
  let d := s.die i
  let c := d.c
  let en := c.tvec.getLsbD 32
  let fatal : Bool := t.cause == .depth || t.cause == .recFault || !en || c.tdepth == 4
  let cause := if c.tdepth = 4 then .depth else t.cause
  let more := c.pendTraps.any fun x => x.engine != 0
  let record := trapRecord c t cause d.seq.pc more
  let va : W72 := c.trecbase + BitVec.ofNat 72 (64 * c.tdepth)
  let count (s : State) : State := s.onDie i fun d => d.onCnt fun k =>
    { k with hshort := if t.cause = .holdShort then bump k.hshort else k.hshort
             stalef := if t.cause = .stale ∧ t.engine = 0 then bump k.stalef else k.stalef }
  let waits (s : State) : State := s.onDie i fun d => d.onSeq fun q => { q with taking := some t }
  if fatal then
    if c.trecbase ≠ 0 ∧ c.tdepth < 4 then
      match s.storeNow i (s.ctxOn i) va record with
      | .wait s => waits s
      | .fault _ _ => (count s).failContext i cause t.engine
      | .ok s => (count s).failContext i cause t.engine
    else (count s).failContext i cause t.engine
  else
    match s.storeNow i (s.ctxOn i) va record with
    | .wait s => waits s
    | .fault _ _ => (count s).failContext i .recFault
    | .ok s =>
      (count s).onDie i fun d =>
        { d with
          c := { d.c with tdepth := c.tdepth + 1, inHandler := true, lastix := c.cmdix :: c.lastix }
          seq := { d.seq with pc := c.ctxbase.toNat + (c.tvec.extractLsb' 0 32).toNat, held := none, taking := none, noFall := false
                              decideAt := d.seq.cycle + 16, schedAt := d.seq.schedAt + 16 } }

/-- WAITAs of die i that wait land with INTR when it begins a drain (17 R450). -/
def State.interruptWaits (s : State) (i : Nat) : State :=
  let end_ (q : List Cmd) : List Cmd := q.map fun c => if c.armed then { c with late := true } else c
  s.onDie i fun d => d.onC fun c => { c with copyQ0 := end_ c.copyQ0, copyQ1 := end_ c.copyQ1 }

/-- A stopping event is taken at a boundary: the trap is entered once the die has drained. -/
def State.beginTrap (s : State) (i : Nat) (t : Trap) : State :=
  let s := s.interruptWaits i
  if (s.die i).drained then s.enterTrap i t
  else s.onDie i fun d => d.onSeq fun q => { q with taking := some t, held := none }

/-! ## Return from a trap (10 R257) -/

/-- What TRET restores from a record, or why it is misused. -/
def tretWord (t : W64) : Option (Bool × FMap Bool) :=
  if t.extractLsb' 1 15 ≠ 0 ∨ t.extractLsb' 32 32 ≠ 0 ∨ !t.getLsbD 16 then none
  else some (t.getLsbD 0, (List.range 15).foldl (fun m k => m.put false (k + 1) (t.getLsbD (17 + k))) [])

/-- The successful return: predicates, H, depth, and the next decision 12 cycles on; a suspended loop goes on or ends
(14 R363). -/
def Die.tret (d : Die) (h : Bool) (preds : FMap Bool) (baddr : Nat) : Die :=
  let keep : Bool := match d.c.loop with | some l => decide (l.first ≤ baddr ∧ baddr ≤ l.last) | none => false
  { d with
    c := { d.c with p := preds, inHandler := h, tdepth := d.c.tdepth - 1, lastix := d.c.lastix.drop 1
                    loop := if keep then d.c.loop else none }
    seq := { d.seq with target := some (baddr, 12) } }

end Sys2Proof.Machine
end

