-- ==== Sys2Proof/Machine/Gallery.lean ====
section
/-! DEFINITION. The gallery and its tiles (08 R194 to R205): lifetime tags, reads and writes of rows, tile geometry and tile
elements, status lines (11 R304), panels and accumulators (16 R400). -/

namespace Sys2Proof.Machine

/-! ## Lifetime (R200, R201) -/

/-- Ret(c) in microseconds (Table 8.5). -/
def retention (c : Nat) : Nat :=
  match c with
  | 0 => 1600
  | 1 => 800
  | 2 => 400
  | 3 => 200
  | _ => 0

/-- Microseconds since a row was written, by its 32-bit write time. -/
def rowAge (t : Nat) (tag : Tag) : Nat := (BitVec.ofNat 32 t - tag.wtime).toNat

/-- Worst class of a row at time t. -/
def Die.worst (d : Die) (t row : Nat) : Nat :=
  let tag := d.tags.get {} row
  [1, 2, 3, 4].foldl (fun w c =>
    match d.bankLast.get? (8 * (row / 2 ^ 14) + c) with
    | some last => if t - last ≤ rowAge t tag then max w c else w
    | none => w) tag.cls.toNat

/-- Rows of a preload kept for another task are reserved to it (06 R150). -/
def Die.reserved (d : Die) (row : Nat) : Bool :=
  match d.preload with
  | some p => p.hasData && p.bank * 2 ^ 14 ≤ row && row < p.bank * 2 ^ 14 + p.rows
  | none => false

/-- `Expired(row, t)` (12 R317). -/
def Die.expired (d : Die) (t row : Nat) : Bool :=
  (d.tags.get {} row).exp || retention (d.worst t row) ≤ rowAge t (d.tags.get {} row)

/-- What a read of a row by the running task meets (R203, R205, 06 R150). -/
def Die.rowFault (d : Die) (t row : Nat) : Option Cause :=
  if d.expired t row || d.reserved row then some .stale
  else if (d.tags.get {} row).poison then some .poison
  else none

/-- The rows of gallery bytes. -/
def rowsOf (addrs : List Nat) : List Nat := distinct (addrs.map fun a => a / 256)

/-- The first row of some that cannot be read, and why. -/
def Die.firstFault (d : Die) (t : Nat) (rows : List Nat) : Option (Nat × Cause) :=
  rows.findSome? fun r => (d.rowFault t r).map fun c => (r, c)

/-- An engine port moves rows (07 R176). -/
def Die.moves (d : Die) (rows : List Nat) : Die :=
  { d with port := rows.foldl (fun m r => m.put 0 (r / 2 ^ 14) (m.get 0 (r / 2 ^ 14) + 1)) d.port }

/-- A byte of the gallery. -/
def Die.gbyte (d : Die) (a : Nat) : Byte := d.gallery.get 0 a
/-- n bytes of the gallery as a number. -/
def Die.gnat (d : Die) (a n : Nat) : Nat := ofLE ((List.range n).map fun k => d.gbyte (a + k))

/-- A fresh tag (R202). -/
def Die.freshTag (d : Die) (t row : Nat) : Tag :=
  { wtime := BitVec.ofNat 32 t, cls := BitVec.ofNat 3 (d.bankCls.get 0 (row / 2 ^ 14)), exp := false, poison := false }

/-- Change the tags that are listed. -/
def Die.mapTags (d : Die) (f : Nat → Tag → Tag) : Die :=
  { d with tags := (d.tags.filter fun x => f x.1 x.2 != x.2).foldl (fun m x => m.put {} x.1 (f x.1 (d.tags.get {} x.1))) d.tags }

/-- Expire rows from lo on (R198): EXP is set, the rest of a tag stays. -/
def Die.expireRows (d : Die) (lo n : Nat) : Die := d.mapTags fun r t => if lo ≤ r ∧ r < lo + n then { t with exp := true } else t

/-- Forget the bytes of a discarded preload: they expire (06 R149). -/
def Die.dropPreload (d : Die) : Die :=
  match d.preload with
  | none => d
  | some p => { if p.hasData then d.expireRows (p.bank * 2 ^ 14) p.rows else d with preload := none }

/-- The same, of the preload the loader makes. -/
def Die.dropLoad (d : Die) : Die :=
  match d.load with
  | none => d
  | some p => { d.expireRows (p.bank * 2 ^ 14) p.rows with load := none }

/-- Write one row's bytes (R202, R205). -/
def Die.writeRow (d : Die) (t : Nat) (ws : List (Nat × Byte)) (row : Nat) : Die :=
  let mine := ws.filter fun w => w.1 / 256 == row
  let whole : Bool := decide (256 ≤ (distinct (mine.map (·.1))).length)
  let d := if d.reserved row then d.dropPreload else d
  let stale := d.expired t row
  let g := if stale then d.gallery.keep fun a => a / 256 != row else d.gallery
  { d with gallery := mine.foldl (fun g w => g.put 0 w.1 w.2) g
           tags := if whole || stale then d.tags.put {} row (d.freshTag t row) else d.tags }

/-- Write bytes of the gallery. -/
def Die.gwrite (d : Die) (t : Nat) (ws : List (Nat × Byte)) : Die :=
  (rowsOf (ws.map (·.1))).foldl (fun d r => d.writeRow t ws r) d

/-- A bank sweeps its rows (R201): EXP is set on every one that has expired. -/
def Die.sweep (d : Die) (t bank : Nat) : Die :=
  { d.mapTags fun r x => if r / 2 ^ 14 = bank ∧ d.expired t r then { x with exp := true } else x with sweepAt := d.sweepAt.set bank t }

/-- Renew a row (R202): its tag becomes fresh. -/
def Die.renewRow (d : Die) (t row : Nat) : Die :=
  { d with tags := d.tags.put {} row { d.freshTag t row with poison := (d.tags.get {} row).poison } }


/-- Poison the rows of bytes just written (R216). -/
def Die.poisonRows (d : Die) (rows : List Nat) : Die :=
  { d with tags := rows.foldl (fun m r => m.put {} r { m.get {} r with poison := true }) d.tags }

/-! ## Tiles (R196, R197) -/

/-- Whether a type is a block type. -/
def isBlock (t : BitVec 4) : Bool := t == 12 || t == 13

/-- The pitch of a row of `cols` elements of `w` bits. -/
def pitchOf (cols w : Nat) : Nat := 64 * ((cols * w + 511) / 512)

def Tile.w (e : Tile) : Nat := typeWidth e.type
def Tile.pitch (e : Tile) : Nat := pitchOf e.cols.toNat e.w
/-- First gallery byte. -/
def Tile.at_ (e : Tile) : Nat := 256 * e.base.toNat
/-- Bytes of the data rows. -/
def Tile.rowBytes (e : Tile) : Nat := e.rows.toNat * e.pitch
/-- Entries of the scale area. -/
def Tile.scales (e : Tile) : Nat := if isBlock e.type then e.rows.toNat * (e.cols.toNat / 32) else 0
/-- Bytes of the scale area. -/
def Tile.scaleBytes (e : Tile) : Nat := 64 * ((2 * e.scales + 63) / 64)
/-- Gallery rows of the footprint. -/
def Tile.footRows (e : Tile) : Nat := (e.rowBytes + e.scaleBytes + 255) / 256
/-- The rows of the footprint. -/
def Tile.footprint (e : Tile) : List Nat := (List.range e.footRows).map fun k => e.base.toNat + k
/-- The gallery address of the status line, if the bank has room for it (11 R304). -/
def Tile.status? (e : Tile) : Option Nat :=
  if (e.base.toNat % 2 ^ 14) + e.footRows < 2 ^ 14 then some (256 * (e.base.toNat + e.footRows)) else none
/-- Whether the footprint passes the end of the bank. -/
def Tile.overruns (e : Tile) : Bool := 2 ^ 14 < e.base.toNat % 2 ^ 14 + e.footRows

/-- Gallery address of the byte that holds element (r, c). -/
def Tile.elemAt (e : Tile) (r c : Nat) : Nat := e.at_ + r * e.pitch + c * e.w / 8
/-- Gallery address of the scale of block k of row r. -/
def Tile.scaleAt (e : Tile) (r k : Nat) : Nat := e.at_ + e.rowBytes + 2 * (r * (e.cols.toNat / 32) + k)

/-- The bits of element (r, c). -/
def Die.elem (d : Die) (e : Tile) (r c : Nat) : Nat :=
  if e.w = 4 then (d.gbyte (e.elemAt r c)).toNat / (if c % 2 = 0 then 1 else 16) % 16 else d.gnat (e.elemAt r c) (e.w / 8)
/-- The scale of block k of row r. -/
def Die.scale (d : Die) (e : Tile) (r k : Nat) : Nat := d.gnat (e.scaleAt r k) 2

/-- Byte writes of elements of one tile row: (column, bits); of 4-bit elements the partner keeps its nibble. -/
def Die.elemWrites (d : Die) (e : Tile) (r : Nat) (vs : List (Nat × Nat)) : List (Nat × Byte) :=
  if e.w = 4 then
    let pairs := distinct (vs.map fun v => v.1 / 2)
    pairs.map fun p =>
      let old := (d.gbyte (e.elemAt r (2 * p))).toNat
      let nib (k : Nat) (o : Nat) : Nat := match vs.find? fun v => v.1 == 2 * p + k with | some v => v.2 % 16 | none => o
      (e.elemAt r (2 * p), BitVec.ofNat 8 (nib 0 (old % 16) + 16 * nib 1 (old / 16)))
  else vs.flatMap fun v => placeAt (e.elemAt r v.1) (toLE (e.w / 8) v.2)

/-- Entry of the tile table. -/
def Ctxt.tile (c : Ctxt) (t : Nat) : Tile := c.tiles.get {} t
/-- Replace an entry. -/
def Ctxt.setTile (c : Ctxt) (t : Nat) (e : Tile) : Ctxt := { c with tiles := c.tiles.put {} t e }
/-- Move a tile to a state. -/
def Ctxt.tileTo (c : Ctxt) (t : Nat) (st : TileState) : Ctxt := c.setTile t { c.tile t with state := st }

/-- Oldest write time, worst class and EXPD of a tile's rows (R202); an entry without rows is as after reset (Table 8.3). -/
def Die.tileTag (d : Die) (t : Nat) (e : Tile) : Nat × Nat × Bool :=
  let rows := e.footprint
  if rows.isEmpty then (0, 0, true)
  else
    let ages := rows.map fun r => rowAge t (d.tags.get {} r)
    let oldest := (BitVec.ofNat 32 t - BitVec.ofNat 32 (ages.foldl max 0)).toNat
    (oldest, (rows.map fun r => d.worst t r).foldl max 0, rows.any fun r => d.expired t r)

def TileState.code : TileState → Nat
  | .empty => 0
  | .filling => 1
  | .ready => 2
  | .draining => 3

/-- The 16 bytes of an entry (Table 8.3). -/
def Die.tileImage (d : Die) (t : Nat) (e : Tile) : List Byte :=
  let (wt, wc, ex) := d.tileTag t e
  toLE 16 (e.base.toNat + e.rows.toNat * 2 ^ 18 + e.cols.toNat * 2 ^ 34 + e.type.toNat * 2 ^ 50 + e.cb.toNat * 2 ^ 54
    + e.state.code * 2 ^ 58 + wt * 2 ^ 64 + wc * 2 ^ 96 + b2n ex * 2 ^ 99)

/-- The status word of a tile as an instruction reads it (14 R365): 0 with no status line or an expired row. -/
def Die.statusWord (d : Die) (t : Nat) (e : Tile) : W64 :=
  match e.status? with
  | none => 0
  | some a => if d.expired t (a / 256) then 0 else BitVec.ofNat 64 (d.gnat a 8)

/-- Merge flags and counts into a tile's status line (11 R304): the die, or that the row is poisoned. -/
def Die.mergeTile (d : Die) (t : Nat) (e : Tile) (ks : List Marks) : Option Die :=
  match e.status? with
  | none => some d
  | some a =>
    if !d.expired t (a / 256) && (d.tags.get {} (a / 256)).poison then none
    else some (d.gwrite t (placeAt a (toLE 8 (ks.foldl mergeStatus (d.statusWord t e)).toNat)))

/-- Replace a tile's status word. -/
def Die.setStatus (d : Die) (t : Nat) (e : Tile) (w : W64) : Die :=
  match e.status? with
  | none => d
  | some a => d.gwrite t (placeAt a (toLE 8 w.toNat))

/-! ## Active extents (07 R187) -/

def Shape.valid (h : Shape) : Bool := h.req.getLsbD 60
def Shape.type (h : Shape) : BitVec 4 := h.req.extractLsb' 56 4
def Shape.rqRows (h : Shape) : Nat := (h.req.extractLsb' 0 16).toNat
def Shape.rqCols (h : Shape) : Nat := (h.req.extractLsb' 16 16).toNat
def Shape.rqDepth (h : Shape) : Nat := (h.req.extractLsb' 32 24).toNat
/-- Granted(h, ROWS) and so on. -/
def Shape.rows (h : Shape) : Nat := min h.rqRows (h.grant.extractLsb' 0 8).toNat
def Shape.cols (h : Shape) : Nat := min h.rqCols (h.grant.extractLsb' 8 8).toNat
def Shape.depth (h : Shape) : Nat := min h.rqDepth (h.grant.extractLsb' 16 15).toNat
def Shape.lanes (h : Shape) : Nat := min h.rqCols (h.grant.extractLsb' 32 10).toNat

/-- The tail field of a dimension (R186). -/
def tailOf (rq g : Nat) : Nat :=
  let act := min rq g
  if act = 0 || act = g then 0 else (act - 1) % 8 + 1

/-- The grant of a request under a die's limits (R186). -/
def grantOf (req : W64) (rowLim colLim : Nat) : W64 :=
  let h : Shape := { req }
  let up (x : Nat) := 8 * ((x + 7) / 8)
  let lanesMax := 2048 / typeWidth h.type
  let g := min (up h.rqRows) rowLim
  let gc := min (up h.rqCols) colLim
  let gd := min (up h.rqDepth) 16384
  let gl := min (up h.rqCols) lanesMax
  let capped : Bool := decide (rowLim < h.rqRows ∨ colLim < h.rqCols ∨ 16384 < h.rqDepth ∨ lanesMax < h.rqCols)
  packBits [(0, 8, g), (8, 8, gc), (16, 15, gd), (32, 10, gl), (42, 3, tailOf h.rqRows g), (45, 3, tailOf h.rqCols gc),
    (48, 3, tailOf h.rqDepth gd), (51, 3, tailOf h.rqCols gl), (54, 1, b2n capped)]

/-- COLLIM of a die (Table 7.8). -/
def Die.colLim (d : Die) : Nat := if d.halfOn then 64 else 128

end Sys2Proof.Machine
end

