-- ==== Sys2Proof/Machine/Operands.lean ====
section
/-! DEFINITION. Operands of slot operations (12 R313, R314; 14 R342; 15 R377): reading registers and literals, writing
results at their latency (07 R168), and what each operation uses: the registers it reads and writes, its literal words,
tiles, engine and weight (07 Table 7.5; 13 Tables 13.1 to 13.5). -/

namespace Sys2Proof.Machine

/-! ## Sources -/

/-- The context of the operation now issuing. -/
def State.ctx (s : State) : Ctxt := s.cur.c
/-- Word k of the literal pool. -/
def State.lit (s : State) (k : Nat) : BitVec 32 := s.issue.lits.getD k 0
/-- Words k and k + 1, low word first. -/
def State.lit64 (s : State) (k : Nat) : W64 := s.lit (k + 1) ++ s.lit k
/-- The 72-bit literal of words 0 to 2. -/
def State.lit72 (s : State) : W72 := (s.lit 2).extractLsb' 0 8 ++ s.lit 1 ++ s.lit 0

/-- Register sn. -/
def Ctxt.sreg (c : Ctxt) (n : Nat) : W64 := if n = 0 then 0 else c.s.get 0 n
/-- Register an. -/
def Ctxt.areg (c : Ctxt) (n : Nat) : W72 := c.a.get 0 n
/-- Register pn. -/
def Ctxt.preg (c : Ctxt) (n : Nat) : Bool := n == 0 || c.p.get false n
/-- Register hn. -/
def Ctxt.hreg (c : Ctxt) (n : Nat) : Shape := c.h.get {} n

/-- An s source: field 63 is literal word `lit`, sign-extended (R314). -/
def State.srcS (s : State) (f : BitVec 6) (lit : BitVec 2 := 0) : W64 :=
  if f = 63 then (s.lit lit.toNat).signExtend 64 else s.ctx.sreg f.toNat
/-- An a source: 31 is the 72-bit literal. -/
def State.srcA (s : State) (f : Nat) : W72 := if f = 31 then s.lit72 else s.ctx.areg f
/-- A value in every lane of w bits. -/
def broadcast (w x : Nat) : Vec := BitVec.ofNat 2048 (x % 2 ^ w * ((2 ^ 2048 - 1) / (2 ^ w - 1)))
/-- A v source read at element width w: 31 is a literal in every lane. -/
def State.srcV (s : State) (f : BitVec 5) (lit : BitVec 2) (w : Nat) : Vec :=
  if f = 31 then broadcast w (if w = 64 then (s.lit64 lit.toNat).toNat else (s.lit lit.toNat).toNat) else s.ctx.v.get 0 f.toNat

/-! ## Lanes (15 R377, R378) -/

/-- The active lanes of a shape at width w. -/
def activeLanes (h : Shape) (w : Nat) : Nat := min (2048 / w) h.lanes
/-- Whether lane l is enabled among n active ones by mask register m. -/
def Ctxt.enabled (c : Ctxt) (n m l : Nat) : Bool := l < n && (m == 0 || (c.k.get 0 m).getLsbD l)

/-- Bits of the lanes listed. -/
def laneMask (w : Nat) (ls : List Nat) : Vec := BitVec.ofNat 2048 ((ls.map fun l => (2 ^ w - 1) * 2 ^ (w * l)).sum)
/-- Lane values at their places. -/
def laneBits (w : Nat) (vs : List (Nat × Nat)) : Vec := BitVec.ofNat 2048 ((vs.map fun v => v.2 % 2 ^ w * 2 ^ (w * v.1)).sum)

/-! ## Results -/

/-- A result takes effect `lat` die cycles on (07 R158, R168). -/
def State.result (s : State) (lat : Nat) (w : RegWrite) : State :=
  s.onCur fun d => d.onSeq fun q => { q with pend := q.pend ++ [{ at_ := q.cycle, due := q.cycle + lat, write := w }] }

/-- An s result. -/
def State.toS (s : State) (d : BitVec 6) (lat : Nat) (x : W64) : State := s.result lat (.s d.toNat x)
/-- An a result. -/
def State.toA (s : State) (d : BitVec 6) (x : W72) : State := s.result 1 (.a d.toNat x)
/-- A p result. -/
def State.toP (s : State) (d : Nat) (x : Bool) : State := s.result 1 (.p d x)

/-- Flags into VSTAT (11 R306). -/
def State.flag (s : State) (f : Flags) : State :=
  s.onCur fun d => d.onC fun c => { c with vstat := c.vstat ||| (f.setWidth 64 &&& vstatMask) }

/-- A precise trap of the bundle issuing (10 R249). -/
def State.precise (s : State) (c : Cause) (va : W72 := 0) : Trap := { cause := c, faddr := s.issue.addr, vaddr := va }

/-! ## What an operation uses -/

/-- A reference to the literal pool (R314). -/
inductive LitUse where
  | word (i : Nat)
  | pair (i : Nat)
  | wide
  /-- a v field with no literal index whose width the shape gives: word 0, or words 0 and 1 -/
  | vec
  deriving DecidableEq, Repr

/-- The engine a command goes to. -/
inductive Eng where
  | none | matrix
  /-- TALLOC, TFREE, TSTAT: act at issue, behind the matrix engine (16 R404) -/
  | table
  | copy | exchange
  deriving DecidableEq, Repr

/-- What an operation uses. -/
structure Use where
  reads : List Reg := []
  /-- destinations with their latency -/
  writes : List (Reg × Nat) := []
  /-- destinations of a landing, and its count -/
  lands : List Reg := []
  land : Nat := 0
  lits : List LitUse := []
  tiles : List Nat := []
  engine : Eng := .none
  /-- a follow-on takes a place of the matrix engine -/
  follow : Bool := false
  /-- a memory access in the sense of 14 R375 -/
  mem : Bool := false
  weight : Nat := 0
  deriving DecidableEq, Repr

def sReg (f : BitVec 6) : List Reg := if f = 63 then [] else [.s f.toNat]
def aReg (f : Nat) : List Reg := if f = 31 then [] else [.a f]
def vReg (f : BitVec 5) : List Reg := if f = 31 then [] else [.v f.toNat]
def kReg (f : Nat) : List Reg := if f = 0 then [] else [.k f]
def sLit (fs : List (BitVec 6)) (lit : BitVec 2) : List LitUse := if fs.contains 63 then [.word lit.toNat] else []
def aLit (f : Nat) : List LitUse := if f = 31 then [.wide] else []
def vLit (fs : List (BitVec 5)) (w : Nat) (lit : BitVec 2) : List LitUse :=
  if fs.contains 31 then [if w = 64 then .pair lit.toNat else .word lit.toNat] else []
def slLit (f : SL) : List LitUse :=
  match f.width.toNat with
  | 2 => [.pair f.word.toNat]
  | 3 => [.wide]
  | _ => [.word f.word.toNat]

def useSR (f : SR) (lat : Nat) : Use :=
  { reads := sReg f.a ++ sReg f.b, writes := [(.s f.d.toNat, lat)], lits := sLit [f.a, f.b] f.lit, weight := 2 }
def useSI (f : SI) : Use := { reads := sReg f.a, writes := [(.s f.d.toNat, 1)], lits := sLit [f.a] 0, weight := 2 }
def useLoad (f : SM) : Use :=
  { reads := aReg f.addr.toNat, land := 4 * f.land.toNat, lits := aLit f.addr.toNat, mem := true, weight := 4 }
def useStore (f : SM) (data : List Reg) (lits : List LitUse) : Use :=
  { reads := aReg f.addr.toNat ++ data, lits := aLit f.addr.toNat ++ lits, mem := true, weight := 4 }
def useVR (f : VR) (srcs : List (BitVec 5)) (w lat weight : Nat) : Use :=
  { reads := srcs.flatMap vReg ++ kReg f.mask.toNat ++ [.h f.shape.toNat], writes := [(.v f.vd.toNat, lat)],
    lits := vLit srcs w f.lit, weight }
def useVM (f : VM) : Use :=
  { reads := aReg f.addr.toNat ++ kReg f.mask.toNat ++ [.h f.shape.toNat], lits := aLit f.addr.toNat, weight := 20 }
def useM0 (tiles : List Nat) : Use := { tiles, engine := .matrix, weight := 10 }
def useM (tiles : List Nat) (h : BitVec 3) : Use := { useM0 tiles with reads := [.h h.toNat] }
def useCX (f : CX) (as : List (BitVec 5)) (tiles : List Nat) : Use :=
  { reads := as.flatMap (fun a => aReg a.toNat) ++ (if f.cnt.getLsbD 6 then sReg (f.cnt.extractLsb' 0 6) else []),
    lits := as.flatMap (fun a => aLit a.toNat) ++ (if f.cnt.getLsbD 6 then sLit [f.cnt.extractLsb' 0 6] 0 else []),
    tiles, engine := .copy, mem := true, weight := 10 }
def useCA (f : CA) (data : List Reg) (fs : List (BitVec 6)) (dest : List Reg) : Use :=
  { reads := aReg f.addr.toNat ++ data, lits := aLit f.addr.toNat ++ sLit fs 0, lands := dest,
    land := 4 * f.land.toNat, engine := .copy, mem := true, weight := 10 }

/-- Registers a gather or scatter reads its addresses from; vc only where a lane can reach 64 (15 R399). -/
def indexRegs (f : VR) : List (BitVec 5) := if typeWidth f.type < 32 then [f.va, f.vb, f.vc] else [f.va, f.vb]

/-- What a slot operation uses; an event uses nothing. -/
def useOf : Instr → Use
  | .nop => {}
  | .add f => useSR f 1
  | .sub f => useSR f 1
  | .and f => useSR f 1
  | .or f => useSR f 1
  | .xor f => useSR f 1
  | .shl f => useSR f 1
  | .shr f => useSR f 1
  | .sar f => useSR f 1
  | .min f => useSR f 1
  | .max f => useSR f 1
  | .minb f => useSR f 1
  | .maxb f => useSR f 1
  | .mul f => useSR f 3
  | .mulhs f => useSR f 3
  | .mulhb f => useSR f 3
  | .divs f => useSR f 20
  | .divb f => useSR f 20
  | .rems f => useSR f 20
  | .remb f => useSR f 20
  | .addi f => useSI f
  | .andi f => useSI f
  | .ori f => useSI f
  | .xori f => useSI f
  | .shli f => useSI f
  | .shri f => useSI f
  | .sari f => useSI f
  | .bfx f => useSI f
  | .bfi f => { useSI f with reads := sReg f.a ++ sReg f.d }
  | .clz f => { reads := sReg f.a, writes := [(.s f.d.toNat, 1)], lits := sLit [f.a] f.lit, weight := 2 }
  | .popc f => { reads := sReg f.a, writes := [(.s f.d.toNat, 1)], lits := sLit [f.a] f.lit, weight := 2 }
  | .brev f => { reads := sReg f.a, writes := [(.s f.d.toNat, 1)], lits := sLit [f.a] f.lit, weight := 2 }
  | .exts f => { reads := sReg f.a, writes := [(.s f.d.toNat, 1)], lits := sLit [f.a] f.lit, weight := 2 }
  | .mov f => { reads := sReg f.a, writes := [(.s f.d.toNat, 1)], lits := sLit [f.a] f.lit, weight := 2 }
  | .sel f => { useSR f 1 with reads := sReg f.a ++ sReg f.b ++ [.p f.fn.toNat] }
  | .cmp f => { useSR f 1 with writes := [(.p f.d.toNat, 1)] }
  | .cmpi f => { useSI f with writes := [(.p f.d.toNat, 1)] }
  | .movl f => { writes := [(.s f.d.toNat, 1)], lits := slLit f, weight := 2 }
  | .alit f => { writes := [(.a f.d.toNat, 1)], lits := slLit f, weight := 2 }
  | .pand f => { reads := [.p f.pa.toNat, .p f.pb.toNat], writes := [(.p f.pd.toNat, 1)], weight := 2 }
  | .por f => { reads := [.p f.pa.toNat, .p f.pb.toNat], writes := [(.p f.pd.toNat, 1)], weight := 2 }
  | .pxor f => { reads := [.p f.pa.toNat, .p f.pb.toNat], writes := [(.p f.pd.toNat, 1)], weight := 2 }
  | .pnot f => { reads := [.p f.pa.toNat], writes := [(.p f.pd.toNat, 1)], weight := 2 }
  | .aadd f => { reads := aReg f.a.toNat ++ sReg f.b, writes := [(.a f.d.toNat, 1)], lits := aLit f.a.toNat ++ sLit [f.b] f.lit, weight := 2 }
  | .amov f =>
    match f.fn.toNat with
    | 0 | 1 => { reads := sReg f.a, writes := [(.a f.d.toNat, 1)], lits := sLit [f.a] f.lit, weight := 2 }
    | 4 => { reads := aReg f.a.toNat, writes := [(.a f.d.toNat, 1)], lits := aLit f.a.toNat, weight := 2 }
    | _ => { reads := aReg f.a.toNat, writes := [(.s f.d.toNat, 1)], lits := aLit f.a.toNat, weight := 2 }
  | .adiff f => { reads := aReg f.a.toNat ++ aReg f.b.toNat, writes := [(.s f.d.toNat, 1)], lits := aLit f.a.toNat ++ aLit f.b.toNat, weight := 2 }
  | .aaddi f => { reads := aReg f.a.toNat, writes := [(.a f.d.toNat, 1)], lits := aLit f.a.toNat, weight := 2 }
  | .ld _ f => { useLoad f with lands := [.s f.reg.toNat] }
  | .st _ f => useStore f (sReg f.reg) (sLit [f.reg] 0)
  | .lda f => { useLoad f with lands := [.a f.reg.toNat] }
  | .sta f => useStore f (aReg f.reg.toNat) (aLit f.reg.toNat)
  | .spl _ f => { writes := [(.s f.reg.toNat, 1)], weight := 4 }
  | .sps _ f => { reads := sReg f.reg, lits := sLit [f.reg] 0, weight := 4 }
  | .gld _ f => { reads := aReg f.addr.toNat, writes := [(.s f.reg.toNat, 6)], lits := aLit f.addr.toNat, weight := 4 }
  | .gst _ f => { reads := aReg f.addr.toNat ++ sReg f.reg, lits := aLit f.addr.toNat ++ sLit [f.reg] 0, weight := 4 }
  | .br _ => { weight := 2 }
  | .call _ => { writes := [(.s 62, 1)], weight := 2 }
  | .ret => { reads := [.s 62], weight := 2 }
  | .jmpi f => { reads := sReg f.a, writes := if f.d = 0 then [] else [(.s f.d.toNat, 1)], lits := sLit [f.a] f.lit, weight := 2 }
  | .tstb f => { lits := [.word f.lit.toNat], weight := 2
                 tiles := if f.fn.toNat % 4 = 0 then [64 * f.d.toNat + f.a.toNat] else [] }
  | .loop f => { reads := (List.range ((f.imm.extractLsb' 7 2).toNat + 1)).map fun k => .s (f.a.toNat + k), weight := 2 }
  | .fend => { weight := 2 }
  | .tret => { weight := 2 }
  | .setshape f => { reads := sReg f.a, writes := [(.h f.d.toNat, 1)], lits := sLit [f.a] f.lit, weight := 2 }
  | .getshape f => { reads := [.h f.a.toNat], writes := [(.s f.d.toNat, 1)], weight := 2 }
  | .node f => { reads := if f.fn = 4 ∨ f.fn = 6 then sReg f.a else [], writes := [(.s f.d.toNat, 1)]
                 lits := if f.fn = 4 ∨ f.fn = 6 then sLit [f.a] f.lit else [], weight := 2 }
  | .sysr f => { writes := [(if sysFile f.imm.toNat = some true then .a f.d.toNat else .s f.d.toNat, 1)], weight := 2 }
  | .sysw f =>
    if sysFile f.imm.toNat = some true then { reads := aReg f.a.toNat, lits := aLit f.a.toNat, weight := 2 }
    else { reads := sReg f.a, lits := sLit [f.a] 0, weight := 2 }
  | .trap f => { reads := sReg f.a, lits := sLit [f.a] 0, weight := 2 }
  | .fence _ => { weight := 2 }
  | .vadd f => useVR f [f.va, f.vb] (typeWidth f.type) 2 30
  | .vsub f => useVR f [f.va, f.vb] (typeWidth f.type) 2 30
  | .vmul f => useVR f [f.va, f.vb] (typeWidth f.type) 2 30
  | .vmulh f => useVR f [f.va, f.vb] (typeWidth f.type) 2 30
  | .vadds f => useVR f [f.va, f.vb] (typeWidth f.type) 2 30
  | .vsubs f => useVR f [f.va, f.vb] (typeWidth f.type) 2 30
  | .vshl f => useVR f [f.va, f.vb] (typeWidth f.type) 2 30
  | .vshr f => useVR f [f.va, f.vb] (typeWidth f.type) 2 30
  | .vsar f => useVR f [f.va, f.vb] (typeWidth f.type) 2 30
  | .vand f => useVR f [f.va, f.vb] (typeWidth f.type) 2 30
  | .vor f => useVR f [f.va, f.vb] (typeWidth f.type) 2 30
  | .vxor f => useVR f [f.va, f.vb] (typeWidth f.type) 2 30
  | .vmin f => useVR f [f.va, f.vb] (typeWidth f.type) 2 30
  | .vmax f => useVR f [f.va, f.vb] (typeWidth f.type) 2 30
  | .vmac f => useVR f [f.va, f.vb, f.vc] (typeWidth f.type) 2 30
  | .vabs f => useVR f [f.va] (typeWidth f.type) 2 30
  | .vwiden f => useVR f [f.va] (typeWidth f.type) 2 30
  | .vnarrow f => useVR f [f.va] (2 * typeWidth f.type) 2 30
  | .vfadd f => useVR f [f.va, f.vb] (typeWidth f.type) 4 45
  | .vfsub f => useVR f [f.va, f.vb] (typeWidth f.type) 4 45
  | .vfmul f => useVR f [f.va, f.vb] (typeWidth f.type) 4 45
  | .vfmin f => useVR f [f.va, f.vb] (typeWidth f.type) 4 45
  | .vfmax f => useVR f [f.va, f.vb] (typeWidth f.type) 4 45
  | .vfsgn f => useVR f [f.va, f.vb] (typeWidth f.type) 4 45
  | .vfma f => useVR f [f.va, f.vb, f.vc] (typeWidth f.type) 4 45
  | .vcvt f => useVR f [f.va] (typeWidth (f.vc.extractLsb' 0 4)) 4 45
  | .vcmp f => { useVR f [f.va, f.vb] (typeWidth f.type) 4 45 with writes := [(.k f.vd.toNat, 4)] }
  | .vrcp f => useVR f [f.va] (typeWidth f.type) 8 60
  | .vrsq f => useVR f [f.va] (typeWidth f.type) 8 60
  | .vexp2 f => useVR f [f.va] (typeWidth f.type) 8 60
  | .vlog2 f => useVR f [f.va] (typeWidth f.type) 8 60
  | .vsel f =>
    let u := useVR f [f.va, f.vb] (typeWidth f.type) 2 30
    { u with reads := u.reads ++ kReg f.vc.toNat }
  | .kop f => { reads := kReg (if f.vc.toNat < 7 then f.va.toNat else 0) ++ kReg (if f.vc.toNat < 4 then f.vb.toNat else 0)
                          ++ kReg f.mask.toNat ++ [.h f.shape.toNat], writes := [(.k f.vd.toNat, 2)], weight := 30 }
  | .vperm f => useVR f [f.va, f.vb] (typeWidth f.type) 3 30
  | .vrot f => useVR f [f.va, f.vb] (typeWidth f.type) 3 30
  | .vbcast f => useVR f [f.va, f.vb] (typeWidth f.type) 3 30
  | .vins f => useVR f [f.va, f.vb] (typeWidth f.type) 3 30
  | .vextr f => useVR f [f.va, f.vb, f.vc] (typeWidth f.type) 3 30
  | .vreda f => useVR f [f.va] (typeWidth f.type) 6 60
  | .vredm f => useVR f [f.va] (typeWidth f.type) 6 60
  | .vld f => if f.space = 0 then { useVM f with lands := [.v f.v.toNat], land := f.land.toNat, mem := true }
              else { useVM f with writes := [(.v f.v.toNat, 6)] }
  | .vst f =>
    let u := useVM f
    { u with reads := u.reads ++ vReg f.v, lits := u.lits ++ (if f.v = 31 then [.vec] else []), mem := f.space = 0 }
  | .vgld f =>
    let u := useVM f
    { u with reads := u.reads ++ aReg (f.addr.toNat + 1), lands := [.v f.v.toNat], land := f.land.toNat, mem := true }
  | .vgst f =>
    let u := useVM f
    { u with reads := u.reads ++ aReg (f.addr.toNat + 1) ++ vReg f.v, lits := u.lits ++ (if f.v = 31 then [.vec] else []), mem := true }
  | .vgath f => useVR f (indexRegs f) 32 6 20
  | .vscat f =>
    let u := useVR f (indexRegs f) 32 0 20
    { u with writes := [], reads := u.reads ++ vReg f.vd, lits := u.lits ++ vLit [f.vd] (typeWidth f.type) f.lit }
  | .mma f => useM [f.tile.toNat] f.shape
  | .mmai f => useM [f.tile.toNat] f.shape
  | .mmap f => useM [f.tile.toNat] f.shape
  | .zret f => useM [f.tile.toNat] f.shape
  | .yld f => useM [f.tile.toNat] f.shape
  | .zacc f => useM [] f.shape
  | .zadd f => useM [] f.shape
  | .talloc f => { useM [] f.shape with engine := .table }
  | .tfree f => { useM0 [f.tile.toNat] with engine := .table }
  | .tstat _ => { useM0 [] with engine := .table }
  | .trenew f => useM0 [f.tile.toNat]
  | .cbld f => useM0 [f.tile.toNat]
  | .txpose f => useM [f.tile.toNat, f.tile2.toNat] f.shape
  | .tcvt f => useM [f.tile.toNat, f.tile2.toNat] f.shape
  | .tfill f => useM [f.tile.toNat] f.shape
  | .ptb _ => useM0 []
  | .yclr _ => useM0 []
  | .cnest f => { reads := sReg f.bound ++ sReg f.sstride ++ sReg f.dstride, writes := [(.e f.nest.toNat, 1)]
                  lits := sLit [f.bound, f.sstride, f.dstride] 0, weight := 10, engine := .none }
  | .cpy f => useCX f [f.src, f.dst] (if f.fd = 1 then [f.flags.toNat] else [])
  | .cpym f =>
    let u := useCX f [f.src, f.dst] (if f.fd = 1 then [f.flags.toNat] else [])
    { u with lits := .pair f.fol.toNat :: u.lits, follow := true }
  | .tld f => useCX f [f.src, f.src + 1] [f.flags.toNat]
  | .tst f => useCX f [f.dst, f.dst + 1] [f.flags.toNat]
  | .tred f => useCX f [f.dst, f.dst + 1] [f.flags.toNat]
  | .rwb f => useCX f [f.src] []
  | .rinv f => useCX f [f.src] []
  | .pref f => useCX f [f.src] []
  | .amo f => useCA f (sReg f.opnd) [f.opnd] (if f.res = 0 then [] else [.s f.res.toNat])
  | .cas f =>
    let n := if f.op = 2 then 4 else 2
    useCA f ((List.range n).map fun k => .s (f.opnd.toNat + k)) []
      (if f.res = 0 then [] else (List.range (n / 2)).map fun k => .s (f.res.toNat + k))
  | .bind f =>
    if f.fd = 1 then { weight := 10, engine := .none }
    else { reads := aReg f.src.toNat ++ aReg f.dst.toNat ++ sReg (f.flags.extractLsb' 6 6), weight := 10, engine := .none
           lits := aLit f.src.toNat ++ aLit f.dst.toNat ++ sLit [f.flags.extractLsb' 6 6] 0 }
  | .acq f => useCA f [] [] (if f.res = 0 then [] else [.s f.res.toNat])
  | .rel f => useCA f (sReg f.opnd) [f.opnd] []
  | .waita f => useCA f (sReg f.opnd) [f.opnd] [.s f.res.toNat, .s (f.res.toNat + 1), .p f.op.toNat]
  | .wake f => useCA f [] [] []
  | .dec f => { reads := sReg f.opnd, lits := sLit [f.opnd] 0, weight := 10, engine := .copy }
  | .scld f => useCA f [] [] (if f.res = 0 then [] else [.s f.res.toNat])
  | .scst f => useCA f (sReg f.opnd) [f.opnd] []
  | .xch f => { tiles := [f.send.toNat, f.recv.toNat], weight := 10, engine := .exchange }
  | .xcc f => { tiles := [f.send.toNat, f.recv.toNat], weight := 10, engine := .exchange }
  | .sib f => { tiles := [f.send.toNat, f.recv.toNat], weight := 10, engine := .exchange }
  | .grs f => { tiles := [f.send.toNat, f.recv.toNat], weight := 10, engine := .exchange }
  | .dbar _ => { weight := 10, engine := .exchange }
  | .xdig f => { tiles := [f.recv.toNat], weight := 10, engine := .exchange }
  | _ => {}

/-- The shape register an operation names, if any (07 R185); GETSHAPE and SETSHAPE may name an empty one. -/
def Use.shapes (u : Use) : List Nat := u.reads.filterMap fun r => match r with | .h i => some i | _ => none

end Sys2Proof.Machine
end

