-- ==== Sys2Proof/Machine/Code.lean ====
section
/-! DEFINITION. Code delivery (07 R180 to R184): segments, their lines and trailers, the loop buffer, where bundles begin and
which follows which; the loop state (14 R362). -/

namespace Sys2Proof.Machine

/-- The segment slot of an address. -/
def segOf (a : Nat) : Nat := a / 2048 * 2048
/-- The line of an address in its segment. -/
def lineIn (a : Nat) : Nat := a % 2048 / 64

/-- The bytes of line k of a segment, as they stand in memory. -/
def State.textLine (s : State) (seg k : Nat) : List Byte := (List.range 64).map fun o => s.homeByte (seg + 64 * k + o)

/-- Bytes of a line that bundles may use: line 31 ends at byte 48 (R180). -/
def lineLimit (k : Nat) : Nat := if k = 31 then 48 else 64

/-- Offsets at which bundles begin in a line; an illegal bundle is the last (12 R309). -/
def startsFrom (limit : Nat) (bytes : List Byte) : Nat → Nat → List Nat
  | 0, _ => []
  | fuel + 1, off =>
    let h := bytes.getD off 0
    if limit ≤ off ∨ h = 0 then []
    else if (presentSlots h).isEmpty ∨ limit < off + bundleLen h then [off]
    else off :: startsFrom limit bytes fuel (off + bundleLen h)

/-- Offsets at which bundles begin in line k. -/
def lineStarts (k : Nat) (bytes : List Byte) : List Nat := startsFrom (lineLimit k) bytes 12 0

/-! ## Trailers (Table 7.6) -/

def trailerOf (line : List Byte) : List Byte := (line.drop 48).take 16
def trNline (t : List Byte) : Nat := field t 1 1 % 32 + 1
def trNbun (t : List Byte) : Nat := field t 2 1 % 128 + 1
def trNoFall (t : List Byte) : Bool := (t.getD 3 0).getLsbD 0
def trPick1 (t : List Byte) : Bool := (t.getD 3 0).getLsbD 1
/-- A signed distance in segment slots. -/
def trNext (t : List Byte) (at_ : Nat) : Int := (BitVec.ofNat 32 (field t at_ 4)).toInt

/-- Whether a trailer's zero fields are zero. -/
def trClean (t : List Byte) : Bool :=
  field t 0 1 == 0 && field t 1 1 / 32 == 0 && field t 2 1 / 128 == 0 && field t 3 1 / 4 == 0 && field t 12 4 == 0

/-- Whether a segment is malformed (R181). -/
def State.malformed (s : State) (seg : Nat) (t : List Byte) : Bool :=
  let starts := (List.range (trNline t)).map fun k => (lineStarts k (s.textLine seg k)).length
  !trClean t || starts.sum != trNbun t
    || (trNline t == 32 && (lineStarts 31 (s.textLine seg 31)).any fun o =>
          48 < o + bundleLen ((s.textLine seg 31).getD o 0))

/-- A segment, the distance n slots away, modulo the address space. -/
def slotAway (seg : Nat) (n : Int) : Nat := ((seg : Int) + 2048 * n).toNat

/-- A half that begins to fetch a segment from line k on. -/
def State.newHalf (s : State) (seg k : Nat) : Half :=
  let t := trailerOf (s.textLine seg 31)
  { seg, live := true, start := k, trailer := t, bad := s.malformed seg t }

/-- The prefetch target of a half (R182). -/
def Half.successor (h : Half) : Nat :=
  if trPick1 h.trailer && trNext h.trailer 8 != 0 then slotAway h.seg (trNext h.trailer 8) else slotAway h.seg (trNext h.trailer 4)

/-- Lines of a half in the order they are expanded (R183). -/
def Half.order (h : Half) : List Nat :=
  let n := trNline h.trailer
  ((List.range n).filter (h.start ≤ ·)) ++ ((List.range n).filter (· < h.start))

/-- The next line of a half to expand. -/
def Half.wanted (h : Half) : Option Nat := h.order.find? fun k => (h.lines.get? k).isNone
/-- Expand a line. -/
def Half.expand (h : Half) (k : Nat) (bytes : List Byte) : Half := { h with lines := h.lines.set k bytes }

/-! ## Cold text (04 R99 to R101) -/

/-- Physical base of the code arena. -/
def State.arena (s : State) : Nat := s.trust.arenaBase.toNat * 2 ^ 26
/-- Physical base of a loaded object. -/
def State.objBase (s : State) (o : Obj) : Nat := s.arena + o.off * 2 ^ 16

/-- The cold page a code address lies in: handle, page, and the object. -/
def State.coldPage (s : State) (a : Nat) : Option (Nat × Nat × Obj) :=
  s.objects.findSome? fun (h, o) =>
    let lo := s.objBase o + o.hotUnits * 2 ^ 16
    if lo ≤ a ∧ a < lo + o.coldUnits * 2 ^ 16 then some (h, (a - lo) / 2 ^ 16, o) else none

/-- Address of a cold page table entry. -/
def State.coldEntry (s : State) (o : Obj) (page : Nat) : Nat := s.objBase o + o.ptOff + 64 * page
/-- SRC of a cold page. -/
def State.coldSource (s : State) (o : Obj) (page : Nat) : Nat := s.homeNat (s.coldEntry o page + 8) 8

/-- The invalid cold page a code address lies in, if it does. -/
def State.coldInvalid (s : State) (a : Nat) : Option (Nat × Nat) :=
  match s.coldPage a with
  | some (h, p, o) => if (s.homeByte (s.coldEntry o p)).getLsbD 0 then none else some (h, p)
  | none => none

/-- A byte of text that says where bundles stand, a header's or a trailer's: of a page not fetched yet it is the image's, which the
host keeps and no patch changes (R101). -/
def State.codeByte (s : State) (a : Nat) : Byte :=
  match s.coldPage a with
  | some (_, p, o) => if (s.homeByte (s.coldEntry o p)).getLsbD 0 then s.homeByte a else s.homeByte (s.coldSource o p + a % 2 ^ 16)
  | none => s.homeByte a

/-- The address of a segment's first bundle. -/
def State.firstBundle (s : State) (seg : Nat) : Nat :=
  let n := trNline ((List.range 16).map fun o => s.codeByte (seg + 0x7F0 + o))
  match (List.range n).find? fun k => s.codeByte (seg + 64 * k) != 0 with
  | some k => seg + 64 * k
  | none => seg

/-- The bundle that follows one of length n at address a in program order (R181), and whether it is reached past NOFALL. -/
def State.nextBundle (s : State) (h : Half) (a n : Nat) : Nat × Bool :=
  let seg := segOf a
  let k := lineIn a
  let e := a % 64 + n
  if e < lineLimit k ∧ s.homeByte (64 * lineOf a + e) ≠ 0 then (a + n, false)
  else
    match ((List.range (trNline h.trailer)).filter (k < ·)).find? fun j => s.homeByte (seg + 64 * j) != 0 with
    | some j => (seg + 64 * j, false)
    | none => (s.firstBundle (slotAway seg (trNext h.trailer 4)), trNoFall h.trailer)

/-- The addresses of n bundles from a on that lie in one segment, or fewer where it ends. -/
def State.bundlesFrom (s : State) (h : Half) : Nat → Nat → List Nat
  | 0, _ => []
  | n + 1, a => if segOf a = h.seg then a :: s.bundlesFrom h n (s.nextBundle h a (bundleLen (s.homeByte a))).1 else []

/-! ## The loop (14 R362) -/

/-- After the bundle at pc: another execution of the body, its end, or the bundle `next`. -/
def Die.advance (d : Die) (next : Nat) (noFall : Bool) : Die :=
  let go (pc : Nat) (loop : Option Loop) (nf : Bool) : Die := { d with c := { d.c with loop }, seq := { d.seq with pc, noFall := nf } }
  match d.c.loop with
  | some l =>
    if !d.c.inHandler ∧ d.seq.pc = l.last then
      if l.index + 1 < l.c0 * l.c1 * l.c2 then go l.first (some { l with index := l.index + 1, fresh := true }) false
      else go l.after none noFall
    else go next d.c.loop noFall
  | none => go next none noFall

/-- The sequencer reaches the first body bundle of an execution: pe is written (14 R362). -/
def Die.enterBody (d : Die) : Die :=
  match d.c.loop with
  | some l =>
    if !d.c.inHandler ∧ d.seq.pc = l.first ∧ l.fresh then
      let c := d.c.writeReg (.p l.pe (l.index % l.c0 == l.c0 - 1))
      { d with c := { c with loop := some { l with fresh := false } } }
    else d
  | none => d

end Sys2Proof.Machine
end

