-- ==== Sys2Proof/Machine/Node.lean ====
section
/-! DEFINITION. The subcube of a context (03 R75 to R77, 06 R129 R130): dimensions, tiers, logical IDs, partners. -/

namespace Sys2Proof.Machine

/-- The tier of a dimension (00 R1): in-package, board, optical. -/
def tierOf (d : Nat) : Nat := if d ≤ 3 then 0 else if d ≤ 6 then 1 else 2

/-- The set dimensions m(0), m(1), … of a mask. -/
def dimsOf (mask : Nat) : List Nat := (List.range 14).filter fun d => mask.testBit d
/-- w. -/
def widthOf (mask : Nat) : Nat := (dimsOf mask).length
/-- w_in. -/
def widthIn (mask : Nat) : Nat := ((dimsOf mask).filter fun d => d ≤ 3).length
/-- P_i of an LPERM word. -/
def permOf (lperm i : Nat) : Nat := lperm / 2 ^ (4 * i) % 16

/-- Whether three registers are valid together (R76). -/
def subcubeValid (mask lxor lperm : Nat) : Bool :=
  let m := dimsOf mask
  let ps := (List.range m.length).map fun i => permOf lperm i
  (distinct ps).length == m.length && (ps.zip m).all (fun (p, d) => mask.testBit p && tierOf p == tierOf d)
    && lxor < 2 ^ m.length

/-- The logical ID of a node (R77). -/
def logicalId (mask lxor lperm nid : Nat) : Nat :=
  ((List.range (widthOf mask)).map fun i => if nid.testBit (permOf lperm i) != lxor.testBit i then 2 ^ i else 0).sum

/-- The physical node of a logical ID among those that agree with `nid` outside the mask. -/
def physicalId (mask lxor lperm nid lid : Nat) : Nat :=
  (List.range (widthOf mask)).foldl (fun y i =>
    let b := lid.testBit i != lxor.testBit i
    let p := permOf lperm i
    if y.testBit p = b then y else y ^^^ 2 ^ p) nid

def Ctxt.mask (c : Ctxt) : Nat := (c.scm.extractLsb' 0 14).toNat
def Ctxt.lid (c : Ctxt) (nid : Nat) : Nat := logicalId c.mask c.lxor.toNat c.lperm.toNat nid

/-- The logical ID of the die of the operation now issuing. -/
def State.lid (s : State) : Nat := s.ctx.lid (s.nid s.issue.die)

/-! ## Dimensions an exchange names (18 R455) -/

/-- The mask of a DBAR. -/
def dbarMask (f : CD) : Nat := f.send.toNat + f.recv.toNat % 4 * 2 ^ 12

/-- Logical dimensions an exchange operation names. -/
def xchDims : Instr → List Nat
  | .xch f | .xcc f => [f.dima.toNat]
  | .sib f | .grs f => [f.dima.toNat, f.dimb.toNat]
  | .dbar f => dimsOf (dbarMask f)
  | .xdig f => if f.dimb = 15 then [f.dima.toNat] else [f.dima.toNat, f.dimb.toNat]
  | _ => []

/-- Whether two tile table entries fit an XCC operation (18 Table 18.3). -/
def xccFits (op : Nat) (a b : Tile) : Bool :=
  let types : List Nat := match op with | 0 | 1 => [9] | 2 => [3] | 3 | 4 => [13] | _ => [9, 8, 3]
  types.contains a.type.toNat && a.type == b.type && a.rows == b.rows && a.cols == b.cols

/-- An XCC whose tile pair breaks Table 18.3 traps ILLEGAL, whatever its guard (18 R456, R458). -/
def State.badPair (s : State) (i : Instr) : Bool :=
  match i with
  | .xcc f => !xccFits f.op.toNat (s.ctx.tile f.send.toNat) (s.ctx.tile f.recv.toNat)
  | _ => false

/-- The precise checks of an exchange operation between its ILLEGAL cases and its tile states (18 R456). -/
def State.exchangeTrap (s : State) (i : Instr) : Option Cause :=
  if (xchDims i).isEmpty && !(match i with | .dbar _ => true | _ => false) then none
  else
    let c := s.ctx
    let free : Bool := match i with | .xdig _ => false | _ => !(match s.cur.task with | some t => t.pinned | none => false)
    if free then some .notPinned
    else if (xchDims i).any fun d => widthOf c.mask ≤ d then some .subcube
    else none

end Sys2Proof.Machine
end

