-- ==== Sys2Proof/Machine/Issue.lean ====
section
/-! DEFINITION. Issuing a bundle (07 R157 to R170): the checks that trap precisely, stalls, the scoreboard, and what follows
an issue; commands of the engines (10 R251, 16 R403, 17 R428, 18 R463). -/

namespace Sys2Proof.Machine

/-- An operation with its slot. -/
abbrev Op := Slot × Instr

/-- The stream of a C slot (13 R335). -/
def streamOf (sl : Slot) : Nat := if sl = .c1 then 1 else 0

/-! ## Encodings and literals -/

/-- Whether the pool satisfies a reference (12 R314). -/
def State.litOk (s : State) (u : LitUse) : Bool :=
  let n := s.issue.lits.length
  match u with
  | .word i => i < n
  | .pair i => i + 1 < n
  | .wide => n == 3 && (s.lit 2).toNat < 256
  | .vec => 0 < n

/-- An opcode that exists only on its stepping (13 R338, R339). -/
def experimental : Instr → Bool
  | .vlog2 _ | .tred _ => true
  | _ => false

/-- The stepping recorded at the launch of the running task; A0 is 0 (13 R339). -/
def State.recordedStepping (s : State) : Byte := match s.cur.task with | some t => t.stepping | none => 0

/-- An operation that traps ILLEGAL whatever its guard (12 R312, R314; 13 R336, R339). -/
def State.illegal (s : State) (i : Instr) : Bool :=
  i.problem != none || (useOf i).lits.any (fun u => !s.litOk u) || (experimental i && s.recordedStepping != 0)

/-- Whether a list names a register twice. -/
def hasTwice : List Reg → Bool
  | [] => false
  | r :: rs => rs.contains r || hasTwice rs

/-- Destinations of an operation. -/
def Use.dests (u : Use) : List Reg := u.writes.map (·.1) ++ u.lands

/-- FEND with another present slot (14 R364). -/
def fendNotAlone (all : List Op) : Bool := 1 < all.length && all.any fun o => o.2 == .fend

/-! ## The scoreboard (07 R170) -/

/-- Registers whose writes are discarded have no producer. -/
def Reg.inert : Reg → Bool
  | .s i => i == 0
  | .p i => i == 0
  | _ => false

/-- Whether the enabled checks fail for the live operations. -/
def State.holdShort (s : State) (live : List Op) : Bool :=
  let chk := s.ctx.chksb
  let score := s.cur.seq.score
  let at_ := s.issue.sched
  let reads : List (Reg × Nat) :=
    (s.issue.guards.map fun g => (Reg.p g, s.issue.dec)) ++ live.flatMap fun o => (useOf o.2).reads.map fun r => (r, at_)
  let writes : List (Reg × Nat) :=
    live.flatMap fun o =>
      let u := useOf o.2
      (u.writes.map fun w => (w.1, at_ + w.2)) ++ u.lands.map fun r => (r, at_ + u.land)
  let short (landing : Bool) : Bool :=
    reads.any fun r => score.any fun e => e.landing == landing && e.reg == r.1 && r.2 < e.ready
  (chk.getLsbD 0 && short false) || (chk.getLsbD 1 && short true)
    || (chk.getLsbD 2 && writes.any fun w => !w.1.inert && score.any fun e => e.reg == w.1 && w.2 ≤ e.ready)

/-- Record the producers of an issued bundle and forget those whose writes have taken effect. -/
def State.score (s : State) (live : List Op) : State :=
  let at_ := s.issue.sched
  let new : List Score := live.flatMap fun o =>
    let u := useOf o.2
    (u.writes.map fun w => ({ reg := w.1, ready := at_ + w.2, landing := false } : Score))
      ++ u.lands.map fun r => ({ reg := r, ready := at_ + u.land, landing := true } : Score)
  s.onCur fun d => d.onSeq fun q =>
    { q with score := (q.score.filter fun e => at_ < e.ready) ++ new.filter fun e => !e.reg.inert && at_ + 1 < e.ready }

/-! ## Precise traps of a bundle -/

/-- A DBAR.wait has not completed (18 R469). -/
def Seq.barred (q : Seq) : Bool := q.memWait.any fun w => match w with | .barrier _ => true | _ => false

/-- The first check of a bundle that traps before any operation acts. Where several fail, the model takes an encoding before
the scoreboard (assumption 20). Behind a DBAR.wait that has not completed the bundle stalls, whatever it holds (18 R469). -/
def State.issueTrap (s : State) (all live : List Op) : Option Cause :=
  if s.cur.seq.barred then none
  else if all.any (fun o => s.illegal o.2 || s.badPair o.2) || fendNotAlone all || hasTwice (live.flatMap fun o => (useOf o.2).dests) then some .illegal
  else if s.holdShort live then some .holdShort
  else live.findSome? fun o => s.exchangeTrap o.2

/-! ## Engines -/

/-- The queue of copy stream n. -/
def Ctxt.copyQ (c : Ctxt) (n : Nat) : List Cmd := if n = 1 then c.copyQ1 else c.copyQ0
def Ctxt.setCopyQ (c : Ctxt) (n : Nat) (q : List Cmd) : Ctxt := if n = 1 then { c with copyQ1 := q } else { c with copyQ0 := q }
/-- The queue of exchange stream n. -/
def Ctxt.xchQ (c : Ctxt) (n : Nat) : List Cmd := if n = 1 then c.xchQ1 else c.xchQ0
def Ctxt.setXchQ (c : Ctxt) (n : Nat) (q : List Cmd) : Ctxt := if n = 1 then { c with xchQ1 := q } else { c with xchQ0 := q }
/-- Every command held by an engine. -/
def Ctxt.allCmds (c : Ctxt) : List Cmd := c.matQ ++ c.copyQ0 ++ c.copyQ1 ++ c.xchQ0 ++ c.xchQ1

/-- Gallery rows of the tiles a command holds, their status lines with them. -/
def Cmd.rows (c : Cmd) : List Nat :=
  let of (e : Tile) : List Nat := if e.state = .empty then [] else e.footprint ++ ((e.status?.map fun a => a / 256).toList)
  of c.tile ++ of c.tile2

/-- The tile entry TALLOC makes (16 R418). -/
def tallocTile (f : MS) (h : Shape) : Tile :=
  { base := f.imm.extractLsb' 0 6 ++ f.tile2, rows := BitVec.ofNat 16 h.rqRows, cols := BitVec.ofNat 16 h.rqCols,
    type := f.fmt, cb := f.imm.extractLsb' 6 4, state := .ready }

/-- A tile that FILLS or DRAINS (08 R199). -/
def Ctxt.busyTile (c : Ctxt) (t : Nat) : Bool := (c.tile t).state == .filling || (c.tile t).state == .draining

/-- Whether one of some commands reads or writes a row that TALLOC would take, its status line with them (16 R404). -/
def Ctxt.rowsHeld (c : Ctxt) (f : MS) (cmds : List Cmd) : Bool :=
  let e := tallocTile f (c.hreg f.shape.toNat)
  cmds.any fun k => overlaps k.rows (e.footprint ++ (e.status?.map fun a => a / 256).toList)

/-- Whether wheel position `pos` belongs to the positions of a WHEEL register (09 Table 9.3). -/
def ownsPosition (wheel : W64) (pos : Nat) : Bool :=
  let base := (wheel.extractLsb' 0 8).toNat
  let step := max 1 (wheel.extractLsb' 8 8).toNat
  let count := min 256 (wheel.extractLsb' 16 9).toNat
  (List.range count).any fun k => (base + k * step) % 256 == pos % 256

def isSc : Instr → Bool
  | .scld _ | .scst _ => true
  | _ => false

/-- The record TRET reads (10 R257). -/
def State.readRecord (s : State) : Got (State × List Byte) :=
  let c := s.ctx
  s.loadNow s.issue.die (s.ctxOn s.issue.die) (c.trecbase + BitVec.ofNat 72 (64 * (c.tdepth - 1))) 64

/-- Why a bundle must stall (R163, R199, 14 R375, 16 R404, 17 R428, 18 R463 R469, 09 R237). -/
def State.mustStall (s : State) (live : List Op) : Bool :=
  let c := s.ctx
  let us := live.map fun o => (o, useOf o.2)
  let tilesHold := us.any fun u => u.2.tiles.any c.busyTile
  let ownHold := live.any fun o => match o.2 with | .talloc f => c.busyTile f.tile.toNat | _ => false
  let places := (us.filter fun u => u.2.engine == .matrix).length + (us.filter fun u => u.2.follow).length
  let matFull : Bool := places != 0 && decide (16 < c.matQ.length + places)
  let streamFull := us.any fun u =>
    (u.2.engine == .copy && 16 ≤ (c.copyQ (streamOf u.1.1)).length) || (u.2.engine == .exchange && 16 ≤ (c.xchQ (streamOf u.1.1)).length)
  let landings := (us.filter fun u => !u.2.lands.isEmpty).length
  let landFull : Bool := landings != 0 && decide (64 < s.cur.seq.landings.length + landings)
  let memHold := us.any (fun u => u.2.mem) && s.cur.seq.memWait.any fun w => match w with | .barrier _ => false | _ => true
  let tableHold := us.any (fun u => u.2.engine == .table) && !c.matQ.isEmpty
  let rowsHold := live.any fun o => match o.2 with | .talloc f => c.rowsHeld f c.allCmds | _ => false
  let recordHold := live.any (fun o => o.2 == .tret) && c.inHandler && (match s.readRecord with | .wait _ => true | _ => false)
  let wheelHold := live.any (fun o => isSc o.2) && c.wheel.extractLsb' 16 9 != 0 && !ownsPosition c.wheel s.wc
  tilesHold || ownHold || matFull || streamFull || landFull || memHold || s.cur.seq.barred || tableHold || rowsHold || recordHold || wheelHold

/-- A stall cycle is counted (R163); a TRET that waits for its record has asked for it. -/
def State.stall (s : State) (live : List Op) : State :=
  let s := if live.any fun o => o.2 == .tret then (match s.readRecord with | .wait s' => s' | _ => s) else s
  s.onCur fun d => d.onCnt fun k => { k with istl := bump k.istl }

/-- A write by the slot port, made after the reads of its bundle (15 R397). -/
def State.slotWrite (s : State) (ws : List (Nat × Byte)) : State := s.onCur fun d => d.onSeq fun q => { q with gwrites := q.gwrites ++ [ws] }

/-! ## After an issue -/

/-- A die behind an issued bundle: the slot port's writes, and where the next decision is made (R164). -/
def Die.afterBundle (d : Die) (us : Nat) (b : Issue) : Die :=
  let q := d.seq
  let d := q.gwrites.foldl (fun d ws => d.gwrite us ws) (d.onCnt fun k => { k with ibun := bump k.ibun })
  let d := match q.target with
    | some (pc, _) => d.onSeq fun q => { q with pc }
    | none => d.advance b.next b.noFall
  let delay := match q.target with | some (_, n) => n | none => 1
  d.onSeq fun q => { q with held := none, target := none, soft := none, gwrites := [], decideAt := q.cycle + delay, schedAt := b.sched + delay }

/-- The bundle has issued: the next decision, and a TRAP that it held, whose resume address is the next bundle in program order, in a
loop body too (R164, 14 R372; DEDUCED, assumption 34). -/
def State.retire (s : State) (live : List Op) : State :=
  let s := s.score live
  let t := s.onCur fun d => d.afterBundle (s.us s.issue.die) s.issue
  match s.cur.seq.soft with
  | some x => (t.onDie s.issue.die fun d => d.onSeq fun q => { q with pc := s.issue.next }).beginTrap s.issue.die x
  | none => t

/-- A bundle whose operations are `all`, those with true guards `live`, and whose operations together give r, issues,
stalls or traps (R158, R163, R166). -/
def perform (s : State) (all live : List Op) (r : Except Trap State) : State :=
  match s.issueTrap all live with
  | some c => s.beginTrap s.issue.die (s.precise c)
  | none =>
    if s.mustStall live then s.stall live
    else
      match r with
      | .error t => s.beginTrap s.issue.die t
      | .ok s' => s'.retire live

/-- A bundle of one operation with a true guard. -/
def single (s : State) (i : Instr) (r : Except Trap State) : Host.Outcome State Fault Refusal :=
  .next (perform s [(s.issue.slot, i)] [(s.issue.slot, i)] r)

/-! ## Commands -/

/-- A command takes the next command index (10 R251). -/
def State.nextCmdix (s : State) : State :=
  s.onCur fun d => { d with c := { d.c with cmdix := d.c.cmdix + 1 }, cnt := { d.cnt with icmd := bump d.cnt.icmd } }

/-- What a command holds from its issue (17 R429). -/
def State.command (s : State) (i : Instr) : Cmd :=
  let d := s.cur
  { instr := i, cmdix := d.c.cmdix, id := s.accessId s.issue.die, stream := streamOf s.issue.slot, faddr := s.issue.addr, rmode := d.c.rmode, bindings := d.c.bindings,
    replay := match d.task with | some t => t.task.rid | none => 0, issued := s.ftc s.issue.die }

/-- Give the matrix engine a command; its completion comes later. -/
def State.toMatrix (s : State) (c : Cmd) : State :=
  ((s.onCur fun d => { d with c := { d.c with matQ := d.c.matQ ++ [c] }, seq := { d.seq with nextId := s.accessId s.issue.die + 1 } }).nextCmdix).later
    s.issue.die .matrixCommandComplete

/-- Give a copy stream a command. -/
def State.toCopy (s : State) (c : Cmd) (ev : Instr) : State :=
  let n := streamOf s.issue.slot
  ((s.onCur fun d => { d with c := d.c.setCopyQ n (d.c.copyQ n ++ [c]), seq := { d.seq with nextId := s.accessId s.issue.die + 1 } }).nextCmdix).later
    s.issue.die ev

/-- Give an exchange stream a command. -/
def State.toExchange (s : State) (c : Cmd) : State :=
  let n := streamOf s.issue.slot
  ((s.onCur fun d => { d with c := d.c.setXchQ n (d.c.xchQ n ++ [c]), seq := { d.seq with nextId := s.accessId s.issue.die + 1 } }).nextCmdix).later
    s.issue.die (.exchangeComplete s.issue.die n)

/-- The tile an operation names: EMPTY faults TILE_EMPTY precisely (08 R199). -/
def State.needTile (s : State) (t : Nat) : Except Trap Tile :=
  let e := s.ctx.tile t
  if e.state = .empty then .error (s.precise .tileEmpty) else .ok e

/-- The shape an operation names: an empty one traps NO_SHAPE precisely (07 R185). -/
def State.needShape (s : State) (h : BitVec 3) : Except Trap Shape :=
  let x := s.ctx.hreg h.toNat
  if x.valid then .ok x else .error (s.precise .noShape)

end Sys2Proof.Machine
end

