-- ==== Sys2Proof/Machine/Scalar.lean ====
section
/-! DEFINITION. The S slot (14): integer and bit operations, compares, predicates, addresses, memory accesses, control
transfer, shapes, system registers, identity and fences. -/

namespace Sys2Proof.Machine

/-! ## Integer and bit operations (Table 14.1) -/

/-- Leading zero bits. -/
def leadingZeros (x : W64) : Nat := if x = 0 then 64 else 63 - Nat.log2 x.toNat
/-- Set bits. -/
def setBits (x : W64) : Nat := ((List.range 64).filter fun k => x.getLsbD k).length
/-- Bits lsb + width − 1 : lsb of x. -/
def bitField (x : W64) (lsb width : Nat) : W64 := (x >>> lsb) &&& BitVec.ofNat 64 (2 ^ width - 1)
/-- Quotients and remainders with their edge cases (R346). -/
def quotS (x y : W64) : W64 := if y = 0 then -1 else x.sdiv y
def quotB (x y : W64) : W64 := if y = 0 then -1 else x / y
def remS (x y : W64) : W64 := if y = 0 then x else x.srem y
def remB (x y : W64) : W64 := if y = 0 then x else x % y
/-- Flags of a division: DZ, and IOV for the one overflow of DIVS. -/
def divFlags (signed : Bool) (x y : W64) : Flags :=
  if y = 0 then fDZ else if signed && x == BitVec.ofNat 64 (2 ^ 63) && y == -1 then fIOV else 0

/-- A shift amount of 64 or more clears, or copies the top bit (R347). -/
def shiftL (x y : W64) : W64 := if 64 ≤ y.toNat then 0 else x <<< y.toNat
def shiftR (x y : W64) : W64 := if 64 ≤ y.toNat then 0 else x >>> y.toNat
def shiftA (x y : W64) : W64 := x.sshiftRight (min y.toNat 64)

/-- An S.R operation of two sources. -/
def binS (f : SR) (lat : Nat) (g : W64 → W64 → W64) (s : State) : Except Trap State :=
  .ok (s.toS f.d lat (g (s.srcS f.a f.lit) (s.srcS f.b f.lit)))
/-- An S.R operation of one source. -/
def unS (f : SR) (g : W64 → W64) (s : State) : Except Trap State := .ok (s.toS f.d 1 (g (s.srcS f.a f.lit)))
/-- An S.I operation. -/
def immS (f : SI) (g : W64 → W64 → W64) (s : State) : Except Trap State :=
  .ok (s.toS f.d 1 (g (s.srcS f.a) (f.imm.signExtend 64)))
/-- A division (R346). -/
def divS (f : SR) (flags : W64 → W64 → Flags) (g : W64 → W64 → W64) (s : State) : Except Trap State :=
  binS f 20 g (s.flag (flags (s.srcS f.a f.lit) (s.srcS f.b f.lit)))


/-- Table 14.1. -/
def issueAdd (f : SR) (s : State) : Except Trap State :=
  binS f 1 (· + ·) s
/-- Table 14.1. -/
def execAdd (f : SR) (s : State) : Host.Outcome State Fault Refusal := single s (.add f) (issueAdd f s)

/-- Table 14.1. -/
def issueSub (f : SR) (s : State) : Except Trap State :=
  binS f 1 (· - ·) s
/-- Table 14.1. -/
def execSub (f : SR) (s : State) : Host.Outcome State Fault Refusal := single s (.sub f) (issueSub f s)

/-- Table 14.1. -/
def issueAddi (f : SI) (s : State) : Except Trap State :=
  immS f (· + ·) s
/-- Table 14.1. -/
def execAddi (f : SI) (s : State) : Host.Outcome State Fault Refusal := single s (.addi f) (issueAddi f s)

/-- Table 14.1. -/
def issueMul (f : SR) (s : State) : Except Trap State :=
  binS f 3 (· * ·) s
/-- Table 14.1. -/
def execMul (f : SR) (s : State) : Host.Outcome State Fault Refusal := single s (.mul f) (issueMul f s)

/-- Table 14.1. -/
def issueMulhs (f : SR) (s : State) : Except Trap State :=
  binS f 3 (fun x y => ((x.signExtend 128 * y.signExtend 128).extractLsb' 64 64)) s
/-- Table 14.1. -/
def execMulhs (f : SR) (s : State) : Host.Outcome State Fault Refusal := single s (.mulhs f) (issueMulhs f s)

/-- Table 14.1. -/
def issueMulhb (f : SR) (s : State) : Except Trap State :=
  binS f 3 (fun x y => ((x.setWidth 128 * y.setWidth 128).extractLsb' 64 64)) s
/-- Table 14.1. -/
def execMulhb (f : SR) (s : State) : Host.Outcome State Fault Refusal := single s (.mulhb f) (issueMulhb f s)

/-- R346. -/
def issueDivs (f : SR) (s : State) : Except Trap State :=
  divS f (divFlags true) quotS s
/-- R346. -/
def execDivs (f : SR) (s : State) : Host.Outcome State Fault Refusal := single s (.divs f) (issueDivs f s)

/-- R346. -/
def issueDivb (f : SR) (s : State) : Except Trap State :=
  divS f (divFlags false) quotB s
/-- R346. -/
def execDivb (f : SR) (s : State) : Host.Outcome State Fault Refusal := single s (.divb f) (issueDivb f s)

/-- R346: the overflow of DIVS sets no flag here. -/
def issueRems (f : SR) (s : State) : Except Trap State :=
  divS f (divFlags false) remS s
/-- R346: the overflow of DIVS sets no flag here. -/
def execRems (f : SR) (s : State) : Host.Outcome State Fault Refusal := single s (.rems f) (issueRems f s)

/-- R346. -/
def issueRemb (f : SR) (s : State) : Except Trap State :=
  divS f (divFlags false) remB s
/-- R346. -/
def execRemb (f : SR) (s : State) : Host.Outcome State Fault Refusal := single s (.remb f) (issueRemb f s)

/-- Table 14.1. -/
def issueAnd (f : SR) (s : State) : Except Trap State :=
  binS f 1 (· &&& ·) s
/-- Table 14.1. -/
def execAnd (f : SR) (s : State) : Host.Outcome State Fault Refusal := single s (.and f) (issueAnd f s)

/-- Table 14.1. -/
def issueOr (f : SR) (s : State) : Except Trap State :=
  binS f 1 (· ||| ·) s
/-- Table 14.1. -/
def execOr (f : SR) (s : State) : Host.Outcome State Fault Refusal := single s (.or f) (issueOr f s)

/-- Table 14.1. -/
def issueXor (f : SR) (s : State) : Except Trap State :=
  binS f 1 (· ^^^ ·) s
/-- Table 14.1. -/
def execXor (f : SR) (s : State) : Host.Outcome State Fault Refusal := single s (.xor f) (issueXor f s)

/-- Table 14.1. -/
def issueAndi (f : SI) (s : State) : Except Trap State :=
  immS f (· &&& ·) s
/-- Table 14.1. -/
def execAndi (f : SI) (s : State) : Host.Outcome State Fault Refusal := single s (.andi f) (issueAndi f s)

/-- Table 14.1. -/
def issueOri (f : SI) (s : State) : Except Trap State :=
  immS f (· ||| ·) s
/-- Table 14.1. -/
def execOri (f : SI) (s : State) : Host.Outcome State Fault Refusal := single s (.ori f) (issueOri f s)

/-- Table 14.1. -/
def issueXori (f : SI) (s : State) : Except Trap State :=
  immS f (· ^^^ ·) s
/-- Table 14.1. -/
def execXori (f : SI) (s : State) : Host.Outcome State Fault Refusal := single s (.xori f) (issueXori f s)

/-- R347. -/
def issueShl (f : SR) (s : State) : Except Trap State :=
  binS f 1 shiftL s
/-- R347. -/
def execShl (f : SR) (s : State) : Host.Outcome State Fault Refusal := single s (.shl f) (issueShl f s)

/-- R347. -/
def issueShli (f : SI) (s : State) : Except Trap State :=
  immS f shiftL s
/-- R347. -/
def execShli (f : SI) (s : State) : Host.Outcome State Fault Refusal := single s (.shli f) (issueShli f s)

/-- R347. -/
def issueShr (f : SR) (s : State) : Except Trap State :=
  binS f 1 shiftR s
/-- R347. -/
def execShr (f : SR) (s : State) : Host.Outcome State Fault Refusal := single s (.shr f) (issueShr f s)

/-- R347. -/
def issueShri (f : SI) (s : State) : Except Trap State :=
  immS f shiftR s
/-- R347. -/
def execShri (f : SI) (s : State) : Host.Outcome State Fault Refusal := single s (.shri f) (issueShri f s)

/-- R347. -/
def issueSar (f : SR) (s : State) : Except Trap State :=
  binS f 1 shiftA s
/-- R347. -/
def execSar (f : SR) (s : State) : Host.Outcome State Fault Refusal := single s (.sar f) (issueSar f s)

/-- R347. -/
def issueSari (f : SI) (s : State) : Except Trap State :=
  immS f shiftA s
/-- R347. -/
def execSari (f : SI) (s : State) : Host.Outcome State Fault Refusal := single s (.sari f) (issueSari f s)

/-- Table 14.1. -/
def issueMin (f : SR) (s : State) : Except Trap State :=
  binS f 1 (fun x y => if x.slt y then x else y) s
/-- Table 14.1. -/
def execMin (f : SR) (s : State) : Host.Outcome State Fault Refusal := single s (.min f) (issueMin f s)

/-- Table 14.1. -/
def issueMax (f : SR) (s : State) : Except Trap State :=
  binS f 1 (fun x y => if x.slt y then y else x) s
/-- Table 14.1. -/
def execMax (f : SR) (s : State) : Host.Outcome State Fault Refusal := single s (.max f) (issueMax f s)

/-- Table 14.1. -/
def issueMinb (f : SR) (s : State) : Except Trap State :=
  binS f 1 (fun x y => if x.ult y then x else y) s
/-- Table 14.1. -/
def execMinb (f : SR) (s : State) : Host.Outcome State Fault Refusal := single s (.minb f) (issueMinb f s)

/-- Table 14.1. -/
def issueMaxb (f : SR) (s : State) : Except Trap State :=
  binS f 1 (fun x y => if x.ult y then y else x) s
/-- Table 14.1. -/
def execMaxb (f : SR) (s : State) : Host.Outcome State Fault Refusal := single s (.maxb f) (issueMaxb f s)

/-- Table 14.1. -/
def issueClz (f : SR) (s : State) : Except Trap State :=
  unS f (fun x => BitVec.ofNat 64 (leadingZeros x)) s
/-- Table 14.1. -/
def execClz (f : SR) (s : State) : Host.Outcome State Fault Refusal := single s (.clz f) (issueClz f s)

/-- Table 14.1. -/
def issuePopc (f : SR) (s : State) : Except Trap State :=
  unS f (fun x => BitVec.ofNat 64 (setBits x)) s
/-- Table 14.1. -/
def execPopc (f : SR) (s : State) : Host.Outcome State Fault Refusal := single s (.popc f) (issuePopc f s)

/-- Table 14.1. -/
def issueBrev (f : SR) (s : State) : Except Trap State :=
  unS f BitVec.reverse s
/-- Table 14.1. -/
def execBrev (f : SR) (s : State) : Host.Outcome State Fault Refusal := single s (.brev f) (issueBrev f s)

/-- Table 14.1. -/
def issueExts (f : SR) (s : State) : Except Trap State :=
  unS f (fun x =>
    match f.fn.toNat with
    | 0 => (x.extractLsb' 0 8).signExtend 64
    | 1 => (x.extractLsb' 0 16).signExtend 64
    | _ => (x.extractLsb' 0 32).signExtend 64) s
/-- Table 14.1. -/
def execExts (f : SR) (s : State) : Host.Outcome State Fault Refusal := single s (.exts f) (issueExts f s)

/-- R347. -/
def issueBfx (f : SI) (s : State) : Except Trap State :=
  .ok (s.toS f.d 1 (bitField (s.srcS f.a) (f.imm.extractLsb' 0 6).toNat ((f.imm.extractLsb' 6 6).toNat + 1)))
/-- R347. -/
def execBfx (f : SI) (s : State) : Host.Outcome State Fault Refusal := single s (.bfx f) (issueBfx f s)

/-- R347. -/
def issueBfi (f : SI) (s : State) : Except Trap State :=
  let lsb := (f.imm.extractLsb' 0 6).toNat
  let m : W64 := BitVec.ofNat 64 (2 ^ ((f.imm.extractLsb' 6 6).toNat + 1) - 1) <<< lsb
  .ok (s.toS f.d 1 (blend (s.ctx.sreg f.d.toNat) (s.srcS f.a <<< lsb) m))
/-- R347. -/
def execBfi (f : SI) (s : State) : Host.Outcome State Fault Refusal := single s (.bfi f) (issueBfi f s)

/-- R349. -/
def issueSel (f : SR) (s : State) : Except Trap State :=
  binS f 1 (fun x y => if s.ctx.preg f.fn.toNat then x else y) s
/-- R349. -/
def execSel (f : SR) (s : State) : Host.Outcome State Fault Refusal := single s (.sel f) (issueSel f s)

/-- Table 14.1. -/
def issueMov (f : SR) (s : State) : Except Trap State :=
  unS f id s
/-- Table 14.1. -/
def execMov (f : SR) (s : State) : Host.Outcome State Fault Refusal := single s (.mov f) (issueMov f s)

/-! ## Compares, predicates, literals (R348 to R352) -/

/-- Whether a condition holds (Table 14.2). -/
def condition (code : Nat) (x y : W64) : Bool :=
  match code with
  | 0 => x == y
  | 1 => x != y
  | 2 => x.slt y
  | 3 => !x.slt y
  | 4 => x.ult y
  | 5 => !x.ult y
  | 6 => !y.slt x
  | 7 => y.slt x
  | 8 => !y.ult x
  | 9 => y.ult x
  | 10 => x &&& y != 0
  | _ => x &&& y == 0

/-- A predicate operation (R350). -/
def binP (f : SP) (g : Bool → Bool → Bool) (s : State) : Except Trap State :=
  let c := s.ctx
  .ok (s.toP f.pd.toNat
    (g (c.preg f.pa.toNat != f.fn.getLsbD 0) (c.preg f.pb.toNat != f.fn.getLsbD 1) != f.fn.getLsbD 2))


/-- R348. -/
def issueCmp (f : SR) (s : State) : Except Trap State :=
  .ok (s.toP f.d.toNat (condition f.fn.toNat (s.srcS f.a f.lit) (s.srcS f.b f.lit)))
/-- R348. -/
def execCmp (f : SR) (s : State) : Host.Outcome State Fault Refusal := single s (.cmp f) (issueCmp f s)

/-- R348. -/
def issueCmpi (f : SI) (s : State) : Except Trap State :=
  .ok (s.toP f.d.toNat (condition (f.imm.extractLsb' 9 3).toNat (s.srcS f.a) ((f.imm.extractLsb' 0 9).signExtend 64)))
/-- R348. -/
def execCmpi (f : SI) (s : State) : Host.Outcome State Fault Refusal := single s (.cmpi f) (issueCmpi f s)

/-- R350. -/
def issuePand (f : SP) (s : State) : Except Trap State :=
  binP f (· && ·) s
/-- R350. -/
def execPand (f : SP) (s : State) : Host.Outcome State Fault Refusal := single s (.pand f) (issuePand f s)

/-- R350. -/
def issuePor (f : SP) (s : State) : Except Trap State :=
  binP f (· || ·) s
/-- R350. -/
def execPor (f : SP) (s : State) : Host.Outcome State Fault Refusal := single s (.por f) (issuePor f s)

/-- R350. -/
def issuePxor (f : SP) (s : State) : Except Trap State :=
  binP f (· != ·) s
/-- R350. -/
def execPxor (f : SP) (s : State) : Host.Outcome State Fault Refusal := single s (.pxor f) (issuePxor f s)

/-- R350. -/
def issuePnot (f : SP) (s : State) : Except Trap State :=
  .ok (s.toP f.pd.toNat (!s.ctx.preg f.pa.toNat))
/-- R350. -/
def execPnot (f : SP) (s : State) : Host.Outcome State Fault Refusal := single s (.pnot f) (issuePnot f s)

/-- R352. -/
def issueMovl (f : SL) (s : State) : Except Trap State :=
  .ok (s.toS f.d 1
    (match f.width.toNat with
     | 0 => (s.lit f.word.toNat).setWidth 64
     | 1 => (s.lit f.word.toNat).signExtend 64
     | _ => s.lit64 f.word.toNat))
/-- R352. -/
def execMovl (f : SL) (s : State) : Host.Outcome State Fault Refusal := single s (.movl f) (issueMovl f s)

/-- R352. -/
def issueAlit (f : SL) (s : State) : Except Trap State :=
  .ok (s.toA f.d
    (match f.width.toNat with
     | 0 => (s.lit f.word.toNat).setWidth 72
     | 1 => (s.lit f.word.toNat).signExtend 72
     | 2 => (s.lit64 f.word.toNat).signExtend 72
     | _ => s.lit72))
/-- R352. -/
def execAlit (f : SL) (s : State) : Host.Outcome State Fault Refusal := single s (.alit f) (issueAlit f s)

/-- Table 14.3. -/
def issueAadd (f : SR) (s : State) : Except Trap State :=
  .ok (s.toA f.d (s.srcA f.a.toNat + (s.srcS f.b f.lit).signExtend 72))
/-- Table 14.3. -/
def execAadd (f : SR) (s : State) : Host.Outcome State Fault Refusal := single s (.aadd f) (issueAadd f s)

/-- Table 14.3. -/
def issueAaddi (f : SI) (s : State) : Except Trap State :=
  .ok (s.toA f.d (s.srcA f.a.toNat + f.imm.signExtend 72))
/-- Table 14.3. -/
def execAaddi (f : SI) (s : State) : Host.Outcome State Fault Refusal := single s (.aaddi f) (issueAaddi f s)

/-- Table 14.3. -/
def issueAmov (f : SR) (s : State) : Except Trap State :=
  .ok (match f.fn.toNat with
    | 0 => s.toA f.d ((s.srcS f.a f.lit).setWidth 72)
    | 1 => s.toA f.d ((s.srcS f.a f.lit).signExtend 72)
    | 2 => s.toS f.d 1 ((s.srcA f.a.toNat).extractLsb' 0 64)
    | 3 => s.toS f.d 1 (((s.srcA f.a.toNat).extractLsb' 64 8).setWidth 64)
    | _ => s.toA f.d (s.srcA f.a.toNat))
/-- Table 14.3. -/
def execAmov (f : SR) (s : State) : Host.Outcome State Fault Refusal := single s (.amov f) (issueAmov f s)

/-- Table 14.3. -/
def issueAdiff (f : SR) (s : State) : Except Trap State :=
  .ok (s.toS f.d 1 ((s.srcA f.a.toNat - s.srcA f.b.toNat).extractLsb' 0 64))
/-- Table 14.3. -/
def execAdiff (f : SR) (s : State) : Host.Outcome State Fault Refusal := single s (.adiff f) (issueAdiff f s)

/-! ## Memory accesses (R353 to R357) -/

/-- EA of an S.M access of a size. -/
def State.ea (s : State) (f : SM) (size : Nat) : W72 := s.srcA f.addr.toNat + f.off.signExtend 72 * BitVec.ofNat 72 size

/-- Bytes of an access size code. -/
def sizeBytes {n : Nat} (c : BitVec n) : Nat := 2 ^ (c.toNat % 4)

/-- A loaded value of n bytes, extended to 64 bits. -/
def extend (n : Nat) (signed : Bool) (x : Nat) : W64 :=
  if signed then (BitVec.ofNat (8 * n) x).signExtend 64 else BitVec.ofNat 64 x

/-- A load that takes a landing (R172, R173). -/
def State.landingLoad (s : State) (dest : LandDest) (pieces : List Piece) (land : Nat) (vec : Bool) : State :=
  let q := s.cur.seq
  s.issueLoad s.issue.die { id := 0, at_ := q.cycle, due := q.cycle + land, dest, pieces, vec, faddr := s.issue.addr }

/-- The byte of the alcove at an offset (08 R193). -/
def Ctxt.alcoveByte (c : Ctxt) (k : Nat) : Byte :=
  match c.alcove.get? k with
  | some b => b
  | none => match c.alcoveFree with | some n => Config.freeByte (n + k) | none => 0

/-- Byte offset of an alcove access (R356). -/
def alcoveOffset (f : SM) (size : Nat) : Nat := (f.off.toNat * 32 + f.addr.toNat) * size

/-- The gallery address of an aligned scalar access, or BAD_ADDR (R357). -/
def State.galleryEa (s : State) (f : SM) (size : Nat) : Except Trap Nat :=
  let ea := s.ea f size
  if ea.toNat < 2 ^ 26 ∧ ea.toNat % size = 0 then .ok ea.toNat else .error (s.precise .badAddr ea)

/-- Slot-port reads of gallery bytes fault precisely (R203, R205). -/
def State.readable (s : State) (addrs : List Nat) : Except Trap Unit :=
  match s.cur.firstFault (s.us s.issue.die) (rowsOf addrs) with
  | some (row, c) => .error (s.precise c (BitVec.ofNat 72 ((addrs.find? fun a => a / 256 == row).getD 0)))
  | none => .ok ()


/-- R354. -/
def issueLd (size : BitVec 3) (f : SM) (s : State) : Except Trap State :=
  .ok (s.landingLoad (.s f.reg.toNat (sizeBytes size) (size.getLsbD 2)) [{ va := s.ea f (sizeBytes size), len := sizeBytes size }]
    (4 * f.land.toNat) false)
/-- R354. -/
def execLd (size : BitVec 3) (f : SM) (s : State) : Host.Outcome State Fault Refusal := single s (.ld size f) (issueLd size f s)

/-- R354. -/
def issueLda (f : SM) (s : State) : Except Trap State :=
  .ok (s.landingLoad (.a f.reg.toNat) [{ va := s.ea f 16, len := 16 }] (4 * f.land.toNat) false)
/-- R354. -/
def execLda (f : SM) (s : State) : Host.Outcome State Fault Refusal := single s (.lda f) (issueLda f s)

/-- R355. -/
def issueSt (size : BitVec 2) (f : SM) (s : State) : Except Trap State :=
  let ea := s.ea f (sizeBytes size)
  .ok (s.issueStore s.issue.die ea (vaPlace ea (toLE (sizeBytes size) (s.srcS f.reg).toNat)) false)
/-- R355. -/
def execSt (size : BitVec 2) (f : SM) (s : State) : Host.Outcome State Fault Refusal := single s (.st size f) (issueSt size f s)

/-- R355. -/
def issueSta (f : SM) (s : State) : Except Trap State :=
  .ok (s.issueStore s.issue.die (s.ea f 16) (vaPlace (s.ea f 16) (toLE 16 (s.srcA f.reg.toNat).toNat)) false)
/-- R355. -/
def execSta (f : SM) (s : State) : Host.Outcome State Fault Refusal := single s (.sta f) (issueSta f s)

/-- R356. -/
def issueSpl (size : BitVec 3) (f : SM) (s : State) : Except Trap State :=
  let n := sizeBytes size
  let c := s.ctx
  .ok (s.toS f.reg 1 (extend n (size.getLsbD 2) (ofLE ((List.range n).map fun k => c.alcoveByte (alcoveOffset f n + k)))))
/-- R356. -/
def execSpl (size : BitVec 3) (f : SM) (s : State) : Host.Outcome State Fault Refusal := single s (.spl size f) (issueSpl size f s)

/-- R356. -/
def issueSps (size : BitVec 2) (f : SM) (s : State) : Except Trap State :=
  let n := sizeBytes size
  .ok (s.onCur fun d => d.onC fun c =>
    { c with alcove := (placeAt (alcoveOffset f n) (toLE n (s.srcS f.reg).toNat)).foldl (fun m w => m.set w.1 w.2) c.alcove })
/-- R356. -/
def execSps (size : BitVec 2) (f : SM) (s : State) : Host.Outcome State Fault Refusal := single s (.sps size f) (issueSps size f s)

/-- R357. -/
def issueGld (size : BitVec 3) (f : SM) (s : State) : Except Trap State :=
  let n := sizeBytes size
  match s.galleryEa f n with
  | .error t => .error t
  | .ok a =>
    match s.readable [a] with
    | .error t => .error t
    | .ok _ => .ok (s.toS f.reg 6 (extend n (size.getLsbD 2) (s.cur.gnat a n)))
/-- R357. -/
def execGld (size : BitVec 3) (f : SM) (s : State) : Host.Outcome State Fault Refusal := single s (.gld size f) (issueGld size f s)

/-- R357: the write is the S slot's, made after the reads of its bundle (15 R397). -/
def issueGst (size : BitVec 2) (f : SM) (s : State) : Except Trap State :=
  let n := sizeBytes size
  match s.galleryEa f n with
  | .error t => .error t
  | .ok a => .ok (s.slotWrite (placeAt a (toLE n (s.srcS f.reg).toNat)))
/-- R357: the write is the S slot's, made after the reads of its bundle (15 R397). -/
def execGst (size : BitVec 2) (f : SM) (s : State) : Host.Outcome State Fault Refusal := single s (.gst size f) (issueGst size f s)

/-! ## Control transfer (R358 to R365) -/

/-- Transfer control: the target, decided 3 cycles on; an active loop ends (R358), one that a handler suspends does not (DEDUCED,
assumption 34). -/
def State.jump (s : State) (target : Nat) : State :=
  s.onCur fun d => { d with c := { d.c with loop := if d.c.inHandler then d.c.loop else none }, seq := { d.seq with target := some (target, 3) } }
/-- An address a signed count of bytes away. -/
def awayFrom (a : Nat) (disp : Int) : Nat := (((a : Int) + disp) % 2 ^ 56).toNat
/-- Where a register's value transfers control: with bits 63:56 set it lies outside every bound (R360). -/
def regTarget (x : W64) : Nat := x.toNat


/-- R359. -/
def issueBr (f : SB) (s : State) : Except Trap State :=
  .ok (s.jump (awayFrom s.issue.addr f.disp.toInt))
/-- R359. -/
def execBr (f : SB) (s : State) : Host.Outcome State Fault Refusal := single s (.br f) (issueBr f s)

/-- R359. -/
def issueCall (f : SB) (s : State) : Except Trap State :=
  .ok ((s.toS 62 1 (BitVec.ofNat 64 s.issue.next)).jump (awayFrom s.issue.addr f.disp.toInt))
/-- R359. -/
def execCall (f : SB) (s : State) : Host.Outcome State Fault Refusal := single s (.call f) (issueCall f s)

/-- R360. -/
def issueRet (s : State) : Except Trap State :=
  .ok (s.jump (regTarget (s.ctx.sreg 62)))
/-- R360. -/
def execRet (s : State) : Host.Outcome State Fault Refusal := single s (.ret) (issueRet s)

/-- R360. -/
def issueJmpi (f : SR) (s : State) : Except Trap State :=
  let t := regTarget (s.srcS f.a f.lit)
  .ok ((if f.d = 0 then s else s.toS f.d 1 (BitVec.ofNat 64 s.issue.next)).jump t)
/-- R360. -/
def execJmpi (f : SR) (s : State) : Host.Outcome State Fault Refusal := single s (.jmpi f) (issueJmpi f s)

/-- R361, R362. -/
def issueLoop (f : SI) (s : State) : Except Trap State :=
  let d := s.cur
  let n := (f.imm.extractLsb' 0 7).toNat + 1
  let count (k : Nat) : Nat :=
    if k ≤ (f.imm.extractLsb' 7 2).toNat then ((d.c.sreg (f.a.toNat + k)).extractLsb' 0 32).toNat else 1
  let body := s.bundlesFrom d.seq.halfCur n s.issue.next
  let last := body.getLastD 0
  let (after, past) := s.nextBundle d.seq.halfCur last (bundleLen (s.homeByte last))
  if body.length ≠ n ∨ d.c.loop.isSome ∨ d.c.inHandler then .error (s.precise .illegal)
  else if count 0 * count 1 * count 2 = 0 then
    .ok (s.onCur fun d => { d with seq := { d.seq with target := some (after, 1), noFall := past } })
  else
    .ok (s.onCur fun d => d.onC fun c =>
      { c with loop := some { first := s.issue.next, last, after, c0 := count 0, c1 := count 1, c2 := count 2, index := 0,
                              pe := f.d.toNat } })
/-- R361, R362. -/
def execLoop (f : SI) (s : State) : Host.Outcome State Fault Refusal := single s (.loop f) (issueLoop f s)

/-- R364: the task completes its work before it ends; till then FEND is the next bundle. -/
def issueFend (s : State) : Except Trap State :=
  .ok (s.onCur fun d => d.onSeq fun q => { q with run := .ending, target := some (s.issue.addr, 1) })
/-- R364: the task completes its work before it ends; till then FEND is the next bundle. -/
def execFend (s : State) : Host.Outcome State Fault Refusal := single s (.fend) (issueFend s)

/-- R365. -/
def issueTstb (f : SR) (s : State) : Except Trap State :=
  let w := s.lit f.lit.toNat
  let mask : W64 := (w.extractLsb' 0 9).setWidth 64
  let branch (word : W64) : Except Trap State :=
    .ok (if (word &&& mask == 0) = f.fn.getLsbD 2 then s.jump (awayFrom s.issue.addr (w.extractLsb' 9 23).toInt) else s)
  match (f.fn.extractLsb' 0 2).toNat with
  | 0 =>
    match s.needTile (64 * f.d.toNat + f.a.toNat) with
    | .error t => .error t
    | .ok e =>
      let d := s.cur
      let poisoned : Bool := match e.status? with
        | some a => !d.expired (s.us s.issue.die) (a / 256) && (d.tags.get {} (a / 256)).poison
        | none => false
      if poisoned then .error (s.precise .poison) else branch (d.statusWord (s.us s.issue.die) e)
  | 1 => branch (s.ctx.zstat.get 0 f.a.toNat)
  | _ => branch s.ctx.vstat
/-- R365. -/
def execTstb (f : SR) (s : State) : Host.Outcome State Fault Refusal := single s (.tstb f) (issueTstb f s)

/-! ## Shapes (R366, R367) -/


/-- R366. -/
def issueSetshape (f : SR) (s : State) : Except Trap State :=
  let x := s.srcS f.a f.lit
  let req : W64 := x &&& 0x1FFFFFFFFFFFFFFF
  if 14 ≤ (x.extractLsb' 56 4).toNat then .error (s.precise .illegal)
  else if !x.getLsbD 60 then .ok (s.result 1 (.h f.d.toNat {}))
  else .ok (s.result 1 (.h f.d.toNat { req, grant := grantOf req 128 s.cur.colLim }))
/-- R366. -/
def execSetshape (f : SR) (s : State) : Host.Outcome State Fault Refusal := single s (.setshape f) (issueSetshape f s)

/-- R367. -/
def issueGetshape (f : SR) (s : State) : Except Trap State :=
  let h := s.ctx.hreg f.a.toNat
  .ok (s.toS f.d 1 (if f.fn = 0 then h.req else h.grant))
/-- R367. -/
def execGetshape (f : SR) (s : State) : Host.Outcome State Fault Refusal := single s (.getshape f) (issueGetshape f s)

/-! ## System registers (R368 to R371) -/

/-- A system register as SYSR reads it (Table 14.4); TRECBASE and LOGBASE are 72 bits wide. -/
def State.sysRead (s : State) (i x : Nat) : W72 :=
  let d := s.die i
  let c := d.c
  let w (v : W64) : W72 := v.setWidth 72
  match x with
  | 0x000 => BitVec.ofNat 72 (s.nid i)
  | 0x001 => w c.scm
  | 0x002 => w c.lxor
  | 0x003 => w c.lperm
  | 0x008 => w c.ctxbase
  | 0x009 => w c.ctxbound
  | 0x00A => w c.cbase
  | 0x00B => w c.gotbase
  | 0x010 => w c.tstatus
  | 0x011 => w c.tvec
  | 0x012 => c.trecbase
  | 0x013 => BitVec.ofNat 72 c.tdepth
  | 0x014 => c.cmdix.setWidth 72
  | 0x015 => c.logbase
  | 0x016 => w c.xwait
  | 0x020 => w c.rmode
  | 0x021 => w c.vstat
  | 0x022 => w c.chksb
  | 0x023 => w (c.wheel ||| packBits [(25, 8, s.wc % 256)])
  | 0x028 => w (packBits [(0, 17, c.lim), (17, 17, d.cap), (34, 1, b2n d.half), (35, 1, b2n d.halfOn)])
  | 0x029 => w (packBits [(0, 20, d.sum), (20, 20, d.peak)])
  | 0x02A =>
    let cls (b : Nat) : Nat := d.bankCls.get 0 b
    w (packBits ([(0, 12, d.temp.toNat), (12, 3, ((List.range 16).map cls).foldl max 0)]
      ++ (List.range 16).map fun b => (15 + 3 * b, 3, cls b)))
  | 0x030 => w d.fab.ftc
  | 0x031 => w d.cnt.cyc
  | 0x032 => w d.cnt.pfrz
  | 0x033 => w d.cnt.lfrz
  | 0x034 => w d.cnt.cfrz
  | 0x035 => w d.cnt.istl
  | 0x040 => w d.cnt.ibun
  | 0x041 => w d.cnt.inul
  | 0x042 => w d.cnt.icmd
  | 0x043 => w d.cnt.mbusy
  | 0x044 => w d.cnt.landn
  | 0x045 => w d.cnt.l1miss
  | 0x046 => w d.cnt.stalef
  | 0x047 => w d.cnt.hshort
  | _ => 0

/-- Whether a write of SCM, LXOR or LPERM keeps a valid binding (R369, 03 R76). -/
def State.bindingOk (s : State) (x : Nat) (v : W64) : Bool :=
  let c := s.ctx
  let mask := if x = 1 then (v.extractLsb' 0 14).toNat else c.mask
  let lxor := if x = 2 then (v.extractLsb' 0 14).toNat else c.lxor.toNat
  let lperm := if x = 3 then (v.extractLsb' 0 56).toNat else c.lperm.toNat
  let bound := match s.contexts.get? (s.ctxOn s.issue.die) with | some k => k.scm.toNat | none => 0
  subcubeValid mask lxor lperm && (x != 1 || (dimsOf mask).all bound.testBit)


/-- R368. -/
def issueSysr (f : SI) (s : State) : Except Trap State :=
  let v := s.sysRead s.issue.die f.imm.toNat
  .ok (if sysFile f.imm.toNat = some true then s.toA f.d v else s.toS f.d 1 (v.extractLsb' 0 64))
/-- R368. -/
def execSysr (f : SI) (s : State) : Host.Outcome State Fault Refusal := single s (.sysr f) (issueSysr f s)

/-- R368, R369; VSTAT is replaced before the flags of the bundle's other slots (11 R306). -/
def issueSysw (f : SI) (s : State) : Except Trap State :=
  let x := f.imm.toNat
  let v : W72 := if sysFile x = some true then s.srcA f.a.toNat else (s.srcS f.a).setWidth 72
  if x = 1 ∨ x = 2 ∨ x = 3 then
    if s.bindingOk x (v.extractLsb' 0 64) then .ok (s.result 1 (.sys x v)) else .error (s.precise .badBind)
  else if x = 0x021 then .ok (s.onCur fun d => d.sysWrite x v)
  else .ok (s.result 1 (.sys x v))
/-- R368, R369; VSTAT is replaced before the flags of the bundle's other slots (11 R306). -/
def execSysw (f : SI) (s : State) : Host.Outcome State Fault Refusal := single s (.sysw f) (issueSysw f s)

/-! ## Traps, identity, fences (R372 to R376) -/


/-- R372. -/
def issueTrap (f : SI) (s : State) : Except Trap State :=
  let va : W64 := s.srcS f.a + f.imm.signExtend 64
  .ok (s.onCur fun d => d.onSeq fun q => { q with soft := some (s.precise .soft (va.setWidth 72)) })
/-- R372. -/
def execTrap (f : SI) (s : State) : Host.Outcome State Fault Refusal := single s (.trap f) (issueTrap f s)

/-- R374. -/
def issueNode (f : SR) (s : State) : Except Trap State :=
  let c := s.ctx
  let w := widthOf c.mask
  let k := s.srcS f.a f.lit
  let x : W64 :=
    match f.fn.toNat with
    | 0 => BitVec.ofNat 64 s.lid
    | 1 => BitVec.ofNat 64 (s.nid s.issue.die)
    | 2 => BitVec.ofNat 64 w
    | 3 => BitVec.ofNat 64 (widthIn c.mask)
    | 4 => if k.toNat < w then BitVec.ofNat 64 (permOf c.lperm.toNat k.toNat) else 15
    | 5 => BitVec.ofNat 64 (s.lid / 2 ^ widthIn c.mask)
    | _ => if k.toNat < w then BitVec.ofNat 64 (s.lid ^^^ 2 ^ k.toNat) else -1
  .ok (s.toS f.d 1 x)
/-- R374. -/
def execNode (f : SR) (s : State) : Host.Outcome State Fault Refusal := single s (.node f) (issueNode f s)

/-- Commands that read memory: at DIE scope a write is performed at its issue, a read is not (09 Table 9.1). -/
def readsMem : Instr → Bool
  | .cpy _ | .cpym _ | .tld _ | .tred _ | .amo _ | .cas _ | .acq _ | .rel _ | .waita _ | .scld _ => true
  | _ => false

/-- R375, 09 R227: later memory accesses wait for the halves asked for. -/
def issueFence (f : SR) (s : State) : Except Trap State :=
  let d := s.cur
  let scope := (f.fn.extractLsb' 0 2).toNat
  let ids := if f.fn.getLsbD 2 then (if scope = 0 then [] else d.seq.stores.map (·.id)) ++ (d.seq.landings.filter fun l => l.data.isNone).map (·.id) else []
  let cmds := if f.fn.getLsbD 2 then ((d.c.copyQ0 ++ d.c.copyQ1).filter fun k => scope != 0 || readsMem k.instr).map (·.cmdix) else []
  .ok (s.onCur fun d => d.onSeq fun q => { q with memWait := q.memWait ++ [.fence ids cmds scope (f.fn.getLsbD 3)] })
/-- R375, 09 R227: later memory accesses wait for the halves asked for. -/
def execFence (f : SR) (s : State) : Host.Outcome State Fault Refusal := single s (.fence f) (issueFence f s)

/-- R376. -/
def issueNop (s : State) : Except Trap State :=
  .ok s
/-- R376. -/
def execNop (s : State) : Host.Outcome State Fault Refusal := single s (.nop) (issueNop s)

/-- R373, 10 R257; an unreadable record fails the context. -/
def issueTret (s : State) : Except Trap State :=
  let d := s.cur
  let i := s.issue.die
  if !d.c.inHandler then .error (s.precise .badTret)
  else
    match s.readRecord with
    | .wait s' => .ok s'
    | .fault _ _ => .ok (s.failContext i .recFault)
    | .ok (s', rec) =>
      match tretWord (BitVec.ofNat 64 (field rec 56 8)) with
      | none => .error (s.precise .badTret)
      | some (h, preds) => .ok (s'.onCur fun d => d.tret h preds (field rec 16 8))
/-- R373, 10 R257; an unreadable record fails the context. -/
def execTret (s : State) : Host.Outcome State Fault Refusal := single s (.tret) (issueTret s)

end Sys2Proof.Machine
end

