-- ==== Sys2Proof/Machine/Vector.lean ====
section
/-! DEFINITION. The V slots (15): lane operations, width changes, permutes, reductions, and vector accesses to memory and to
the gallery. -/

namespace Sys2Proof.Machine

/-! ## Lanes of an operation (R377, R378) -/

/-- The enabled lanes of a V.R operation at width w among those of its shape. -/
def State.lanesOf (s : State) (h : Shape) (w : Nat) (mask : BitVec 3) : List Nat :=
  let n := activeLanes h w
  (List.range n).filter fun l => s.ctx.enabled n mask.toNat l

/-- Bit l of a k register as a source: k0 is the active lanes (07 R187). -/
def Ctxt.kbit (c : Ctxt) (n k l : Nat) : Bool := if k = 0 then l < n else (c.k.get 0 k).getLsbD l

/-- Write lane values with their flags to a v register. -/
def State.toV (s : State) (vd : BitVec 5) (lat w : Nat) (rs : List (Nat × Nat × Flags)) : State :=
  (s.flag (rs.foldl (fun f r => f ||| r.2.2) 0)).result lat
    (.v vd.toNat (laneBits w (rs.map fun r => (r.1, r.2.1))) (laneMask w (rs.map (·.1))))

/-- An operation whose enabled lane l is `g l`. -/
def State.lanewise (s : State) (f : VR) (lat : Nat) (g : Nat → Nat × Flags) : Except Trap State :=
  match s.needShape f.shape with
  | .error t => .error t
  | .ok h =>
    let w := typeWidth f.type
    .ok (s.toV f.vd lat w ((s.lanesOf h w f.mask).map fun l => (l, g l)))

/-- Source lane l at the operation's width. -/
def State.lane (s : State) (f : VR) (src : BitVec 5) (l : Nat) : Nat :=
  let w := typeWidth f.type
  laneGet (s.srcV src f.lit w) w l

/-! ## Integer lanes (R381, R382) -/

/-- Two lanes as integers, the result at the width. -/
def State.intLanes (s : State) (f : VR) (u : Bool) (g : Int → Int → Int × Flags) : Except Trap State :=
  s.lanewise f 2 fun l =>
    let (x, fl) := g (intOf f.type u (s.lane f f.va l)) (intOf f.type u (s.lane f f.vb l))
    (bitsOf (typeWidth f.type) x, fl)


/-- Bitwise lanes. -/
def State.bitLanes (s : State) (f : VR) (g : Nat → Nat → Nat) : Except Trap State :=
  s.lanewise f 2 fun l => (g (s.lane f f.va l) (s.lane f f.vb l), 0)

/-- A shift of x by n in w bits (R382). -/
def laneShift (w : Nat) (kind : Nat) (x n : Nat) : Nat :=
  match kind with
  | 0 => if w ≤ n then 0 else x * 2 ^ n % 2 ^ w
  | 1 => if w ≤ n then 0 else x / 2 ^ n
  | _ => bitsOf w ((BitVec.ofNat w x).toInt / (2 ^ min n w : Nat))

/-! ## Floating lanes (R385 to R387) -/

/-- RMODE's mode. -/
def modeOf (rmode : W64) : Mode := Mode.ofCode (rmode.extractLsb' 0 3)

/-- The draw of an operation that rounds under RMODE, and the state after it (11 R290): 32 steps under STO. -/
def State.draw (s : State) : BitVec 32 × State :=
  let r := s.ctx.rmode
  if modeOf r = .sto then
    let x := lfsrSteps 32 (r.extractLsb' 32 32)
    (x, s.onCur fun d => d.onC fun c => { c with rmode := x ++ r.extractLsb' 0 32 })
  else (0, s)

/-- An operation that rounds under RMODE and may draw: nothing, draw included, where the shape grants no lanes (R377). -/
def State.roundLanes (s : State) (f : VR) (lat : Nat) (g : Fmt → Mode → Nat → Nat → Nat × Flags) : Except Trap State :=
  match s.needShape f.shape, fmtOf f.type with
  | .error t, _ => .error t
  | .ok _, none => .error (s.precise .illegal)
  | .ok h, some F =>
    if activeLanes h (typeWidth f.type) = 0 then .ok s
    else
      let (x, s') := s.draw
      s'.lanewise f lat fun l => g F (modeOf s.ctx.rmode) (drawQ x l) l

/-- A result rounded, with the flags met on the way. -/
def roundWith (F : Fmt) (mode : Mode) (q : Nat) (v : Exact) (f : Flags) : Nat × Flags :=
  let (r, g) := F.round mode q v
  (r, f ||| g)

/-- x + y, rounded. -/
def fpAdd (F : Fmt) (mode : Mode) (q : Nat) (x y : Num) : Nat × Flags :=
  let (v, f) := sumNum mode [x, y]
  roundWith F mode q v f
/-- x × y, rounded. -/
def fpMul (F : Fmt) (mode : Mode) (q : Nat) (x y : Num) : Nat × Flags :=
  let (p, f) := x.mul y
  roundWith F mode q (Exact.ofNum p) f
/-- x × y + z, rounded once; IV is for a NaN that comes from no NaN (11 R286). -/
def fpFma (F : Fmt) (mode : Mode) (q : Nat) (x y z : Num) : Nat × Flags :=
  let (p, f) := x.mul y
  let (v, g) := sumNum mode [p, z]
  roundWith F mode q v (if z.isNan then g else f ||| g)

/-- VRCP, VRSQ, VEXP2, VLOG2 of a value (Table 15.2). -/
def approx (kind : Nat) (x : Num) : Exact × Flags :=
  match kind, x with
  | _, .nan => (.nan, 0)
  | 0, .inf n => (.zero n, 0)
  | 0, .fin n m e => if m = 0 then (.inf n, fDZ) else (recip n m e, 0)
  | 1, .inf n => if n then (.nan, fIV) else (.zero false, 0)
  | 1, .fin n m e => if m = 0 then (.inf n, fDZ) else if n then (.nan, fIV) else (rsqrt (m * pow2 e) (pow2 (-e)), 0)
  | 2, .inf n => if n then (.zero false, 0) else (.inf false, 0)
  | 2, .fin n m e => if m = 0 then (.rat false 1 1, 0) else (exp2 n m e, 0)
  | _, .inf n => if n then (.nan, fIV) else (.inf false, 0)
  | _, .fin n m e => if m = 0 then (.inf true, fDZ) else if n then (.nan, fIV) else (log2 m e, 0)

/-- Lanes of one of the approximations. -/
def State.approxLanes (s : State) (f : VR) (kind : Nat) : Except Trap State :=
  s.roundLanes f 8 fun F mode q l =>
    let (v, fl) := approx kind (F.decode (s.lane f f.va l))
    roundWith F mode q v fl

/-- Lanes of VFMIN or VFMAX. -/
def State.pickLanes (s : State) (f : VR) (wantMax : Bool) : Except Trap State :=
  match fmtOf f.type with
  | none => .error (s.precise .illegal)
  | some F => s.lanewise f 4 fun l => selectNum F wantMax (s.lane f f.va l) (s.lane f f.vb l)

/-! ## Widths (R383) -/

/-- (source lane, result lane) pairs that take part, with the mask bit of the result lane. -/
def State.widthPairs (s : State) (h : Shape) (mask : BitVec 3) (ws wd part : Nat) : List (Nat × Nat) :=
  let pairs : List (Nat × Nat × Nat) :=
    if wd = ws then (List.range (2048 / wd)).map fun l => (l, l, l)
    else if ws < wd then (List.range (2048 / wd)).map fun l => (part * (2048 / wd) + l, l, part * (2048 / wd) + l)
    else (List.range (2048 / ws)).map fun i => (i, part * (2048 / ws) + i, part * (2048 / ws) + i)
  (pairs.filter fun p => p.2.2 < h.lanes && (mask == 0 || (s.ctx.k.get 0 mask.toNat).getLsbD p.2.1)).map fun p => (p.1, p.2.1)

/-- A width-changing operation: `g` takes the source bits and the result lane. -/
def State.rewidth (s : State) (f : VR) (lat ws wd part : Nat) (g : Nat → Nat → Nat × Flags) : Except Trap State :=
  match s.needShape f.shape with
  | .error t => .error t
  | .ok h =>
    let src := s.srcV f.va f.lit ws
    .ok (s.toV f.vd lat wd ((s.widthPairs h f.mask ws wd part).map fun p => (p.2, g (laneGet src ws p.1) p.2)))

/-! ## Permutes and reductions (R391 to R393) -/

/-- A permute: `g` is given N, the control and the lane. -/
def State.permute (s : State) (f : VR) (control : BitVec 5) (g : Nat → Nat → Nat → Nat) : Except Trap State :=
  match s.needShape f.shape with
  | .error t => .error t
  | .ok h =>
    let n := activeLanes h (typeWidth f.type)
    let c := s.lane f control 0
    s.lanewise f 3 fun l => (g n c l, 0)

/-- One level of the tree of VREDA (R392). -/
def reduceLevel (F : Fmt) (mode : Mode) (x : BitVec 32) (v : Nat) : Nat → List (Option Nat) → List (Option Nat) × Flags
  | i, a :: b :: r =>
    let (c, f) : Option Nat × Flags :=
      match a, b with
      | none, y => (y, 0)
      | y, none => (y, 0)
      | some y, some z =>
        let (u, f) := fpAdd F mode (drawQ x (2048 * v + i)) (F.decode y) (F.decode z)
        (some u, f)
    let (r', f') := reduceLevel F mode x v (i + 1) r
    (c :: r', f ||| f')
  | _, xs => (xs, 0)

/-- The tree, level after level. -/
def reduceTree (F : Fmt) (mode : Mode) (x : BitVec 32) : Nat → Nat → List (Option Nat) → Option Nat × Flags
  | 0, _, xs => ((xs.head?.getD none), 0)
  | fuel + 1, v, xs =>
    if xs.length ≤ 1 then ((xs.head?.getD none), 0)
    else
      let (ys, f) := reduceLevel F mode x v 0 xs
      let (r, g) := reduceTree F mode x fuel (v + 1) ys
      (r, f ||| g)

/-- The sum of VREDA on a floating type: lanes not enabled are absent; a NaN that met no addition is made canonical (11 R286). -/
def reduceSum (F : Fmt) (mode : Mode) (x : BitVec 32) (lanes : List (Option Nat)) : Nat × Flags :=
  match reduceTree F mode x 12 1 lanes with
  | (some r, f) => (match F.decode r with | .nan => (F.canon, f ||| fNAN) | _ => (r, f))
  | (none, _) => (0, 0)

/-! ## Accesses (R394 to R399) -/

/-- The 8-bit or wider units of a contiguous or strided access: of 4-bit types, bytes taken whole (R394). -/
def accessWidth (t : BitVec 4) : Nat := max 8 (typeWidth t)

/-- The units accessed: lanes, or bytes whose even lane is enabled. -/
def State.units (s : State) (h : Shape) (mask : BitVec 3) : List Nat :=
  let w := typeWidth h.type
  let ls := s.lanesOf h w mask
  if w = 4 then (ls.filter fun l => l % 2 == 0).map fun l => l / 2 else ls

/-- EA of a V.M access (R394). -/
def State.vea (s : State) (f : VM) : W72 := s.srcA f.addr.toNat + f.off.signExtend 72 * 64

/-- Bytes to store of units of a register: (offset of the unit, bytes). -/
def unitBytes (x : Vec) (w : Nat) (us : List Nat) : List (Nat × List Byte) := us.map fun u => (u, toLE (w / 8) (laneGet x w u))

/-- Bytes of units placed at addresses; where they overlap, the later stands. -/
def lastWins : List (Nat × Byte) → List (Nat × Byte)
  | [] => []
  | w :: r => if r.any fun x => x.1 == w.1 then lastWins r else w :: lastWins r

/-- The gallery addresses of units of a contiguous access in space 1, or BAD_ADDR (R396). -/
def State.galleryUnits (s : State) (ea : W72) (w : Nat) (us : List Nat) : Except Trap (List (Nat × Nat)) :=
  let as := us.map fun u => (u, ea.toNat + u * (w / 8))
  match as.find? fun a => 2 ^ 26 < a.2 + w / 8 with
  | some a => .error (s.precise .badAddr (BitVec.ofNat 72 a.2))
  | none => .ok as

/-- The shape of a V.M operation and its EA, checked (R394, R377, 19 R474). -/
def State.vmShape (s : State) (f : VM) : Except Trap (Shape × W72) :=
  match s.needShape f.shape with
  | .error t => .error t
  | .ok h =>
    let ea := s.vea f
    if 14 ≤ h.type.toNat then .error (s.precise .illegal)
    else if h.lanes ≠ 0 ∧ ea.toNat % (accessWidth h.type / 8) ≠ 0 then .error (s.precise .badAddr ea)
    else .ok (h, ea)

/-- Lane addresses of a strided access (R398): checked. -/
def State.strided (s : State) (f : VM) : Except Trap (Shape × List (Nat × W72)) :=
  match s.needShape f.shape with
  | .error t => .error t
  | .ok h =>
    let w := typeWidth h.type
    let stride : W72 := ((s.ctx.areg (f.addr.toNat + 1)).extractLsb' 0 32).signExtend 72
    let as := (s.lanesOf h w f.mask).map fun l => (l, s.vea f + BitVec.ofNat 72 l * stride)
    if w < 8 ∨ 14 ≤ h.type.toNat then .error (s.precise .illegal)
    else
      match as.find? fun a => a.2.toNat % (w / 8) != 0 with
      | some a => .error (s.precise .badAddr a.2)
      | none => .ok (h, as)

/-- More than 4 distinct rows of one bank (R399). -/
def crowded (addrs : List Nat) : Bool :=
  let rows := rowsOf addrs
  (List.range 16).any fun b => 4 < (rows.filter fun r => r / 2 ^ 14 == b).length

/-- Lane addresses of a gather or scatter (R399): checked but for the rows' state. -/
def State.gathered (s : State) (f : VR) : Except Trap (List (Nat × Nat)) :=
  match s.needShape f.shape with
  | .error t => .error t
  | .ok h =>
    let w := typeWidth f.type
    let n := w / 8
    let b := laneGet (s.srcV f.va f.lit 32) 32 0
    let idx (l : Nat) : Nat := if l < 64 then laneGet (s.srcV f.vb f.lit 32) 32 l else laneGet (s.srcV f.vc f.lit 32) 32 (l - 64)
    let as := (s.lanesOf h w f.mask).map fun l => (l, (b + idx l * n) % 2 ^ 32)
    if activeLanes h w = 0 then .ok []
    else if b % n ≠ 0 then .error (s.precise .badAddr (BitVec.ofNat 72 b))
    else
      match as.find? fun a => 2 ^ 26 ≤ a.2 with
      | some a => .error (s.precise .badAddr (BitVec.ofNat 72 a.2))
      | none =>
        if crowded (as.map (·.2)) then .error (s.precise .badAddr (BitVec.ofNat 72 b)) else .ok as


/-! ## V.R operations (Table 15.1) -/

/-- R381. -/
def issueVadd (f : VR) (s : State) : Except Trap State :=
  s.intLanes f false fun x y => (x + y, 0)
/-- R381. -/
def execVadd (f : VR) (s : State) : Host.Outcome State Fault Refusal := single s (.vadd f) (issueVadd f s)

/-- R381. -/
def issueVsub (f : VR) (s : State) : Except Trap State :=
  s.intLanes f false fun x y => (x - y, 0)
/-- R381. -/
def execVsub (f : VR) (s : State) : Host.Outcome State Fault Refusal := single s (.vsub f) (issueVsub f s)

/-- R381. -/
def issueVmul (f : VR) (s : State) : Except Trap State :=
  s.intLanes f false fun x y => (x * y, 0)
/-- R381. -/
def execVmul (f : VR) (s : State) : Host.Outcome State Fault Refusal := single s (.vmul f) (issueVmul f s)

/-- R381. -/
def issueVmulh (f : VR) (s : State) : Except Trap State :=
  s.intLanes f (f.vc.getLsbD 0) fun x y => (x * y / (2 ^ typeWidth f.type : Nat), 0)
/-- R381. -/
def execVmulh (f : VR) (s : State) : Host.Outcome State Fault Refusal := single s (.vmulh f) (issueVmulh f s)

/-- R381. -/
def issueVmac (f : VR) (s : State) : Except Trap State :=
  s.lanewise f 2 fun l =>
    let i (r : BitVec 5) : Int := intOf f.type false (s.lane f r l)
    (bitsOf (typeWidth f.type) (i f.va * i f.vb + i f.vc), 0)
/-- R381. -/
def execVmac (f : VR) (s : State) : Host.Outcome State Fault Refusal := single s (.vmac f) (issueVmac f s)

/-- R381. -/
def issueVadds (f : VR) (s : State) : Except Trap State :=
  s.intLanes f (f.vc.getLsbD 0) fun x y => clampTo (intRange f.type (f.vc.getLsbD 0)) (x + y)
/-- R381. -/
def execVadds (f : VR) (s : State) : Host.Outcome State Fault Refusal := single s (.vadds f) (issueVadds f s)

/-- R381. -/
def issueVsubs (f : VR) (s : State) : Except Trap State :=
  s.intLanes f (f.vc.getLsbD 0) fun x y => clampTo (intRange f.type (f.vc.getLsbD 0)) (x - y)
/-- R381. -/
def execVsubs (f : VR) (s : State) : Host.Outcome State Fault Refusal := single s (.vsubs f) (issueVsubs f s)

/-- R382. -/
def issueVshl (f : VR) (s : State) : Except Trap State :=
  s.bitLanes f (laneShift (typeWidth f.type) 0)
/-- R382. -/
def execVshl (f : VR) (s : State) : Host.Outcome State Fault Refusal := single s (.vshl f) (issueVshl f s)

/-- R382. -/
def issueVshr (f : VR) (s : State) : Except Trap State :=
  s.bitLanes f (laneShift (typeWidth f.type) 1)
/-- R382. -/
def execVshr (f : VR) (s : State) : Host.Outcome State Fault Refusal := single s (.vshr f) (issueVshr f s)

/-- R382. -/
def issueVsar (f : VR) (s : State) : Except Trap State :=
  s.bitLanes f (laneShift (typeWidth f.type) 2)
/-- R382. -/
def execVsar (f : VR) (s : State) : Host.Outcome State Fault Refusal := single s (.vsar f) (issueVsar f s)

/-- R381. -/
def issueVand (f : VR) (s : State) : Except Trap State :=
  s.bitLanes f (· &&& ·)
/-- R381. -/
def execVand (f : VR) (s : State) : Host.Outcome State Fault Refusal := single s (.vand f) (issueVand f s)

/-- R381. -/
def issueVor (f : VR) (s : State) : Except Trap State :=
  s.bitLanes f (· ||| ·)
/-- R381. -/
def execVor (f : VR) (s : State) : Host.Outcome State Fault Refusal := single s (.vor f) (issueVor f s)

/-- R381. -/
def issueVxor (f : VR) (s : State) : Except Trap State :=
  s.bitLanes f (· ^^^ ·)
/-- R381. -/
def execVxor (f : VR) (s : State) : Host.Outcome State Fault Refusal := single s (.vxor f) (issueVxor f s)

/-- R381. -/
def issueVmin (f : VR) (s : State) : Except Trap State :=
  s.intLanes f (f.vc.getLsbD 0) fun x y => (min x y, 0)
/-- R381. -/
def execVmin (f : VR) (s : State) : Host.Outcome State Fault Refusal := single s (.vmin f) (issueVmin f s)

/-- R381. -/
def issueVmax (f : VR) (s : State) : Except Trap State :=
  s.intLanes f (f.vc.getLsbD 0) fun x y => (max x y, 0)
/-- R381. -/
def execVmax (f : VR) (s : State) : Host.Outcome State Fault Refusal := single s (.vmax f) (issueVmax f s)

/-- R381. -/
def issueVabs (f : VR) (s : State) : Except Trap State :=
  s.lanewise f 2 fun l =>
    let (x, fl) := clampTo (intRange f.type false) ((intOf f.type false (s.lane f f.va l)).natAbs : Int)
    (bitsOf (typeWidth f.type) x, fl)
/-- R381. -/
def execVabs (f : VR) (s : State) : Host.Outcome State Fault Refusal := single s (.vabs f) (issueVabs f s)

/-- R384. -/
def issueVwiden (f : VR) (s : State) : Except Trap State :=
  let w := typeWidth f.type
  s.rewidth f 2 w (2 * w) (f.vb.toNat % 2) fun x _ => (bitsOf (2 * w) (intOf f.type (f.vc.getLsbD 0) x), 0)
/-- R384. -/
def execVwiden (f : VR) (s : State) : Host.Outcome State Fault Refusal := single s (.vwiden f) (issueVwiden f s)

/-- R384: with SAT the source is read with the signedness of the result. -/
def issueVnarrow (f : VR) (s : State) : Except Trap State :=
  let w := typeWidth f.type
  let u := f.vc.getLsbD 0
  s.rewidth f 2 (2 * w) w (f.vb.toNat % 2) fun x _ =>
    if f.vc.getLsbD 1 then
      narrowSat (2 * w) f.type u x
    else (x % 2 ^ w, 0)
/-- R384: with SAT the source is read with the signedness of the result. -/
def execVnarrow (f : VR) (s : State) : Host.Outcome State Fault Refusal := single s (.vnarrow f) (issueVnarrow f s)

/-- R385. -/
def issueVfadd (f : VR) (s : State) : Except Trap State :=
  s.roundLanes f 4 fun F m q l => fpAdd F m q (F.decode (s.lane f f.va l)) (F.decode (s.lane f f.vb l))
/-- R385. -/
def execVfadd (f : VR) (s : State) : Host.Outcome State Fault Refusal := single s (.vfadd f) (issueVfadd f s)

/-- R385. -/
def issueVfsub (f : VR) (s : State) : Except Trap State :=
  s.roundLanes f 4 fun F m q l => fpAdd F m q (F.decode (s.lane f f.va l)) (F.decode (s.lane f f.vb l)).negate
/-- R385. -/
def execVfsub (f : VR) (s : State) : Host.Outcome State Fault Refusal := single s (.vfsub f) (issueVfsub f s)

/-- R385. -/
def issueVfmul (f : VR) (s : State) : Except Trap State :=
  s.roundLanes f 4 fun F m q l => fpMul F m q (F.decode (s.lane f f.va l)) (F.decode (s.lane f f.vb l))
/-- R385. -/
def execVfmul (f : VR) (s : State) : Host.Outcome State Fault Refusal := single s (.vfmul f) (issueVfmul f s)

/-- R385. -/
def issueVfma (f : VR) (s : State) : Except Trap State :=
  s.roundLanes f 4 fun F m q l =>
    fpFma F m q (F.decode (s.lane f f.va l)) (F.decode (s.lane f f.vb l)) (F.decode (s.lane f f.vc l))
/-- R385. -/
def execVfma (f : VR) (s : State) : Host.Outcome State Fault Refusal := single s (.vfma f) (issueVfma f s)

/-- R385. -/
def issueVfmin (f : VR) (s : State) : Except Trap State :=
  s.pickLanes f false
/-- R385. -/
def execVfmin (f : VR) (s : State) : Host.Outcome State Fault Refusal := single s (.vfmin f) (issueVfmin f s)

/-- R385. -/
def issueVfmax (f : VR) (s : State) : Except Trap State :=
  s.pickLanes f true
/-- R385. -/
def execVfmax (f : VR) (s : State) : Host.Outcome State Fault Refusal := single s (.vfmax f) (issueVfmax f s)

/-- R386. -/
def issueVfsgn (f : VR) (s : State) : Except Trap State :=
  match fmtOf f.type with
  | none => .error (s.precise .illegal)
  | some F =>
    s.lanewise f 4 fun l =>
      let x := s.lane f f.va l
      let y := s.lane f f.vb l
      let sx := x.testBit F.low
      let sy := y.testBit F.low
      let neg := match f.vc.toNat with
        | 0 => sy
        | 1 => !sy
        | _ => sx != sy
      if (F.decode x).isNan || (F.decode y).isNan then (F.canon, fNAN) else (F.pack neg (x % 2 ^ F.low), 0)
/-- R386. -/
def execVfsgn (f : VR) (s : State) : Host.Outcome State Fault Refusal := single s (.vfsgn f) (issueVfsgn f s)

/-- R387, Table 15.2. -/
def issueVrcp (f : VR) (s : State) : Except Trap State :=
  s.approxLanes f 0
/-- R387, Table 15.2. -/
def execVrcp (f : VR) (s : State) : Host.Outcome State Fault Refusal := single s (.vrcp f) (issueVrcp f s)

/-- R387, Table 15.2. -/
def issueVrsq (f : VR) (s : State) : Except Trap State :=
  s.approxLanes f 1
/-- R387, Table 15.2. -/
def execVrsq (f : VR) (s : State) : Host.Outcome State Fault Refusal := single s (.vrsq f) (issueVrsq f s)

/-- R387, Table 15.2. -/
def issueVexp2 (f : VR) (s : State) : Except Trap State :=
  s.approxLanes f 2
/-- R387, Table 15.2. -/
def execVexp2 (f : VR) (s : State) : Host.Outcome State Fault Refusal := single s (.vexp2 f) (issueVexp2 f s)

/-- R387, Table 15.2. -/
def issueVlog2 (f : VR) (s : State) : Except Trap State :=
  s.approxLanes f 3
/-- R387, Table 15.2. -/
def execVlog2 (f : VR) (s : State) : Host.Outcome State Fault Refusal := single s (.vlog2 f) (issueVlog2 f s)

/-- R388; it draws whatever its types (11 R290), and between integer types it does as VWIDEN and VNARROW with SAT do (R384). -/
def issueVcvt (f : VR) (s : State) : Except Trap State :=
  match s.needShape f.shape with
  | .error t => .error t
  | .ok h =>
    let st := f.vc.extractLsb' 0 4
    if h.lanes = 0 then .ok s
    else
      let (x, s') := s.draw
      s'.rewidth f 4 (typeWidth st) (typeWidth f.type) (f.vb.extractLsb' 0 3).toNat fun b l =>
        convertLane (modeOf s.ctx.rmode) (drawQ x l) st (f.vb.getLsbD 3) f.type (f.vb.getLsbD 4) b
/-- R388; it draws whatever its types (11 R290), and between integer types it does as VWIDEN and VNARROW with SAT do (R384). -/
def execVcvt (f : VR) (s : State) : Host.Outcome State Fault Refusal := single s (.vcvt f) (issueVcvt f s)

/-- R389. -/
def issueVcmp (f : VR) (s : State) : Except Trap State :=
  match s.needShape f.shape with
  | .error t => .error t
  | .ok h =>
    let ls := s.lanesOf h (typeWidth f.type) f.mask
    let code := (f.vc.extractLsb' 1 3).toNat
    let holds (l : Nat) : Bool × Flags :=
      match fmtOf f.type with
      | none =>
        let x := intOf f.type (f.vc.getLsbD 0) (s.lane f f.va l)
        let y := intOf f.type (f.vc.getLsbD 0) (s.lane f f.vb l)
        (match code with | 0 => x == y | 1 => x != y | 2 => decide (x < y) | 3 => decide (x ≤ y) | 4 => decide (y < x) | _ => decide (y ≤ x), 0)
      | some F =>
        let x := F.decode (s.lane f f.va l)
        let y := F.decode (s.lane f f.vb l)
        let un := x.isNan || y.isNan
        (match code with
         | 0 => !un && x.eqv y
         | 1 => un || !x.eqv y
         | 2 => !un && x.lt y
         | 3 => !un && !y.lt x
         | 4 => !un && y.lt x
         | 5 => !un && !x.lt y
         | 6 => un
         | _ => !un,
         if un && 2 ≤ code && code ≤ 5 then fIV else 0)
    let rs := ls.map fun l => (l, holds l)
    .ok ((s.flag (rs.foldl (fun fl r => fl ||| r.2.2) 0)).result 4
      (.k f.vd.toNat (BitVec.ofNat 512 ((rs.map fun r => b2n r.2.1 * 2 ^ r.1).sum)) (BitVec.ofNat 512 ((ls.map fun l => 2 ^ l).sum))))
/-- R389. -/
def execVcmp (f : VR) (s : State) : Host.Outcome State Fault Refusal := single s (.vcmp f) (issueVcmp f s)

/-- R390. -/
def issueVsel (f : VR) (s : State) : Except Trap State :=
  match s.needShape f.shape with
  | .error t => .error t
  | .ok h =>
    let n := activeLanes h (typeWidth f.type)
    s.lanewise f 2 fun l => (if s.ctx.kbit n f.vc.toNat l then s.lane f f.va l else s.lane f f.vb l, 0)
/-- R390. -/
def execVsel (f : VR) (s : State) : Host.Outcome State Fault Refusal := single s (.vsel f) (issueVsel f s)

/-- R390. -/
def issueKop (f : VR) (s : State) : Except Trap State :=
  match s.needShape f.shape with
  | .error t => .error t
  | .ok h =>
    let n := activeLanes h (typeWidth f.type)
    let ls := s.lanesOf h (typeWidth f.type) f.mask
    let a (l : Nat) : Bool := s.ctx.kbit n f.va.toNat l
    let b (l : Nat) : Bool := s.ctx.kbit n f.vb.toNat l
    let first := ls.find? a
    let bit (l : Nat) : Bool :=
      match f.vc.toNat with
      | 0 => a l && b l
      | 1 => a l || b l
      | 2 => a l != b l
      | 3 => a l && !b l
      | 4 => !a l
      | 5 => a l
      | 6 => first == some l
      | 7 => true
      | _ => false
    .ok (s.result 2 (.k f.vd.toNat (BitVec.ofNat 512 ((ls.map fun l => b2n (bit l) * 2 ^ l).sum))
      (BitVec.ofNat 512 ((ls.map fun l => 2 ^ l).sum))))
/-- R390. -/
def execKop (f : VR) (s : State) : Host.Outcome State Fault Refusal := single s (.kop f) (issueKop f s)

/-- R391. -/
def issueVperm (f : VR) (s : State) : Except Trap State :=
  s.permute f f.vb fun n _ l => let j := s.lane f f.vb l; if j < n then s.lane f f.va j else 0
/-- R391. -/
def execVperm (f : VR) (s : State) : Host.Outcome State Fault Refusal := single s (.vperm f) (issueVperm f s)

/-- R391. -/
def issueVrot (f : VR) (s : State) : Except Trap State :=
  s.permute f f.vb fun n c l =>
    if f.vc.getLsbD 0 then (if l + c < n then s.lane f f.va (l + c) else 0) else s.lane f f.va ((l + c) % n)
/-- R391. -/
def execVrot (f : VR) (s : State) : Host.Outcome State Fault Refusal := single s (.vrot f) (issueVrot f s)

/-- R391. -/
def issueVbcast (f : VR) (s : State) : Except Trap State :=
  s.permute f f.vb fun n c _ => if c < n then s.lane f f.va c else 0
/-- R391. -/
def execVbcast (f : VR) (s : State) : Host.Outcome State Fault Refusal := single s (.vbcast f) (issueVbcast f s)

/-- R391. -/
def issueVextr (f : VR) (s : State) : Except Trap State :=
  s.permute f f.vc fun n c l =>
    if l + c < n then s.lane f f.va (l + c) else if l + c < 2 * n then s.lane f f.vb (l + c - n) else 0
/-- R391. -/
def execVextr (f : VR) (s : State) : Host.Outcome State Fault Refusal := single s (.vextr f) (issueVextr f s)

/-- R391. -/
def issueVins (f : VR) (s : State) : Except Trap State :=
  match s.needShape f.shape with
  | .error t => .error t
  | .ok h =>
    let w := typeWidth f.type
    let c := s.lane f f.vb 0
    .ok (s.toV f.vd 3 w (((s.lanesOf h w f.mask).filter (· == c)).map fun l => (l, s.lane f f.va 0, 0)))
/-- R391. -/
def execVins (f : VR) (s : State) : Host.Outcome State Fault Refusal := single s (.vins f) (issueVins f s)

/-- R392. -/
def issueVreda (f : VR) (s : State) : Except Trap State :=
  match s.needShape f.shape with
  | .error t => .error t
  | .ok h =>
    let w := typeWidth f.type
    let ls := s.lanesOf h w f.mask
    if activeLanes h w = 0 then .ok s
    else
      match fmtOf f.type with
      | none =>
        let u := f.vc.getLsbD 0 || f.type == 1
        let sum := (ls.map fun l => intOf f.type (f.vc.getLsbD 0) (s.lane f f.va l)).sum
        let fits : Bool := if u then decide (0 ≤ sum ∧ sum < 2 ^ 64) else decide (-2 ^ 63 ≤ sum ∧ sum < 2 ^ 63)
        .ok (s.toV f.vd 6 64 [(0, bitsOf 64 sum, if fits then 0 else fIOV)])
      | some F =>
        let (x, s') := s.draw
        let lanes := (List.range (2048 / w)).map fun l => if ls.contains l then some (s.lane f f.va l) else none
        .ok (s'.toV f.vd 6 w [(0, reduceSum F (modeOf s.ctx.rmode) x lanes)])
/-- R392. -/
def execVreda (f : VR) (s : State) : Host.Outcome State Fault Refusal := single s (.vreda f) (issueVreda f s)

/-- R393. -/
def issueVredm (f : VR) (s : State) : Except Trap State :=
  match s.needShape f.shape with
  | .error t => .error t
  | .ok h =>
    let w := typeWidth f.type
    let wantMax := !f.vc.getLsbD 1
    let u := f.vc.getLsbD 0
    let xs := (s.lanesOf h w f.mask).map fun l => s.lane f f.va l
    if activeLanes h w = 0 then .ok s
    else
      match fmtOf f.type with
      | none =>
        let (lo, hi) := intRange f.type u
        let r := xs.foldl (fun m x => if wantMax then max m (intOf f.type u x) else min m (intOf f.type u x)) (if wantMax then lo else hi)
        .ok (s.toV f.vd 6 w [(0, bitsOf w r, 0)])
      | some F =>
        let r := xs.foldl (fun (m : Nat × Flags) x => let (y, g) := selectNum F wantMax m.1 x; (y, m.2 ||| g)) (F.pack wantMax F.infMag, 0)
        .ok (s.toV f.vd 6 w [(0, r)])
/-- R393. -/
def execVredm (f : VR) (s : State) : Host.Outcome State Fault Refusal := single s (.vredm f) (issueVredm f s)

/-! ## Vector memory (R394 to R399) -/

/-- R394 to R397. -/
def issueVld (f : VM) (s : State) : Except Trap State :=
  match s.vmShape f with
  | .error t => .error t
  | .ok (h, ea) =>
    let w := accessWidth h.type
    let us := s.units h f.mask
    if h.lanes = 0 then .ok s
    else if f.space = 0 then
      .ok (s.landingLoad (.v f.v.toNat w us) (us.map fun u => { va := ea + BitVec.ofNat 72 (u * (w / 8)), len := w / 8 }) f.land.toNat true)
    else
      match s.galleryUnits ea w us with
      | .error t => .error t
      | .ok as =>
        match s.readable (as.map (·.2)) with
        | .error t => .error t
        | .ok _ => .ok (s.toV f.v 6 w (as.map fun a => (a.1, s.cur.gnat a.2 (w / 8), 0)))
/-- R394 to R397. -/
def execVld (f : VM) (s : State) : Host.Outcome State Fault Refusal := single s (.vld f) (issueVld f s)

/-- R394 to R397. -/
def issueVst (f : VM) (s : State) : Except Trap State :=
  match s.vmShape f with
  | .error t => .error t
  | .ok (h, ea) =>
    let w := accessWidth h.type
    let us := s.units h f.mask
    let x := s.srcV f.v 0 (typeWidth h.type)
    if f.v = 31 ∧ typeWidth h.type = 64 ∧ s.issue.lits.length < 2 then .error (s.precise .illegal)
    else if h.lanes = 0 then .ok s
    else if f.space = 0 then
      .ok (s.issueStore s.issue.die ea ((unitBytes x w us).flatMap fun u => vaPlace (ea + BitVec.ofNat 72 (u.1 * (w / 8))) u.2) true)
    else
      match s.galleryUnits ea w us with
      | .error t => .error t
      | .ok as => .ok (s.slotWrite (as.flatMap fun a => placeAt a.2 (toLE (w / 8) (laneGet x w a.1))))
/-- R394 to R397. -/
def execVst (f : VM) (s : State) : Host.Outcome State Fault Refusal := single s (.vst f) (issueVst f s)

/-- R398. -/
def issueVgld (f : VM) (s : State) : Except Trap State :=
  match s.strided f with
  | .error t => .error t
  | .ok (h, as) =>
    let w := typeWidth h.type
    if h.lanes = 0 then .ok s
    else .ok (s.landingLoad (.v f.v.toNat w (as.map (·.1))) (as.map fun a => { va := a.2, len := w / 8 }) f.land.toNat true)
/-- R398. -/
def execVgld (f : VM) (s : State) : Host.Outcome State Fault Refusal := single s (.vgld f) (issueVgld f s)

/-- R398. -/
def issueVgst (f : VM) (s : State) : Except Trap State :=
  match s.strided f with
  | .error t => .error t
  | .ok (h, as) =>
    let w := typeWidth h.type
    let x := s.srcV f.v 0 w
    if f.v = 31 ∧ w = 64 ∧ s.issue.lits.length < 2 then .error (s.precise .illegal)
    else .ok (s.issueStore s.issue.die (s.vea f) (lastWins (as.flatMap fun a => vaPlace a.2 (toLE (w / 8) (laneGet x w a.1)))) true)
/-- R398. -/
def execVgst (f : VM) (s : State) : Host.Outcome State Fault Refusal := single s (.vgst f) (issueVgst f s)

/-- R399. -/
def issueVgath (f : VR) (s : State) : Except Trap State :=
  let w := typeWidth f.type
  match s.gathered f with
  | .error t => .error t
  | .ok as =>
    match s.readable (as.map (·.2)) with
    | .error t => .error t
    | .ok _ => .ok (s.toV f.vd 6 w (as.map fun a => (a.1, s.cur.gnat a.2 (w / 8), 0)))
/-- R399. -/
def execVgath (f : VR) (s : State) : Host.Outcome State Fault Refusal := single s (.vgath f) (issueVgath f s)

/-- R399. -/
def issueVscat (f : VR) (s : State) : Except Trap State :=
  let w := typeWidth f.type
  match s.gathered f with
  | .error t => .error t
  | .ok as =>
    let x := s.srcV f.vd f.lit w
    .ok (if as.isEmpty then s else s.slotWrite (lastWins (as.flatMap fun a => placeAt a.2 (toLE (w / 8) (laneGet x w a.1)))))
/-- R399. -/
def execVscat (f : VR) (s : State) : Host.Outcome State Fault Refusal := single s (.vscat f) (issueVscat f s)

/-- Gallery banks the slot port of a vector memory operation touches (07 Table 7.5). -/
def State.banksTouched (s : State) (i : Instr) : Nat :=
  let count (as : List Nat) : Nat := (distinct (as.map fun a => a / 2 ^ 22)).length
  let contiguous (f : VM) : Nat :=
    if f.space = 0 then 0
    else
      match s.vmShape f with
      | .ok (h, ea) => count ((s.units h f.mask).map fun u => ea.toNat + u * (accessWidth h.type / 8))
      | .error _ => 0
  match i with
  | .vld f | .vst f => contiguous f
  | .vgath f | .vscat f => (match s.gathered f with | .ok as => count (as.map (·.2)) | .error _ => 0)
  | _ => 0

end Sys2Proof.Machine
end

