-- ==== Sys2Proof/Machine/Engine.lean ====
section
/-! DEFINITION. What the engines share (10 R250 to R254): status words of a fault, the end of a command and its discard. -/

namespace Sys2Proof.Machine

/-- OP of Table 10.3. -/
def opOf (i : Instr) : Nat :=
  match bodyM i, bodyC i with
  | some b, _ => b.1.toNat
  | none, some b => b.1.toNat
  | none, none => 0

/-- ENGINE of Table 10.2. -/
def engineNumber : Engine → Nat
  | .sequencer => 0
  | .matrix => 1
  | .copy0 => 2
  | .copy1 => 3
  | .xch0 => 4
  | .xch1 => 5

/-- The engine of a copy stream, and of an exchange stream. -/
def copyEngine (n : Nat) : Engine := if n = 1 then .copy1 else .copy0
def xchEngine (n : Nat) : Engine := if n = 1 then .xch1 else .xch0

/-- The commands an engine holds, oldest first. -/
def Ctxt.queueOf (c : Ctxt) : Engine → List Cmd
  | .sequencer => []
  | .matrix => c.matQ
  | .copy0 => c.copyQ0
  | .copy1 => c.copyQ1
  | .xch0 => c.xchQ0
  | .xch1 => c.xchQ1

/-- Replace them. -/
def Ctxt.setQueueOf (c : Ctxt) (e : Engine) (q : List Cmd) : Ctxt :=
  match e with
  | .sequencer => c
  | .matrix => { c with matQ := q }
  | .copy0 => { c with copyQ0 := q }
  | .copy1 => { c with copyQ1 := q }
  | .xch0 => { c with xchQ0 := q }
  | .xch1 => { c with xchQ1 := q }

/-- Change a command an engine holds. -/
def Ctxt.onCmd (c : Ctxt) (e : Engine) (ix : BitVec 32) (f : Cmd → Cmd) : Ctxt :=
  c.setQueueOf e ((c.queueOf e).map fun k => if k.cmdix = ix then f k else k)

/-- Tiles return to READY. -/
def Ctxt.ready (c : Ctxt) (ts : List Nat) : Ctxt :=
  ts.foldl (fun c t => if (c.tile t).state = .empty then c else c.tileTo t .ready) c

/-- A command leaves its engine, its tiles READY. -/
def Ctxt.finish (c : Ctxt) (e : Engine) (k : Cmd) : Ctxt :=
  (c.setQueueOf e ((c.queueOf e).filter fun x => x.cmdix != k.cmdix)).ready k.moved

/-- An engine status word (Table 10.3). -/
structure Fail where
  cause : Cause
  va : W72 := 0
  tile : Nat := 0
  unit : Nat := 0
  recv : Bool := false
  done : Nat := 0
  deriving DecidableEq, Repr

/-- The stopping event of a command's fault. -/
def Fail.trap (x : Fail) (e : Engine) (k : Cmd) : Trap :=
  { cause := x.cause, engine := engineNumber e, cmdix := k.cmdix, faddr := k.faddr, vaddr := x.va
    estat := packBits [(0, 8, x.cause.code), (8, 6, opOf k.instr), (14, 12, x.tile), (26, 4, x.unit), (30, 1, b2n x.recv), (32, 32, x.done)] }

/-- Commands taken out of an engine unbegun or faulted: their tiles are READY, their landing entries free, and a follow-on
of one of them goes too (10 R252, 17 R436). -/
def Die.discard (d : Die) (ks : List Cmd) : Die :=
  let c := ks.foldl (fun c k => c.ready k.moved) d.c
  let gone (m : Cmd) : Bool := m.follow.isSome && ks.any fun k => k.follow.isNone && k.cmdix + 1 == m.cmdix
  let lost := ks.filterMap (·.landing)
  { d with c := { c with matQ := c.matQ.filter fun m => !gone m }
           seq := { d.seq with landings := d.seq.landings.filter fun l => !lost.contains l.id } }

/-- Command k of engine e faults: it and every later command of the engine that has not begun are discarded (10 R252; a
later SC operation of a copy stream has been sent and goes on, 17 R454), and the fault waits for a boundary. A stale-data fault is counted where it is raised (14 R371). -/
def Die.engineFails (d : Die) (e : Engine) (k : Cmd) (x : Fail) : Die :=
  let q := d.c.queueOf e
  let later (m : Cmd) : Bool := k.id < m.id && !(isSc m.instr)
  let out := q.filter fun m => m.cmdix == k.cmdix || later m
  let d := d.onC fun c => c.setQueueOf e (q.filter fun m => !(m.cmdix == k.cmdix || later m))
  ((d.discard out).onC fun c => { c with pendTraps := c.pendTraps ++ [x.trap e k] }).onCnt fun n =>
    { n with stalef := if x.cause = .stale then bump n.stalef else n.stalef }

end Sys2Proof.Machine
end

