-- ==== Sys2Proof/Machine/Matrix.lean ====
section
/-! DEFINITION. The M slot (16): what its commands check, what the matrix engine does, the tile table, panels, accumulators,
codebooks and the product table. -/

namespace Sys2Proof.Machine

/-! ## Checks of a command (R408) -/

/-- What a command finds at its issue, or a follow-on when it begins. -/
structure Setup where
  shape : Shape := {}
  tile : Tile := {}
  tile2 : Tile := {}
  /-- a dimension it uses is granted 0: nothing happens (R408) -/
  idle : Bool := false
  /-- tiles that move to FILLING, and to DRAINING (R406) -/
  fill : List Nat := []
  drain : List Nat := []
  /-- it draws under STO (11 R290) -/
  draws : Bool := false
  deriving DecidableEq, Repr

/-- A shape that is not empty (07 R185). -/
def Ctxt.shape? (c : Ctxt) (h : BitVec 3) : Except Cause Shape :=
  if (c.hreg h.toNat).valid then .ok (c.hreg h.toNat) else .error .noShape
/-- A tile that is not EMPTY (08 R199). -/
def Ctxt.tile? (c : Ctxt) (t : Nat) : Except Cause Tile := if (c.tile t).state = .empty then .error .tileEmpty else .ok (c.tile t)
/-- A check. -/
def need (ok : Bool) (c : Cause) : Except Cause Unit := if ok then .ok () else .error c

/-- A step's depth and the accumulator kind of a pair of types (Table 16.3). -/
def pairing (i : Instr) (a b : BitVec 4) : Option (Nat × AccKind) :=
  let both (p : BitVec 4 → Bool) := p a && p b
  match i with
  | .mma _ =>
    if both fun t => t == 7 || t == 8 then some (8, .fp32)
    else if both fun t => t == 5 || t == 6 then some (16, .fp32)
    else if both fun t => t == 9 then some (2, .fp32)
    else if both fun t => t == 10 then some (1, .fp64)
    else none
  | .mmai _ => if both fun t => t == 0 || t == 1 then some (16, .int32) else none
  | .mmap _ => if both fun t => t == 11 then some (32, .fp32) else none
  | _ => none

/-- Panels of a span of depth k at element width w (R400). -/
def spanOf (k w : Nat) : Nat := (k * w + 32767) / 32768

/-- The kind a command leaves an accumulator in. -/
def kindSet (ks : FMap AccKind) (i : Instr) : FMap AccKind :=
  match i with
  | .mma f => ks.set f.acc.toNat (if f.fmt = 10 then .fp64 else .fp32)
  | .mmai f => ks.set f.acc.toNat .int32
  | .mmap f => ks.set f.acc.toNat .fp32
  | .zacc f => ks.set f.acc.toNat (if f.fmt = 10 then .fp64 else if f.fmt = 3 then .int32 else .fp32)
  | .zadd f => ks.set (f.imm.extractLsb' 0 2).toNat (ks.get .fp32 (f.imm.extractLsb' 2 2).toNat)
  | _ => ks

/-- The M slot a follow-on holds (R436 of 17), where it decodes: p0 as its guard, no hold. -/
def followOn (bits : BitVec 64) : Option Instr :=
  if bits.extractLsb' 0 8 ≠ 0 ∨ bits.extractLsb' 56 8 ≠ 0 then none
  else match decodeM (bits.extractLsb' 8 6) (bits.extractLsb' 14 42) with
    | .ok i => if i.problem = none then some i else none
    | .bad _ => none

/-- The operation a command of the matrix engine carries. -/
def Cmd.op (k : Cmd) : Instr :=
  match k.follow with
  | some bits => (followOn bits).getD k.instr
  | none => k.instr

/-- Accumulator kinds as the commands held by the matrix engine leave them (R403, R417). -/
def Ctxt.kinds (c : Ctxt) : FMap AccKind := (c.matQ.map Cmd.op).foldl kindSet c.zkind

/-- Tile types ZRET delivers a kind into (Table 16.4). -/
def zretAccepts (k : AccKind) (t : BitVec 4) : Bool :=
  match k with
  | .fp32 => [5, 6, 7, 8, 9, 10].contains t.toNat
  | .int32 => [0, 1, 2, 3, 8, 9].contains t.toNat
  | .fp64 => [9, 10].contains t.toNat

/-- Rows and columns, exchanged when a transpose is asked for. -/
def turned (ta : Bool) (r c : Nat) : Nat × Nat := if ta then (c, r) else (r, c)
/-- Whether an extent lies within a tile. -/
def Tile.holds (e : Tile) (x : Nat × Nat) : Bool := decide (x.1 ≤ e.rows.toNat ∧ x.2 ≤ e.cols.toNat)

/-- A multiply command (R410, R411). An extent in which a dimension is granted 0 reads nothing, so nothing outside a tile. -/
def Ctxt.planMul (c : Ctxt) (i : Instr) (f : MT) : Except Cause Setup := do
  let h ← c.shape? f.shape
  let e ← c.tile? f.tile.toNat
  let idle := h.rows == 0 || h.cols == 0 || h.depth == 0
  need (pairing i e.type f.fmt).isSome .illegal
  need (idle || e.holds (turned f.ta h.rows h.depth)) .badAddr
  need (f.panel.toNat + spanOf h.depth (typeWidth f.fmt) ≤ 64) .badAddr
  .ok { shape := h, tile := e, idle }

/-- TXPOSE or TCVT (R422). -/
def Ctxt.planMove (c : Ctxt) (f : MS) (ta : Bool) : Except Cause Setup := do
  need (f.tile != f.tile2) .illegal
  let h ← c.shape? f.shape
  let e ← c.tile? f.tile.toNat
  let src ← c.tile? f.tile2.toNat
  need (e.type != 11 || src.type == 11) .illegal
  let idle := h.rows == 0 || h.cols == 0
  need (idle || src.holds (h.rows, h.cols) && e.holds (turned ta h.rows h.cols)) .badAddr
  .ok { shape := h, tile := e, tile2 := src, idle, fill := [f.tile.toNat], drain := [f.tile2.toNat], draws := true }

/-- The checks of an M operation against the context's shape and tiles (R408); of an operation that has none, its shape. -/
def Ctxt.plan (c : Ctxt) (i : Instr) : Except Cause Setup :=
  match i with
  | .mma f => c.planMul i f
  | .mmai f => c.planMul i f
  | .mmap f => c.planMul i f
  | .zacc f => do
    let h ← c.shape? f.shape
    .ok { shape := h, idle := h.rows == 0 || h.cols == 0 }
  | .zadd f => do
    let h ← c.shape? f.shape
    .ok { shape := h, idle := h.rows == 0 || h.cols == 0 }
  | .zret f => do
    let h ← c.shape? f.shape
    let e ← c.tile? f.tile.toNat
    need (zretAccepts (c.kinds.get .fp32 f.acc.toNat) e.type) .illegal
    let idle := h.rows == 0 || h.cols == 0
    need (idle || e.holds (turned f.ta h.rows h.cols)) .badAddr
    .ok { shape := h, tile := e, idle, fill := [f.tile.toNat], draws := true }
  | .talloc f => do
    let h ← c.shape? f.shape
    let e := tallocTile f h
    need (h.rqRows != 0 && h.rqCols != 0 && (!isBlock f.fmt || e.cols.toNat % 32 == 0) && !e.overruns) .badAddr
    .ok { shape := h, tile := e }
  | .tfree f => do
    let e ← c.tile? f.tile.toNat
    .ok { tile := e }
  | .tstat f => .ok { tile := c.tile f.tile.toNat }
  | .trenew f => do
    let e ← c.tile? f.tile.toNat
    .ok { tile := e, drain := [f.tile.toNat] }
  | .txpose f => c.planMove f true
  | .tcvt f => c.planMove f false
  | .tfill f => do
    let h ← c.shape? f.shape
    let e ← c.tile? f.tile.toNat
    need (e.type != 11 || f.imm.toNat < 16) .illegal
    let idle := h.rows == 0 || h.cols == 0
    need (idle || e.holds (h.rows, h.cols)) .badAddr
    .ok { shape := h, tile := e, idle, fill := [f.tile.toNat] }
  | .cbld f => do
    let e ← c.tile? f.tile.toNat
    .ok { tile := e }
  | .yld f => do
    let h ← c.shape? f.shape
    let e ← c.tile? f.tile.toNat
    need (e.type == f.fmt) .illegal
    let idle := h.cols == 0 || h.depth == 0
    need (idle || e.holds (turned f.ta h.depth h.cols)) .badAddr
    need (f.panel.toNat + spanOf h.depth (typeWidth f.fmt) ≤ 64) .badAddr
    .ok { shape := h, tile := e, idle }
  | _ => .ok {}

/-! ## Parts of a command -/

/-- A part of a command carried out: the die, the fault that ends the command, and the command as it stands where neither a fault nor
its end has come. How many rows an engine moves before time goes on is a free value (assumption 37). -/
structure Part where
  die : Die
  fail : Option Fail := none
  rest : Option Cmd := none

/-- The part that ends its command. -/
def Part.whole (r : Die × Option Fail) : Part := { die := r.1, fail := r.2 }

/-- Of `left` things those that go now: `n` of them, or all where n is 0. -/
def upTo (n left : Nat) : Nat := if n = 0 then left else min n left

/-! ## Multiplication (R400, R411, 11 R293 to R297) -/

/-- Bits of depth position p of column j in the span from panel y on, elements of w bits. -/
def Ctxt.panelElem (c : Ctxt) (y w p j : Nat) : Nat :=
  let bit := p * w
  let at_ := (y + bit / 32768) * 524288 + 4096 * j + bit % 32768 / 8
  if w = 4 then (c.y.get 0 at_).toNat / (if p % 2 = 0 then 1 else 16) % 16
  else ofLE ((List.range (w / 8)).map fun k => c.y.get 0 (at_ + k))

/-- An accumulator element as stored. -/
def Ctxt.zelem (c : Ctxt) (z i j : Nat) : W64 := c.z.get 0 (z * 16384 + 128 * i + j)
/-- Read as a kind. -/
def Ctxt.zread (c : Ctxt) (z i j : Nat) (k : AccKind) : Nat :=
  if k = .fp64 then (c.zelem z i j).toNat else (c.zelem z i j).toNat % 2 ^ 32
/-- Write elements. -/
def Ctxt.zwrite (c : Ctxt) (z : Nat) (vs : List (Nat × Nat × Nat)) : Ctxt :=
  { c with z := vs.foldl (fun m v => m.put 0 (z * 16384 + 128 * v.1 + v.2.1) (BitVec.ofNat 64 v.2.2)) c.z }
/-- Merge flags into an accumulator's status (11 R296). -/
def Ctxt.zmerge (c : Ctxt) (z : Nat) (f : Flags) : Ctxt :=
  { c with zstat := c.zstat.put 0 z (mergeStatus (c.zstat.get 0 z) { flags := f }) }

/-- The flags and counts of a status word. -/
def marksOf (w : W64) : Marks :=
  { flags := w.extractLsb' 0 9, satn := (w.extractLsb' 16 16).toNat, escn := (w.extractLsb' 32 16).toNat, fblk := (w.extractLsb' 48 16).toNat }

/-- The format of a kind; INT32 has none. -/
def AccKind.fmt? : AccKind → Option Fmt
  | .fp32 => some Sys2Proof.Machine.fp32
  | .fp64 => some Sys2Proof.Machine.fp64
  | .int32 => none

/-- One floating step (11 R294). -/
def stepFloat (F : Fmt) (acc : Nat) (terms : List (Num × Flags)) : Nat × Flags :=
  let (v, f) := sumNum .rne (F.decode acc :: terms.map (·.1))
  let (r, g) := F.round .rne 0 v
  (r, terms.foldl (fun x t => x ||| t.2) (f ||| g))

/-- One integer step (11 R295). -/
def stepInt (acc : Nat) (terms : List Int) : Nat × Flags :=
  let x := (BitVec.ofNat 32 acc).toInt + terms.sum
  (bitsOf 32 x, if -2 ^ 31 ≤ x ∧ x < 2 ^ 31 then 0 else fIOV)

/-- What a multiply command is made of. -/
structure Mul where
  tile : Tile
  ta : Bool
  ac : Bool
  panel : Nat
  z : Nat
  type : BitVec 4
  m : Nat
  n : Nat
  k : Nat
  d : Nat
  kind : AccKind

/-- Element A(i, p). -/
def Mul.a (u : Mul) (d : Die) (i p : Nat) : Nat := if u.ta then d.elem u.tile p i else d.elem u.tile i p
/-- Gallery rows of A(i, p) for the positions of step t, every active row. -/
def Mul.stepRows (u : Mul) (t : Nat) : List Nat :=
  let ps := (List.range u.d).map fun x => t * u.d + x
  distinct ((List.range u.m).flatMap fun i => (ps.filter fun p => p < u.k).map fun p =>
    (if u.ta then u.tile.elemAt p i else u.tile.elemAt i p) / 256)

/-- One step of element (i, j). -/
def Mul.step (u : Mul) (d : Die) (i j : Nat) (acc : Nat × Flags) (t : Nat) : Nat × Flags :=
  let ps := ((List.range u.d).map fun x => t * u.d + x).filter fun p => p < u.k
  let wb := typeWidth u.type
  let b (p : Nat) := d.c.panelElem u.panel wb p j
  let (r, f) :=
    match u.kind, fmtOf u.tile.type, fmtOf u.type with
    | .int32, _, _ => stepInt acc.1 (ps.map fun p => intOf u.tile.type false (u.a d i p) * intOf u.type false (b p))
    | kind, some F, some G => stepFloat (kind.fmt?.getD fp32) acc.1 (ps.map fun p => (F.decode (u.a d i p)).mul (G.decode (b p)))
    | _, _, _ => stepFloat fp32 acc.1 (ps.map fun p => (fp32.decode (d.c.ptab.get 0 (16 * u.a d i p + b p)).toNat, 0))
  (r, acc.2 ||| f)

/-- Whether the panel bytes step t reads hold an uncorrectable error (R412). -/
def Mul.panelBad (u : Mul) (d : Die) (t : Nat) : Bool :=
  if d.c.yBad.isEmpty then false
  else
    let w := typeWidth u.type
    ((List.range u.d).map fun x => t * u.d + x).any fun p => decide (p < u.k) && (List.range u.n).any fun j =>
      let at_ := (u.panel + p * w / 32768) * 524288 + 4096 * j + p * w % 32768 / 8
      d.c.yBad.any fun b => decide (at_ ≤ b ∧ b < at_ + max 1 (w / 8))

/-- Depth positions between two retirements (10 Table 10.6). -/
def Mul.retire (u : Mul) : Nat :=
  match u.type.toNat with
  | 7 | 8 => 2048
  | 9 => 1024
  | 10 => 512
  | 11 => 8192
  | _ => 4096

/-- A multiply command carried on by `n` steps, at most to its next retirement (10 R261): up to the first step that reads a row or a
panel it cannot (R411, R412). -/
def Mul.run (u : Mul) (t tile n : Nat) (k : Cmd) (d : Die) : Part :=
  let lo := k.done
  let span := min (u.k - lo) (u.retire - lo % u.retire)
  let steps := (List.range (upTo n ((span + u.d - 1) / u.d))).map (lo / u.d + ·)
  let bad := steps.findSome? fun s => ((d.firstFault t (u.stepRows s)).map (·.2)).or (if u.panelBad d s then some .poison else none) |>.map fun x => (s, x)
  let done := match bad with | some (s, _) => steps.filter (· < s) | none => steps
  let depth := min (u.d * (lo / u.d + done.length)) u.k
  let first : Bool := !u.ac && lo == 0
  let start (i j : Nat) : Nat := if first then 0 else d.c.zread u.z i j u.kind
  let rs := (List.range u.m).flatMap fun i => (List.range u.n).map fun j =>
    (i, j, done.foldl (fun acc s => u.step d i j acc s) (start i j, 0))
  let flags := rs.foldl (fun (f : Flags) r => f ||| r.2.2.2) 0
  let c := if first then { d.c with zstat := d.c.zstat.put 0 u.z 0 } else d.c
  let c := (c.zwrite u.z (rs.map fun r => (r.1, r.2.1, r.2.2.1))).zmerge u.z flags
  { die := { d with c := { c with zkind := c.zkind.put .fp32 u.z u.kind } }
    fail := bad.map fun x => { cause := x.2, tile, unit := u.z, done := depth }
    rest := if bad.isNone && depth < u.k then some { k with begun := true, done := depth } else none }

/-- The multiply of a command. -/
def Cmd.mul (k : Cmd) (i : Instr) (f : MT) : Option Mul :=
  (pairing i k.tile.type f.fmt).map fun p =>
    { tile := k.tile, ta := f.ta, ac := f.ac, panel := f.panel.toNat, z := f.acc.toNat, type := f.fmt
      m := k.shape.rows, n := k.shape.cols, k := k.shape.depth, d := p.1, kind := p.2 }

/-! ## Accumulators (R415 to R417) -/

/-- Active elements (i, j). -/
def Shape.elems (h : Shape) : List (Nat × Nat) := (List.range h.rows).flatMap fun i => (List.range h.cols).map fun j => (i, j)

/-- ZACC. -/
def Ctxt.zacc (c : Ctxt) (h : Shape) (z : Nat) (fmt : BitVec 4) : Ctxt :=
  let c := c.zwrite z (h.elems.map fun x => (x.1, x.2, 0))
  { c with zkind := kindSet c.zkind (.zacc { acc := BitVec.ofNat 2 z, fmt }), zstat := c.zstat.put 0 z 0 }

/-- ZADD. -/
def Ctxt.zadd (c : Ctxt) (h : Shape) (zd za zb : Nat) : Ctxt :=
  let kind := c.zkind.get .fp32 za
  let rs := h.elems.map fun x =>
    let a := c.zread za x.1 x.2 kind
    let b := c.zread zb x.1 x.2 kind
    (x, match kind.fmt? with
      | some F => addRne F (F.decode a) (F.decode b)
      | none => stepInt a [(BitVec.ofNat 32 b).toInt])
  let st := mergeStatus (c.zstat.get 0 za) (marksOf (c.zstat.get 0 zb))
  let flags := rs.foldl (fun (f : Flags) r => f ||| r.2.2) 0
  let c := c.zwrite zd (rs.map fun r => (r.1.1, r.1.2, r.2.1))
  { c with zkind := c.zkind.put .fp32 zd kind, zstat := c.zstat.put 0 zd (mergeStatus st { flags }) }

/-! ## Delivering elements into a tile -/

/-- Byte writes of elements (row, column, bits) of a tile. -/
def Die.tileWrites (d : Die) (e : Tile) (vs : List (Nat × Nat × Nat)) : List (Nat × Byte) :=
  (distinct (vs.map (·.1))).flatMap fun r => d.elemWrites e r ((vs.filter fun v => v.1 == r).map fun v => (v.2.1, v.2.2))

/-- A result tile takes bytes through the engine port. -/
def Die.putTile (d : Die) (t : Nat) (ws : List (Nat × Byte)) : Die := (d.gwrite t ws).moves (rowsOf (ws.map (·.1)))

/-- Rows of a tile that a command ended by a fault has not written expire (08 Table 8.4). -/
def Die.expireUnwritten (d : Die) (e : Tile) (written : List Nat) : Die :=
  (e.footprint.filter fun r => !written.contains r).foldl (fun d r => d.expireRows r 1) d

/-- A command whose result tile has no status line ends before it writes a result (11 R304). -/
def Die.noStatus (d : Die) (e : Tile) (tile unit : Nat) : Die × Option Fail :=
  (d.expireUnwritten e [], some { cause := .badAddr, tile, unit })

/-- Merge marks into a result tile's status word; a poisoned line faults POISON with every row counted (11 R304). -/
def Die.mergeOr (d : Die) (t : Nat) (tile : Nat) (e : Tile) (ks : List Marks) : Die × Option Fail :=
  match d.mergeTile t e ks with
  | some d => (d.moves (e.status?.map fun a => a / 256).toList, none)
  | none => (d, some { cause := .poison, tile, done := e.footRows })

/-- ZRET (R417). Status(z) is 0 behind it, also where its flags are lost with a poisoned line (11 R304). -/
def Die.zret (d : Die) (t : Nat) (k : Cmd) (f : MT) : Die × Option Fail :=
  let e := k.tile
  let z := f.acc.toNat
  let kind := d.c.zkind.get .fp32 z
  let st : BitVec 4 := match kind with | .fp32 => 9 | .int32 => 3 | .fp64 => 10
  match e.status? with
  | none => d.noStatus e f.tile.toNat z
  | some _ =>
    let rs := k.shape.elems.map fun x =>
      let q := drawQ (k.rmode.extractLsb' 32 32) (128 * x.1 + x.2)
      (turned f.ta x.1 x.2, convert (modeOf k.rmode) q st false e.type false true (d.c.zread z x.1 x.2 kind))
    let flags := rs.foldl (fun (g : Flags) r => g ||| r.2.2) 0
    let d := d.putTile t (d.tileWrites e (rs.map fun r => (r.1.1, r.1.2, r.2.1)))
    let (d, x) := d.mergeOr t f.tile.toNat e [marksOf (d.c.zstat.get 0 z), { flags }]
    (d.onC fun c => { c with zstat := c.zstat.put 0 z 0 }, x.map fun x => { x with unit := z })

/-! ## Tiles into tiles (R422, R423) -/

/-- A source element as a value: codes through the codebook, blocks under their scale. -/
def Die.tileNum (d : Die) (e : Tile) (r c : Nat) : Num :=
  let bits := d.elem e r c
  match e.type.toNat with
  | 11 => bf16.decode ((d.c.cb.get 0 e.cb.toNat).extractLsb' (16 * bits) 16).toNat
  | 12 => blockElem e2m1 (d.scale e r (c / 32)) bits
  | 13 => blockElem e4m3 (d.scale e r (c / 32)) bits
  | _ => valueOf e.type false bits

/-- A value into a type that is no block type, by R288; integers from integers saturate. -/
def numInto (mode : Mode) (q : Nat) (src dt : BitVec 4) (x : Num) : Nat × Flags :=
  match fmtOf dt with
  | some F => F.round mode q (Exact.ofNum x)
  | none =>
    let (lo, hi) := intRange dt false
    let (v, f) := roundInt mode q lo hi x
    (bitsOf (typeWidth dt) v, if src.toNat ≤ 4 then f &&& fSAT else f)

/-- The element format and maximum of a block type. -/
def blockFmt (t : BitVec 4) : Fmt × Nat := if t = 12 then (e2m1, 6) else (e4m3, 448)

/-- Encode a block for a tile: its scale, its elements and its marks, index for FBLK (R422). -/
def tileBlock (t : BitVec 4) (mode : Mode) (qs : List Nat) (index : Nat) (xs : List Num) : Nat × List Nat × Marks :=
  let (F, emax) := blockFmt t
  if xs.any fun x => x.isNan || x.isInf then (0xFF0, xs.map fun _ => 0, { flags := fNAN })
  else if xs.all fun x => absLe x 0 0 then (0, xs.map fun _ => 0, {})
  else
    let s := smallestScale emax xs 4096 0x010
    let rs := List.zipWith (fun x q => F.round mode q (divScale x s)) xs qs
    let flags := rs.foldl (fun (g : Flags) r => g ||| r.2) 0
    let sat : Bool := (flags &&& fSAT) != 0
    (s, rs.map (·.1), { flags, satn := b2n sat, fblk := if sat then fblkOf index else 0 })

/-- Blocks (row, block) of a tile that hold one of the active r × c elements. -/
def activeBlocks (r c : Nat) : List (Nat × Nat) := (List.range r).flatMap fun i => (List.range ((c + 31) / 32)).map fun k => (i, k)

/-- Encode blocks whole: value of each active element, and the draw of each. -/
def Die.blockWrites (d : Die) (e : Tile) (mode : Mode) (q : Nat → Nat) (blocks : List (Nat × Nat)) (val : Nat → Nat → Num) :
    List (Nat × Byte) × List Marks :=
  let per := e.cols.toNat / 32
  let outs := blocks.map fun b =>
    (b, tileBlock e.type mode ((List.range 32).map fun l => q (b.1 * e.cols.toNat + 32 * b.2 + l)) (b.1 * per + b.2)
      ((List.range 32).map fun l => val b.1 (32 * b.2 + l)))
  (outs.flatMap fun o =>
      d.elemWrites e o.1.1 (o.2.2.1.zipIdx.map fun x => (32 * o.1.2 + x.2, x.1)) ++ placeAt (e.scaleAt o.1.1 o.1.2) (toLE 2 o.2.1),
    outs.map fun o => o.2.2.2)

/-- Gallery rows a read of element (r, c) of a tile touches: its block's scale, and its own. -/
def Tile.elemRows (e : Tile) (x : Nat × Nat) : List Nat :=
  if isBlock e.type then [e.scaleAt x.1 (x.2 / 32) / 256, e.elemAt x.1 x.2 / 256] else [e.elemAt x.1 x.2 / 256]

/-- The source rows of active elements in the order they are read: those of the scale area first. -/
def Tile.readOrder (e : Tile) (xs : List (Nat × Nat)) : List Nat :=
  let rows := distinct (xs.flatMap e.elemRows)
  let scale0 := (e.at_ + e.rowBytes) / 256
  let sorted := e.footprint.filter rows.contains
  if isBlock e.type then sorted.filter (scale0 ≤ ·) ++ sorted.filter (· < scale0) else sorted

/-- Draws of free bytes set aside for a matrix command: one for each byte a footprint can have. -/
def matrixDraws : Nat := 2 ^ 22

/-- Bytes written to a destination within the footprint of the source are free values (R422, 00 R8; assumption 4). -/
def freeWithin (e src : Tile) (fr : Nat) (ws : List (Nat × Byte)) : List (Nat × Byte) :=
  if src.base.toNat < e.base.toNat + e.footRows ∧ e.base.toNat < src.base.toNat + src.footRows then
    ws.map fun x =>
      if src.base.toNat ≤ x.1 / 256 ∧ x.1 / 256 < src.base.toNat + src.footRows then (x.1, Config.freeByte (fr + (x.1 - e.at_))) else x
  else ws

/-- TXPOSE (ta) and TCVT (R422) carried on by `n` source rows; `fr` is the part's first draw. An element, or a block of a block
tile, is written when the last row it is made of has been read; its marks are kept until the tile is READY (11 R304, R305). -/
def Die.moveTile (d : Die) (t : Nat) (k : Cmd) (fr n : Nat) (f : MS) (ta : Bool) : Part :=
  let e := k.tile
  let src := k.tile2
  let tile := f.tile.toNat
  let (R, C) := turned ta k.shape.rows k.shape.cols
  let order := src.readOrder k.shape.elems
  let hi := k.done + upTo n (order.length - k.done)
  let bad := (order.take hi).zipIdx.findSome? fun r => if r.2 < k.done then none else (d.rowFault t r.1).map fun c => (r.2, c)
  let m := match bad with | some (x, _) => x | none => hi
  let read := order.take m
  let before := order.take k.done
  let rowsFor (r c : Nat) : List Nat := src.elemRows (turned ta r c)
  let val (r c : Nat) : Num := if r < R ∧ c < C then (let x := turned ta r c; d.tileNum src x.1 x.2) else .fin false 0 0
  let q (idx : Nat) : Nat := drawQ (k.rmode.extractLsb' 32 32) idx
  let quiet : Bool := src.type == e.type && !isBlock e.type && ta
  let have_ (rows : List Nat) (r : List Nat) : Bool := r.all rows.contains
  let blockRows (b : Nat × Nat) : List Nat := (List.range 32).flatMap fun l => if C ≤ 32 * b.2 + l then [] else rowsFor b.1 (32 * b.2 + l)
  let elems : List (Nat × Nat) := ((List.range R).flatMap fun r => (List.range C).map fun c => (r, c)).filter fun x => have_ read (rowsFor x.1 x.2)
  let blocks : List (Nat × Nat) := if isBlock e.type then (activeBlocks R C).filter fun b => have_ read (blockRows b) else []
  let (ws, marks) : List (Nat × Byte) × List Marks :=
    if isBlock e.type then d.blockWrites e (modeOf k.rmode) q (blocks.filter fun b => !have_ before (blockRows b)) val
    else
      let rs := (elems.filter fun x => !have_ before (rowsFor x.1 x.2)).map fun x =>
        let y := turned ta x.1 x.2
        (x, if e.type = 11 then (d.elem src y.1 y.2, 0)
            else numInto (modeOf k.rmode) (q (x.1 * e.cols.toNat + x.2)) src.type e.type (val x.1 x.2))
      (d.tileWrites e (rs.map fun r => (r.1.1, r.1.2, r.2.1)), [{ flags := rs.foldl (fun (g : Flags) r => g ||| r.2.2) 0 }])
  if !quiet && e.status?.isNone then .whole (d.noStatus e tile 0)
  else
    let marks := k.marks ++ marks
    let d := (d.putTile t (freeWithin e src fr ws)).moves (read.drop k.done)
    let merged (d : Die) : Die × Option Fail := if quiet then (d, none) else d.mergeOr t tile e marks
    match bad with
    | some x =>
      let written := distinct (if isBlock e.type
        then blocks.flatMap fun b => e.scaleAt b.1 b.2 / 256 :: (List.range 32).map fun l => e.elemAt b.1 (32 * b.2 + l) / 256
        else elems.map fun x => e.elemAt x.1 x.2 / 256)
      { die := (merged (d.expireUnwritten e written)).1, fail := some { cause := x.2, tile := f.tile2.toNat, done := x.1 } }
    | none => if m < order.length then { die := d, rest := some { k with begun := true, done := m, marks } } else .whole (merged d)

/-- TFILL (R423). -/
def Die.tfill (d : Die) (t : Nat) (k : Cmd) (f : MS) : Die × Option Fail :=
  let e := k.tile
  let v := f.imm.toInt
  let R := k.shape.rows
  let C := k.shape.cols
  let (ws, marks) : List (Nat × Byte) × List Marks :=
    if isBlock e.type then d.blockWrites e .rne (fun _ => 0) (activeBlocks R C) (fun _ _ => .fin (v < 0) v.natAbs 0)
    else
      let (bits, fl) := if e.type = 11 then (f.imm.toNat, 0) else convert .rne 0 2 false e.type false false (bitsOf 16 v)
      (d.tileWrites e (k.shape.elems.map fun x => (x.1, x.2, bits)), [{ flags := fl }])
  match e.status? with
  | none => d.noStatus e f.tile.toNat 0
  | some a => (((d.putTile t ws).setStatus t e (marks.foldl mergeStatus 0)).moves [a / 256], none)

/-! ## Renewal, codebooks, product table, panels (R421, R424 to R427) -/

/-- TRENEW carried on by `n` rows. -/
def Die.trenew (d : Die) (t n : Nat) (k : Cmd) (tile : Nat) : Part :=
  let rows := k.tile.footprint ++ (k.tile.status?.map fun a => a / 256).toList
  let now := (rows.drop k.done).take (upTo n (rows.length - k.done))
  let bad := now.zipIdx.findSome? fun r => (d.rowFault t r.1).map fun c => (r.2, c)
  let m := match bad with | some (m, _) => m | none => now.length
  let done := k.done + m
  { die := ((now.take m).foldl (fun d r => d.renewRow t r) d).moves (now.take m)
    fail := bad.map fun x => { cause := x.2, tile, done }
    rest := if bad.isNone && done < rows.length then some { k with begun := true, done } else none }

/-- CBLD. -/
def Die.cbld (d : Die) (t : Nat) (k : Cmd) (f : MS) : Die × Option Fail :=
  match d.rowFault t k.tile.base.toNat with
  | some cause => (d, some { cause, tile := f.tile.toNat })
  | none =>
    ((d.moves [k.tile.base.toNat]).onC fun c =>
      { c with cb := c.cb.put 0 (f.imm.extractLsb' 0 4).toNat (BitVec.ofNat 256 (d.gnat k.tile.at_ 32)) }, none)

/-- PTB (11 R297). -/
def Ctxt.ptb (c : Ctxt) (ca cb : Nat) : Ctxt :=
  let code (n i : Nat) : Num := bf16.decode ((c.cb.get 0 n).extractLsb' (16 * i) 16).toNat
  let rs := (List.range 256).map fun x =>
    let (p, f) := (code ca (x / 16)).mul (code cb (x % 16))
    let (r, g) := fp32.round .rne 0 (Exact.ofNum p)
    (x, r, f ||| g)
  { c with ptab := rs.foldl (fun m r => m.put 0 r.1 (BitVec.ofNat 32 r.2.1)) c.ptab
           vstat := rs.foldl (fun v r => v ||| (r.2.2.setWidth 64 &&& vstatMask)) c.vstat }

/-- One panel element written. -/
def Ctxt.panelWrite (c : Ctxt) (y w p j bits : Nat) : Ctxt :=
  let bit := p * w
  let at_ := (y + bit / 32768) * 524288 + 4096 * j + bit % 32768 / 8
  let bytes : List Byte :=
    if w = 4 then
      let old := (c.y.get 0 at_).toNat
      [BitVec.ofNat 8 (if p % 2 = 0 then old / 16 * 16 + bits % 16 else bits % 16 * 16 + old % 16)]
    else toLE (w / 8) bits
  { c with y := (placeAt at_ bytes).foldl (fun m b => m.put 0 b.1 b.2) c.y
           yBad := c.yBad.filter fun b => !(w ≠ 4 && at_ ≤ b && b < at_ + w / 8) }

/-- YLD carried on by `n` depth positions. -/
def Die.yld (d : Die) (t n : Nat) (k : Cmd) (f : MT) : Part :=
  let w := typeWidth f.fmt
  let y := f.panel.toNat
  let N := k.shape.cols
  let K := k.shape.depth
  let rowsAt (p : Nat) : List Nat := distinct ((List.range N).map fun j => (let x := turned f.ta p j; k.tile.elemAt x.1 x.2 / 256))
  let now := (List.range (upTo n (K - k.done))).map (k.done + ·)
  let bad := now.findSome? fun p => (d.firstFault t (rowsAt p)).map fun x => (p, x.2)
  let done := match bad with | some (p, _) => p | none => k.done + now.length
  let now := now.filter (· < done)
  let c := now.foldl (fun c p => (List.range N).foldl (fun c j =>
    let x := turned f.ta p j
    c.panelWrite y w p j (d.elem k.tile x.1 x.2)) c) d.c
  let c := (List.range (spanOf done w)).foldl (fun (c : Ctxt) p => { c with yUsed := c.yUsed.put false (y + p) true }) c
  { die := ({ d with c } : Die).moves (distinct (now.flatMap rowsAt))
    fail := bad.map fun x => { cause := x.2, tile := f.tile.toNat, done }
    rest := if bad.isNone && done < K then some { k with begun := true, done } else none }

/-- YCLR. -/
def Ctxt.yclr (c : Ctxt) (y n : Nat) : Ctxt :=
  { c with y := c.y.keep fun k => !(y ≤ k / 524288 && k / 524288 < y + n), yUsed := c.yUsed.keep fun k => !(y ≤ k && k < y + n)
           yBad := c.yBad.filter fun k => !(y ≤ k / 524288 && k / 524288 < y + n) }

/-! ## A command carried out (R403) -/

/-- What the matrix engine does for a command with draws from `fr` on, by `n` rows or depth steps (all where n is 0). -/
def Die.runMatrix (d : Die) (t : Nat) (k : Cmd) (fr n : Nat) : Part :=
  let i := k.op
  let mul (f : MT) : Part := match k.mul i f with | some u => u.run t f.tile.toNat n k d | none => { die := d }
  let array (g : Ctxt → Ctxt) : Part := { die := d.onC g }
  match i with
  | .mma f => mul f
  | .mmai f => mul f
  | .mmap f => mul f
  | .zacc f => array fun c => c.zacc k.shape f.acc.toNat f.fmt
  | .zadd f => array fun c => c.zadd k.shape (f.imm.extractLsb' 0 2).toNat (f.imm.extractLsb' 2 2).toNat (f.imm.extractLsb' 4 2).toNat
  | .zret f => .whole (d.zret t k f)
  | .trenew f => d.trenew t n k f.tile.toNat
  | .txpose f => d.moveTile t k fr n f true
  | .tcvt f => d.moveTile t k fr n f false
  | .tfill f => .whole (d.tfill t k f)
  | .cbld f => .whole (d.cbld t k f)
  | .ptb f => array fun c => c.ptb (f.imm.extractLsb' 0 4).toNat (f.imm.extractLsb' 4 4).toNat
  | .yld f => d.yld t n k f
  | .yclr f => array fun c => c.yclr f.panel.toNat (f.tile.toNat + 1)
  | _ => { die := d }

/-! ## Issue -/

/-- Move tiles to a state. -/
def Ctxt.tilesTo (c : Ctxt) (ts : List Nat) (st : TileState) : Ctxt := ts.foldl (fun c t => c.tileTo t st) c

/-- The draw of a command that rounds under RMODE, and the mode it captures (11 R290). -/
def Ctxt.drawFor (c : Ctxt) (draws : Bool) : Ctxt :=
  if draws ∧ modeOf c.rmode = .sto then
    { c with rmode := lfsrSteps 32 (c.rmode.extractLsb' 32 32) ++ c.rmode.extractLsb' 0 32 }
  else c

/-- Whether an operation rounds under RMODE, so that it draws under STO where it issues (11 R290). -/
def drawsIn : Instr → Bool
  | .zret _ | .txpose _ | .tcvt _ => true
  | _ => false

/-- TALLOC at its issue (R418). -/
def Die.talloc (d : Die) (t tile : Nat) (e : Tile) : Die :=
  let d := (d.onC fun c => c.setTile tile e).expireRows e.base.toNat e.footRows
  d.setStatus t e 0

/-- Tile table operations that act at once (R404); TSTAT's bytes with them. -/
def Die.tableOp (d : Die) (t : Nat) (i : Instr) (u : Setup) : Die × List (Nat × Byte) :=
  match i with
  | .talloc f => (d.talloc t f.tile.toNat u.tile, [])
  | .tfree f => (d.onC fun c => c.tileTo f.tile.toNat .empty, [])
  | .tstat f => (d, placeAt ((f.imm.extractLsb' 0 10).toNat * 2 ^ 16 + f.tile2.toNat * 16) (d.tileImage t (d.c.tile f.tile.toNat)))
  | _ => (d, [])

/-- A matrix engine command issues (R403, R406, R408). -/
def State.issueMatrix (s : State) (i : Instr) : Except Trap State :=
  match s.ctx.plan i with
  | .error c => .error (s.precise c)
  | .ok u =>
    if u.idle then .ok s.nextCmdix
    else
      let s := s.onCur fun d => d.onC fun c => ((c.drawFor u.draws).tilesTo u.fill .filling).tilesTo u.drain .draining
      .ok (s.toMatrix { s.command i with shape := u.shape, tile := u.tile, tile2 := u.tile2, moved := u.fill ++ u.drain })

/-- TALLOC, TFREE or TSTAT issues (R404). -/
def State.issueTable (s : State) (i : Instr) : Except Trap State :=
  match s.ctx.plan i with
  | .error c => .error (s.precise c)
  | .ok u =>
    let (d, ws) := s.cur.tableOp (s.us s.issue.die) i u
    let s := s.onCur fun _ => d
    .ok ((if ws.isEmpty then s else s.slotWrite ws).nextCmdix)

/-! ## Operations -/

/-- R411. -/
def issueMma (f : MT) (s : State) : Except Trap State := s.issueMatrix (.mma f)
/-- R411. -/
def execMma (f : MT) (s : State) : Host.Outcome State Fault Refusal := single s (.mma f) (issueMma f s)

/-- R411. -/
def issueMmai (f : MT) (s : State) : Except Trap State := s.issueMatrix (.mmai f)
/-- R411. -/
def execMmai (f : MT) (s : State) : Host.Outcome State Fault Refusal := single s (.mmai f) (issueMmai f s)

/-- R411. -/
def issueMmap (f : MT) (s : State) : Except Trap State := s.issueMatrix (.mmap f)
/-- R411. -/
def execMmap (f : MT) (s : State) : Host.Outcome State Fault Refusal := single s (.mmap f) (issueMmap f s)

/-- R415. -/
def issueZacc (f : MT) (s : State) : Except Trap State := s.issueMatrix (.zacc f)
/-- R415. -/
def execZacc (f : MT) (s : State) : Host.Outcome State Fault Refusal := single s (.zacc f) (issueZacc f s)

/-- R416. -/
def issueZadd (f : MS) (s : State) : Except Trap State := s.issueMatrix (.zadd f)
/-- R416. -/
def execZadd (f : MS) (s : State) : Host.Outcome State Fault Refusal := single s (.zadd f) (issueZadd f s)

/-- R417. -/
def issueZret (f : MT) (s : State) : Except Trap State := s.issueMatrix (.zret f)
/-- R417. -/
def execZret (f : MT) (s : State) : Host.Outcome State Fault Refusal := single s (.zret f) (issueZret f s)

/-- R418. -/
def issueTalloc (f : MS) (s : State) : Except Trap State := s.issueTable (.talloc f)
/-- R418. -/
def execTalloc (f : MS) (s : State) : Host.Outcome State Fault Refusal := single s (.talloc f) (issueTalloc f s)

/-- R419. -/
def issueTfree (f : MS) (s : State) : Except Trap State := s.issueTable (.tfree f)
/-- R419. -/
def execTfree (f : MS) (s : State) : Host.Outcome State Fault Refusal := single s (.tfree f) (issueTfree f s)

/-- R420. -/
def issueTstat (f : MS) (s : State) : Except Trap State := s.issueTable (.tstat f)
/-- R420. -/
def execTstat (f : MS) (s : State) : Host.Outcome State Fault Refusal := single s (.tstat f) (issueTstat f s)

/-- R421. -/
def issueTrenew (f : MS) (s : State) : Except Trap State := s.issueMatrix (.trenew f)
/-- R421. -/
def execTrenew (f : MS) (s : State) : Host.Outcome State Fault Refusal := single s (.trenew f) (issueTrenew f s)

/-- R422. -/
def issueTxpose (f : MS) (s : State) : Except Trap State := s.issueMatrix (.txpose f)
/-- R422. -/
def execTxpose (f : MS) (s : State) : Host.Outcome State Fault Refusal := single s (.txpose f) (issueTxpose f s)

/-- R422. -/
def issueTcvt (f : MS) (s : State) : Except Trap State := s.issueMatrix (.tcvt f)
/-- R422. -/
def execTcvt (f : MS) (s : State) : Host.Outcome State Fault Refusal := single s (.tcvt f) (issueTcvt f s)

/-- R423. -/
def issueTfill (f : MS) (s : State) : Except Trap State := s.issueMatrix (.tfill f)
/-- R423. -/
def execTfill (f : MS) (s : State) : Host.Outcome State Fault Refusal := single s (.tfill f) (issueTfill f s)

/-- R424. -/
def issueCbld (f : MS) (s : State) : Except Trap State := s.issueMatrix (.cbld f)
/-- R424. -/
def execCbld (f : MS) (s : State) : Host.Outcome State Fault Refusal := single s (.cbld f) (issueCbld f s)

/-- R425. -/
def issuePtb (f : MS) (s : State) : Except Trap State := s.issueMatrix (.ptb f)
/-- R425. -/
def execPtb (f : MS) (s : State) : Host.Outcome State Fault Refusal := single s (.ptb f) (issuePtb f s)

/-- R426. -/
def issueYld (f : MT) (s : State) : Except Trap State := s.issueMatrix (.yld f)
/-- R426. -/
def execYld (f : MT) (s : State) : Host.Outcome State Fault Refusal := single s (.yld f) (issueYld f s)

/-- R427. -/
def issueYclr (f : MT) (s : State) : Except Trap State := s.issueMatrix (.yclr f)
/-- R427. -/
def execYclr (f : MT) (s : State) : Host.Outcome State Fault Refusal := single s (.yclr f) (issueYclr f s)

/-! ## The head of the queue -/

/-- Whether a pre-emption may stop a command: it has not begun, or it multiplies and has just retired its accumulator (10 R261,
R263). -/
def Cmd.canStop (k : Cmd) : Bool :=
  let retired (f : MT) : Bool := match k.mul k.op f with | some u => k.done % u.retire == 0 | none => true
  !k.begun || (match k.op with
    | .mma f | .mmai f | .mmap f => retired f
    | _ => false)

/-- What the matrix engine can do with its oldest command: nothing yet, or a new die with the fault that ended it. -/
inductive MatStep where
  | wait
  /-- the command has completed, or retired its accumulator short of its end -/
  | done (d : Die)
  | fails (d : Die) (k : Cmd) (x : Fail)
  /-- a follow-on that does not decode: its CPYM faults ILLEGAL (17 R436) -/
  | badFollow (d : Die) (k : Cmd)

/-- The accumulator an operation names first, as UNIT of Table 10.3. -/
def accOf : Instr → Nat
  | .mma f | .mmai f | .mmap f | .zacc f | .zret f => f.acc.toNat
  | .zadd f => (f.imm.extractLsb' 0 2).toNat
  | _ => 0

/-- The tile that a failed check concerns: for TILE_EMPTY the first it names that is EMPTY, else the first it names. -/
def checkTile (c : Ctxt) (i : Instr) (cause : Cause) : Nat :=
  let ts := (useOf i).tiles
  match (if cause = .tileEmpty then ts.find? fun n => (c.tile n).state == .empty else none) with
  | some n => n
  | none => ts.headD 0

/-- The command whose follow-on this is has completed, or has its bytes complete. -/
def Ctxt.copyDone (c : Ctxt) (k : Cmd) : Bool :=
  (c.copyQ0 ++ c.copyQ1).all fun x => x.cmdix + 1 != k.cmdix || x.follow.isSome || x.performed

/-- What a part of command k comes to: the command leaves, or keeps its place as the part leaves it. -/
def MatStep.ofPart (k : Cmd) (p : Part) : MatStep :=
  match p.fail, p.rest with
  | some x, _ => .fails p.die k x
  | none, some r => .done (p.die.onC fun c => c.onCmd .matrix k.cmdix fun _ => r)
  | none, none => .done (p.die.onC fun c => c.finish .matrix k)

/-- A follow-on held at the head of the engine: it names a tile that is FILLING or DRAINING, or allocates rows that an earlier command
of some engine has still to read or write (R404, 08 R199, 17 R436). -/
def Ctxt.followHeld (c : Ctxt) (k : Cmd) (i : Instr) : Bool :=
  (useOf i).tiles.any c.busyTile || (match i with
    | .talloc f => c.busyTile f.tile.toNat || c.rowsHeld f (c.allCmds.filter fun m => m.id < k.id)
    | _ => false)

/-- Carry on the oldest command of the matrix engine, at `t` microseconds, with draws from `fr` on, by `n` rows or steps. A follow-on
first becomes a command as one that issues now: its checks, and its tiles (17 R436). -/
def Die.headMatrix (d : Die) (t fr n : Nat) : MatStep :=
  match d.c.matQ with
  | [] => .wait
  | k :: _ =>
    match k.follow with
    | none => .ofPart k (d.runMatrix t k fr n)
    | some bits =>
      if !d.c.copyDone k then .wait
      else
        match followOn bits with
        | none => .badFollow d k
        | some i =>
          if d.c.followHeld k i then .wait
          else
            let k : Cmd := { k with instr := i, follow := none }
            let out (d : Die) : MatStep := .done (d.onC fun c => c.finish .matrix k)
            match ({ d.c with matQ := [] } : Ctxt).plan i with
            | .error cause => .fails d k { cause, tile := checkTile d.c i cause, unit := accOf i }
            | .ok u =>
              if u.idle then out d
              else
                match (useOf i).engine with
                | .table => let (d, ws) := d.tableOp t i u; out (if ws.isEmpty then d else d.gwrite t ws)
                | _ =>
                  let k := { k with shape := u.shape, tile := u.tile, tile2 := u.tile2, moved := u.fill ++ u.drain }
                  .done (d.onC fun c => ((c.onCmd .matrix k.cmdix fun _ => k).tilesTo u.fill .filling).tilesTo u.drain .draining)

end Sys2Proof.Machine
end

