-- ==== Sys2Proof/Machine/Copy.lean ====
section
/-! DEFINITION. The C slots (17): what copy, atomic and synchronisation operations do when they issue. The copy engine
(`CopyEngine.lean`) does the rest. -/

namespace Sys2Proof.Machine

/-! ## Nests (R432, R433) -/

/-- Level l of a nest. -/
def Nest.level (n : Nest) (l : Nat) : Level := n.levels.get {} l

/-- Offsets of the runs of levels l − 1 down to 0, i0 fastest: (source, destination). -/
def Nest.offsets (n : Nest) : Nat → List (Int × Int)
  | 0 => [(0, 0)]
  | l + 1 => (List.range (n.level l).count.toNat).flatMap fun (i : Nat) =>
      n.offsets l |>.map fun o => (o.1 + (i : Int) * (n.level l).sstride.toInt, o.2 + (i : Int) * (n.level l).dstride.toInt)

/-- The runs from two bases (R433). -/
def Nest.runs (n : Nest) (sb db : W72) : List (W72 × W72) :=
  if n.run = 0 then [] else (n.offsets 6).map fun o => (sb + BitVec.ofInt 72 o.1, db + BitVec.ofInt 72 o.2)

/-! ## Issue -/

/-- A landing buffer entry for a command's result (R443). -/
def State.resultEntry (s : State) (dest : LandDest) (land : Nat) : State × Nat :=
  let q := s.cur.seq
  let l : Landing := { id := s.accessId s.issue.die, at_ := q.cycle, due := q.cycle + land, dest, faddr := s.issue.addr }
  (s.onCur fun d => d.onSeq fun q => { q with nextId := l.id + 1, landings := q.landings ++ [l] }, l.id)

/-- A command with its result entry, unless it discards its result. -/
def State.withResult (s : State) (res land : BitVec 6) (dest : LandDest) : State × Option Nat :=
  if res = 0 then (s, none) else let (s, l) := s.resultEntry dest (4 * land.toNat); (s, some l)

/-- A command of a copy stream goes into its queue. -/
def State.sendCopy (s : State) (c : Cmd) : State := s.toCopy c (.copyCommandComplete s.issue.die (streamOf s.issue.slot) 0)

/-- Node index of a completion decrement (R434), plus 2^32 where one is asked for. -/
def State.decrementOf (s : State) (cnt : BitVec 12) : W64 :=
  if cnt.getLsbD 6 then BitVec.ofNat 64 (2 ^ 32 + (s.srcS (cnt.extractLsb' 0 6)).toNat % 2 ^ 16) else 0

/-- A C.X command: its nest set, base addresses and decrement captured (R429). -/
def State.commandX (s : State) (i : Instr) (f : CX) : Cmd :=
  { s.command i with a0 := s.srcA f.src.toNat, a1 := s.srcA f.dst.toNat, nest := s.ctx.nests.get {} f.nest.toNat, s2 := s.decrementOf f.cnt }

/-- The tile a C.X command names moves out of READY (08 Table 8.4). -/
def State.holdTile (s : State) (c : Cmd) (t : Nat) (e : Tile) (st : TileState) : State × Cmd :=
  (s.onCur fun d => d.onC fun x => x.tileTo t st, { c with tile := e, moved := [t] })

/-- A whole-tile access issues (R438, R440): base and row stride registers, tile, and the state it takes. -/
def State.issueTile (s : State) (i : Instr) (f : CX) (base : BitVec 5) (st : TileState) : Except Trap State :=
  match s.needTile f.flags.toNat with
  | .error t => .error t
  | .ok e =>
    if i == .tred f && e.type != 9 && e.type != 3 then .error (s.precise .illegal)
    else
      let c := { s.commandX i f with a0 := s.ctx.areg base.toNat, a1 := s.ctx.areg (base.toNat + 1) }
      let (s, c) := s.holdTile c f.flags.toNat e st
      .ok (s.toCopy c (.tileLocksAcquired s.issue.die (streamOf s.issue.slot)))

/-- CPY and CPYM issue (R435): with direction 1 the tile moves to FILLING. -/
def State.copyCmd (s : State) (i : Instr) (f : CX) : Except Trap (State × Cmd) :=
  let c := s.commandX i f
  if f.fd = 1 then
    match s.needTile f.flags.toNat with
    | .error t => .error t
    | .ok e => .ok (s.holdTile c f.flags.toNat e .filling)
  else .ok (s, c)

/-- A C.A command on the word at A[addr]. -/
def State.commandA (s : State) (i : Instr) (f : CA) : Cmd := { s.command i with a0 := s.srcA f.addr.toNat, stamp := s.wc }

/-! ## Operations -/

/-- R432. -/
def issueCnest (f : CN) (s : State) : Except Trap State :=
  let b := s.srcS f.bound
  let x : Level := { count := b.extractLsb' 0 32, sstride := (s.srcS f.sstride).extractLsb' 0 32, dstride := (s.srcS f.dstride).extractLsb' 0 32 }
  .ok ((s.result 1 (.e f.nest.toNat f.level.toNat x (if f.level = 0 then some (b.extractLsb' 32 24) else none))).nextCmdix)
/-- R432. -/
def execCnest (f : CN) (s : State) : Host.Outcome State Fault Refusal := single s (.cnest f) (issueCnest f s)

/-- R435. -/
def issueCpy (f : CX) (s : State) : Except Trap State :=
  match s.copyCmd (.cpy f) f with
  | .error t => .error t
  | .ok (s, c) => .ok (s.sendCopy c)
/-- R435. -/
def execCpy (f : CX) (s : State) : Host.Outcome State Fault Refusal := single s (.cpy f) (issueCpy f s)

/-- R436. A follow-on that rounds under RMODE draws at this issue, behind what its CPYM and lower slots drew (11 R290). -/
def issueCpym (f : CX) (s : State) : Except Trap State :=
  match s.copyCmd (.cpym f) f with
  | .error t => .error t
  | .ok (s, c) =>
    let bits := s.lit64 f.fol.toNat
    let s := (s.sendCopy c).onCur fun d => d.onC fun x => x.drawFor ((followOn bits).any drawsIn)
    let m := s.command (.cpym f)
    .ok (s.toMatrix { c with cmdix := m.cmdix, id := m.id, rmode := m.rmode, moved := [], follow := some bits })
/-- R436. -/
def execCpym (f : CX) (s : State) : Host.Outcome State Fault Refusal := single s (.cpym f) (issueCpym f s)

/-- R438, R439. -/
def issueTld (f : CX) (s : State) : Except Trap State :=
  s.issueTile (.tld f) f f.src .filling
/-- R438, R439. -/
def execTld (f : CX) (s : State) : Host.Outcome State Fault Refusal := single s (.tld f) (issueTld f s)

/-- R438, R439. -/
def issueTst (f : CX) (s : State) : Except Trap State :=
  s.issueTile (.tst f) f f.dst .draining
/-- R438, R439. -/
def execTst (f : CX) (s : State) : Host.Outcome State Fault Refusal := single s (.tst f) (issueTst f s)

/-- R440. -/
def issueTred (f : CX) (s : State) : Except Trap State :=
  s.issueTile (.tred f) f f.dst .draining
/-- R440. -/
def execTred (f : CX) (s : State) : Host.Outcome State Fault Refusal := single s (.tred f) (issueTred f s)

/-- R441. -/
def issueRwb (f : CX) (s : State) : Except Trap State :=
  .ok (s.sendCopy (s.commandX (.rwb f) f))
/-- R441. -/
def execRwb (f : CX) (s : State) : Host.Outcome State Fault Refusal := single s (.rwb f) (issueRwb f s)

/-- R441. -/
def issueRinv (f : CX) (s : State) : Except Trap State :=
  .ok (s.sendCopy (s.commandX (.rinv f) f))
/-- R441. -/
def execRinv (f : CX) (s : State) : Host.Outcome State Fault Refusal := single s (.rinv f) (issueRinv f s)

/-- R442. -/
def issuePref (f : CX) (s : State) : Except Trap State :=
  .ok (s.sendCopy (s.commandX (.pref f) f))
/-- R442. -/
def execPref (f : CX) (s : State) : Host.Outcome State Fault Refusal := single s (.pref f) (issuePref f s)

/-- R444, R446, R447. -/
def issueAmo (f : CA) (s : State) : Except Trap State :=
  let c := { s.commandA (.amo f) f with s0 := s.srcS f.opnd }
  let (s, l) := s.withResult f.res f.land (.s f.res.toNat (if f.op.getLsbD 3 then 4 else 8) false)
  .ok (s.sendCopy { c with landing := l })
/-- R444, R446, R447. -/
def execAmo (f : CA) (s : State) : Host.Outcome State Fault Refusal := single s (.amo f) (issueAmo f s)

/-- R445 to R447. -/
def issueCas (f : CA) (s : State) : Except Trap State :=
  let r (k : Nat) : W64 := s.ctx.sreg (f.opnd.toNat + k)
  let c := { s.commandA (.cas f) f with s0 := r 0, s1 := r 1, s2 := r 2, s3 := r 3 }
  let (s, l) := s.withResult f.res f.land
    (if f.op = 2 then .pair f.res.toNat else .s f.res.toNat (if f.op = 1 then 4 else 8) false)
  .ok (s.sendCopy { c with landing := l })
/-- R445 to R447. -/
def execCas (f : CA) (s : State) : Host.Outcome State Fault Refusal := single s (.cas f) (issueCas f s)

/-- R448. -/
def issueBind (f : CX) (s : State) : Except Trap State :=
  let b := (f.flags.extractLsb' 0 6).toNat
  let len := (s.srcS (f.flags.extractLsb' 6 6)).extractLsb' 0 40
  let old := s.ctx.bindings.get {} b
  let x : Binding :=
    if f.fd = 1 then { old with v := false }
    else { obj := s.srcA f.src.toNat, base := s.srcA f.dst.toNat, len := if len = 0 then 1 else len, v := true }
  .ok ((s.onCur fun d => d.onC fun c => { c with bindings := c.bindings.put {} b x }).nextCmdix)
/-- R448. -/
def execBind (f : CX) (s : State) : Host.Outcome State Fault Refusal := single s (.bind f) (issueBind f s)

/-- R449, 09 R230. -/
def issueAcq (f : CA) (s : State) : Except Trap State :=
  let c := s.commandA (.acq f) f
  let (s, l) := s.withResult f.res f.land (.s f.res.toNat 8 false)
  .ok ((s.sendCopy { c with landing := l }).onCur fun d => d.onSeq fun q => { q with memWait := q.memWait ++ [.command c.cmdix] })
/-- R449, 09 R230. -/
def execAcq (f : CA) (s : State) : Host.Outcome State Fault Refusal := single s (.acq f) (issueAcq f s)

/-- R449, 09 R229. -/
def issueRel (f : CA) (s : State) : Except Trap State :=
  .ok (s.sendCopy { s.commandA (.rel f) f with s0 := s.srcS f.opnd })
/-- R449, 09 R229. -/
def execRel (f : CA) (s : State) : Host.Outcome State Fault Refusal := single s (.rel f) (issueRel f s)

/-- R450. -/
def issueWaita (f : CA) (s : State) : Except Trap State :=
  let t := s.srcS f.opnd
  let c := { s.commandA (.waita f) f with s0 := t }
  let (s, l) := s.resultEntry (.waita f.res.toNat f.op.toNat t) (4 * f.land.toNat)
  .ok (s.sendCopy { c with landing := some l })
/-- R450. -/
def execWaita (f : CA) (s : State) : Host.Outcome State Fault Refusal := single s (.waita f) (issueWaita f s)

/-- R451. -/
def issueWake (f : CA) (s : State) : Except Trap State :=
  .ok (s.sendCopy (s.commandA (.wake f) f))
/-- R451. -/
def execWake (f : CA) (s : State) : Host.Outcome State Fault Refusal := single s (.wake f) (issueWake f s)

/-- R452. -/
def issueDec (f : CA) (s : State) : Except Trap State :=
  .ok (s.sendCopy { s.command (.dec f) with s2 := BitVec.ofNat 64 (2 ^ 32 + (s.srcS f.opnd).toNat % 2 ^ 16) })
/-- R452. -/
def execDec (f : CA) (s : State) : Host.Outcome State Fault Refusal := single s (.dec f) (issueDec f s)

/-- R453, 09 R237. -/
def issueScld (f : CA) (s : State) : Except Trap State :=
  if s.ctx.wheel.extractLsb' 16 9 = 0 then .error (s.precise .noWheel)
  else
    let c := s.commandA (.scld f) f
    let (s, l) := s.withResult f.res f.land (.s f.res.toNat (if f.op = 1 then 4 else 8) false)
    .ok (s.sendCopy { c with landing := l })
/-- R453, 09 R237. -/
def execScld (f : CA) (s : State) : Host.Outcome State Fault Refusal := single s (.scld f) (issueScld f s)

/-- R453, 09 R237. -/
def issueScst (f : CA) (s : State) : Except Trap State :=
  if s.ctx.wheel.extractLsb' 16 9 = 0 then .error (s.precise .noWheel)
  else .ok (s.sendCopy { s.commandA (.scst f) f with s0 := s.srcS f.opnd })
/-- R453, 09 R237. -/
def execScst (f : CA) (s : State) : Host.Outcome State Fault Refusal := single s (.scst f) (issueScst f s)

end Sys2Proof.Machine
end

