-- ==== Sys2Proof/Machine/Exchange.lean ====
section
/-! DEFINITION. Exchange operations (18) as they issue: the roles a node takes, and the tiles they hold. The exchange engine
(`XchEngine.lean`) does the rest. -/

namespace Sys2Proof.Machine

/-! ## Roles (R455, R464 to R466) -/

/-- g(j), the binary-reflected Gray sequence. -/
def gray (j : Nat) : Nat := j ^^^ (j / 2)
/-- The ring position of c among 2^k (R466). -/
def ringPos (k c : Nat) : Nat := ((List.range (2 ^ k)).find? fun j => gray j == c).getD 0
/-- Trailing zero bits, at most n. -/
def trailing (x : Nat) : Nat → Nat
  | 0 => 0
  | n + 1 => if x % 2 = 1 then 0 else trailing (x / 2) n + 1
/-- s(i): the bit that changes between positions i and i + 1 of the ring. -/
def ringBit (k i : Nat) : Nat := if i = 2 ^ k - 1 then k - 1 else trailing (i + 1) k

/-- Logical dimensions a node with logical ID `l` sends across and receives across (Table 18.2). -/
def rolesAt (l : Nat) : Instr → Option Nat × Option Nat
  | .xch f | .xcc f => (some f.dima.toNat, some f.dima.toNat)
  | .sib f =>
    let d := f.dima.toNat
    let v := f.flags.getLsbD 0
    let b := f.dimb.toNat
    (if l.testBit b = v then some d else none, if (l ^^^ 2 ^ d).testBit b = v then some d else none)
  | .grs f =>
    let lo := f.dima.toNat
    let k := f.dimb.toNat + 1 - lo
    let i := ringPos k (l / 2 ^ lo % 2 ^ k)
    let fwd := lo + ringBit k i
    let back := lo + ringBit k ((i + 2 ^ k - 1) % 2 ^ k)
    if f.flags.getLsbD 0 then (some back, some fwd) else (some fwd, some back)
  | _ => (none, none)

/-- A role along logical dimension d of the die issuing, with its partner (R455). -/
def State.roleAt (s : State) (d : Nat) : Role :=
  let p := permOf s.ctx.lperm.toNat d
  { ldim := d, dim := p, peer := s.nid s.issue.die ^^^ 2 ^ p }

/-! ## Issue -/

/-- The exchange key of the running task (R457). -/
def State.xkey (s : State) : Nat := match s.cur.task with | some t => t.xkey.toNat | none => 0

/-- An exchange that moves tiles issues (R464): the tiles of the roles it takes leave READY. -/
def State.issueExchange (s : State) (i : Instr) (f : CD) : Except Trap State :=
  match s.needTile f.send.toNat, s.needTile f.recv.toNat with
  | .error t, _ => .error t
  | _, .error t => .error t
  | .ok a, .ok b =>
    let (out, back) := rolesAt s.lid i
    let send := out.toList.map fun d => { s.roleAt d with send := some f.send.toNat }
    let recv := back.toList.map fun d => { s.roleAt d with recv := some f.recv.toNat }
    let drain := if out.isSome then [f.send.toNat] else []
    let fill := if back.isSome then [f.recv.toNat] else []
    let c := { s.command i with tile := a, tile2 := b, roles := send ++ recv, s0 := BitVec.ofNat 64 s.xkey, moved := drain ++ fill }
    .ok ((s.onCur fun d => d.onC fun x => (x.tilesTo drain .draining).tilesTo fill .filling).toExchange c)

/-! ## Operations -/

/-- R464. -/
def issueXch (f : CD) (s : State) : Except Trap State :=
  s.issueExchange (.xch f) f
/-- R464. -/
def execXch (f : CD) (s : State) : Host.Outcome State Fault Refusal := single s (.xch f) (issueXch f s)

/-- R467. -/
def issueXcc (f : CD) (s : State) : Except Trap State :=
  s.issueExchange (.xcc f) f
/-- R467. -/
def execXcc (f : CD) (s : State) : Host.Outcome State Fault Refusal := single s (.xcc f) (issueXcc f s)

/-- R465. -/
def issueSib (f : CD) (s : State) : Except Trap State :=
  s.issueExchange (.sib f) f
/-- R465. -/
def execSib (f : CD) (s : State) : Host.Outcome State Fault Refusal := single s (.sib f) (issueSib f s)

/-- R466. -/
def issueGrs (f : CD) (s : State) : Except Trap State :=
  s.issueExchange (.grs f) f
/-- R466. -/
def execGrs (f : CD) (s : State) : Host.Outcome State Fault Refusal := single s (.grs f) (issueGrs f s)

/-- R469. -/
def issueDbar (f : CD) (s : State) : Except Trap State :=
  let c := { s.command (.dbar f) with roles := (dimsOf (dbarMask f)).map s.roleAt, s0 := BitVec.ofNat 64 s.xkey }
  let s := s.toExchange c
  .ok (if f.flags.getLsbD 0 then s.onCur fun d => d.onSeq fun q => { q with memWait := q.memWait ++ [.barrier c.cmdix] } else s)
/-- R469. -/
def execDbar (f : CD) (s : State) : Host.Outcome State Fault Refusal := single s (.dbar f) (issueDbar f s)

/-- R470. -/
def issueXdig (f : CD) (s : State) : Except Trap State :=
  match s.needTile f.recv.toNat with
  | .error t => .error t
  | .ok e =>
    let dims := (xchDims (.xdig f)).map s.roleAt
    let c := { s.command (.xdig f) with tile2 := e, roles := dims, moved := [f.recv.toNat] }
    .ok ((s.onCur fun d => d.onC fun x => x.tileTo f.recv.toNat .filling).toExchange c)
/-- R470. -/
def execXdig (f : CD) (s : State) : Host.Outcome State Fault Refusal := single s (.xdig f) (issueXdig f s)

end Sys2Proof.Machine
end

