-- ==== Sys2Proof/Machine/Sched.lean ====
section
/-! DEFINITION. The scheduler (06 R128 to R147): accesses of the package itself, node records, walks of flights, dependence
counters, readiness, and aborts. -/

namespace Sys2Proof.Machine

/-! ## Accesses of the package itself (04, 06): translated for a context, performed at home -/

/-- The die number that names no die: its TLB and L1 are empty. -/
def noDie : Nat := 16

/-- Whether a fill of a line for the package itself has just failed (03 R65). -/
def State.lineLost (s : State) (pa : Nat) : Bool := s.lostLines.any fun l => l.1 == lineOf pa && decide (s.wc ≤ l.2 + 1)

/-- Translate bytes for a context. -/
def State.devAddrs (s : State) (ctx va n need : Nat) : Addrs :=
  let ps : List Piece := [{ va := BitVec.ofNat 72 va, len := n }]
  match s.translatePages noDie ctx need (pagesOf ps) with
  | .wait pa => if s.lineLost pa then .fault .noreach (BitVec.ofNat 72 va) else .wait pa
  | .fault c p => .fault c (firstOn ps p)
  | .ok pages => .ok ((vaBytes ps).map (byPages pages))

/-- Read n bytes for a context. -/
def State.devRead (s : State) (ctx va n : Nat) : Got (State × List Byte) :=
  match s.devAddrs ctx va n 1 with
  | .wait pa => .wait (s.fetchRemote 0 pa)
  | .fault c a => .fault c a
  | .ok pas =>
    match pas.find? fun x => s.poisoned x.1, pas.find? fun x => s.absent x.1 with
    | some _, _ => .fault .poison (BitVec.ofNat 72 va)
    | none, some x => if s.lineLost x.1 then .fault .noreach (BitVec.ofNat 72 va) else .wait (s.fetchRemote 0 x.1)
    | none, none => .ok (s, pas.map fun x => s.homeByte x.1)

/-- Write bytes at physical addresses, near and far, their lines poisoned where `bad` (10 R265). -/
def State.devPut (s : State) (ws : List (Nat × Byte)) (bad : Bool := false) : State :=
  let (far, near) := ws.partition fun w => paClass w.1 == 4
  let s := s.homeWrite near
  let s := if bad then (distinct (near.map fun w => lineOf w.1)).foldl (fun s l => s.poisonLine l) s else s
  if far.isEmpty then s
  else
    let s := s.sendWrites 0 (.store 0) far 0 0 fun _ => bad
    if bad then s.dropCopies (distinct (far.map fun w => lineOf w.1)).contains else s

/-- Write bytes for a context. -/
def State.devWrite (s : State) (ctx va : Nat) (bs : List Byte) (bad : Bool := false) : Got State :=
  match s.devAddrs ctx va bs.length 2 with
  | .wait pa => .wait (s.fetchRemote 0 pa)
  | .fault c a => .fault c a
  | .ok pas => .ok (s.devPut ((pas.map (·.1)).zip bs) bad)

/-! ## Graph descriptors and node records (R131 to R133) -/

/-- The host's half of a descriptor. -/
def descOf (b : List Byte) : GraphDesc :=
  { nodes := field b 0 4, tmo := field b 4 4, nodeBase := field b 8 8, succBase := field b 16 8, ver0 := field b 24 8
    ver1 := field b 32 8, psize := field b 40 4, rslots := if field b 44 2 = 0 then 4 else field b 44 2
    doneVa := field b 48 8, spill := field b 56 8 }

/-- Whether LAUNCH refuses a descriptor (R133). -/
def descBad (b : List Byte) : Bool :=
  let d := descOf b
  d.nodes == 0 || decide (65536 < d.nodes) || d.nodeBase % 128 != 0 || d.succBase % 4 != 0 || d.ver0 % 8 != 0 || d.ver1 % 8 != 0
    || d.psize % 8 != 0 || decide (2 ^ 24 < d.psize) || decide (256 < field b 44 2) || field b 46 2 != 0
    || d.doneVa % 64 != 0 || d.spill % 64 != 0

/-- Bytes of a spill region (Table 6.1). -/
def GraphDesc.region (d : GraphDesc) : Nat := 64 * ((12 * d.nodes + 63) / 64)

/-- A node record as it stands (Tables 6.2, 6.3). -/
def nodeOf (b : List Byte) : Node :=
  let bit (i k : Nat) : Bool := (field b i 1).testBit k
  let nlev := field b 3 1 % 8
  { kind := field b 0 1, pinned := bit 1 0, migr := bit 1 1, prioset := bit 1 2, ovrabort := bit 1 3, pre := bit 1 4
    prio := field b 2 1 % 8, retry := field b 2 1 / 16 % 4, nlev
    order := (List.range nlev).map fun q => field b 4 3 / 8 ^ q % 8
    desig := BitVec.ofNat 6 (field b 4 3 / 2 ^ 18), extra := field b 7 1, npred := field b 8 2, entry := field b 10 4
    param := field b 14 4, budget := field b 18 4 % 2 ^ 20, succ := field b 22 4, nsucc := field b 26 2
    banks := BitVec.ofNat 16 (field b 28 2), bounds := (List.range 6).map fun l => field b (32 + 4 * l) 4 + 1
    psrc := field b 64 8, plen := field b 72 4, pbank := field b 76 1, ptile := field b 77 2, pfmt := field b 79 1
    prows := field b 80 2, pcols := field b 82 2, csrc := field b 64 8, cdst := field b 72 8, clen := field b 80 8 }

/-- Whether a node record is bad (R133). -/
def nodeBad (b : List Byte) : Bool :=
  let n := nodeOf b
  let zeroAt (i k : Nat) : Bool := field b i k == 0
  let spare : Bool := decide (32 ≤ field b 1 1) || field b 2 1 / 64 != 0 || (field b 2 1).testBit 3 || decide (8 ≤ field b 3 1)
    || decide (2 ^ 20 ≤ field b 18 4) || !zeroAt 30 2 || !zeroAt 56 8
  let bounds : Bool := (List.range 6).any fun l => n.nlev ≤ l && !zeroAt (32 + 4 * l) 4
  let tail : Bool :=
    match n.kind with
    | 0 => if n.pre then !zeroAt 84 44 || decide (16 ≤ n.pbank) || decide (2 ^ 12 ≤ n.ptile) else !zeroAt 64 64
    | 1 => !zeroAt 88 40
    | _ => !zeroAt 64 64
  let flight : Bool :=
    decide (n.nlev = 0 ∨ 6 < n.nlev) || (distinct n.order).length != n.nlev || n.order.any (n.nlev ≤ ·)
      || decide (2 ^ n.nlev ≤ n.desig.toNat) || (n.pinned && n.desig == 0) || (n.pre && n.pinned)
      || (n.pre && (decide (n.plen = 0 ∨ 2 ^ 22 < n.plen) || decide (13 < n.pfmt) || !n.banks.getLsbD n.pbank))
  let still : Bool :=
    n.pinned || n.migr || n.pre || n.ovrabort || n.nlev != 0 || !zeroAt 4 3 || !zeroAt 10 8 || !zeroAt 18 4 || !zeroAt 28 2 || !zeroAt 32 24
  spare || bounds || tail
    || (match n.kind with
        | 0 => flight
        | 1 => still
        | 2 => still || n.retry != 0
        | _ => true)

/-- The bytes of node record n. -/
def State.nodeBytes (s : State) (r : Replay) (n : Nat) : Got (State × List Byte) :=
  s.devRead r.ctx ((r.desc.nodeBase + 128 * n) % 2 ^ 72) 128

/-! ## The subcube of a context (R129, R130) -/

/-- Whether die y may run tasks of a context. -/
def State.eligible (s : State) (c : Context) (y : Nat) : Bool :=
  BitVec.ofNat 14 (s.nid y) &&& ~~~c.scm == c.anchor &&& ~~~c.scm
/-- The dies that may. -/
def State.eligibleDies (s : State) (c : Context) : List Nat := (List.range 16).filter (s.eligible c)
/-- The logical ID of die y in a context. -/
def State.lidIn (s : State) (c : Context) (y : Nat) : Nat := logicalId c.scm.toNat c.lxor.toNat c.lperm.toNat (s.nid y)
/-- p and P. -/
def State.packageIndex (s : State) (c : Context) : Nat × Nat :=
  let w := widthOf c.scm.toNat
  let wi := widthIn c.scm.toNat
  (match s.eligibleDies c with | y :: _ => s.lidIn c y / 2 ^ wi | [] => 0, 2 ^ (w - wi))

/-! ## Walks (R142) -/

/-- The bound of each position, outermost first. -/
def Node.radix (n : Node) : List Nat := n.order.map fun l => n.bounds.getD l 1
/-- Tuples of the walk. -/
def Node.total (n : Node) : Nat := n.radix.foldl (· * ·) 1
/-- The digits of an ordinal, outermost position first. -/
def digits : List Nat → Nat → List Nat
  | [], _ => []
  | _ :: r, n => let below := r.foldl (· * ·) 1; n / below :: digits r (n % below)
/-- The index of each level in the tuple of an ordinal. -/
def Node.tuple (n : Node) (ord : Nat) : List Nat :=
  let ds := n.order.zip (digits n.radix ord)
  (List.range n.nlev).map fun l => ((ds.find? fun x => x.1 == l).map (·.2)).getD 0
/-- C, the combined index of designated levels. -/
def Node.combined (n : Node) (ord : Nat) : Nat :=
  (n.order.zip (digits n.radix ord)).foldl (fun c x => if n.desig.getLsbD x.1 then c * n.bounds.getD x.1 1 + x.2 else c) 0
/-- Values C takes. -/
def Node.combinations (n : Node) : Nat := (n.order.filter fun l => n.desig.getLsbD l).foldl (fun c l => c * n.bounds.getD l 1) 1

/-- The next kept ordinal of the free stream from `ord` on. -/
def Node.nextFree (n : Node) (p P ord : Nat) : Option Nat :=
  let o := ord + (p + P - ord % P) % P
  if o < n.total then some o else none

/-- The next ordinal of logical die L from `ord` on. -/
def Node.nextPinned (n : Node) (w L : Nat) : Nat → Nat → Option Nat
  | 0, _ => none
  | fuel + 1, ord =>
    if n.total ≤ ord then none
    else if n.combined ord % 2 ^ w = L then some ord
    else n.nextPinned w L fuel (ord + 1)

/-- Iterations a package keeps. -/
def Node.kept (n : Node) (w wi p P : Nat) : Nat :=
  if n.pinned then
    let D := n.combinations
    let here := D / 2 ^ w * 2 ^ wi + min (D % 2 ^ w - p * 2 ^ wi) (2 ^ wi)
    n.total / D * here
  else (n.total + P - 1 - p) / P

/-! ## Notice to the dies -/

/-- An event that looks at a die for a task to give it. -/
def isDispatch (e : Ev) : Bool := e.instr == .taskDispatch

/-- Have every die looked at for a task to give it, once each and in ascending order, from where the first of them stands (R141). -/
def State.wake (s : State) : State :=
  let before := s.agenda.takeWhile fun e => !isDispatch e
  let all : List Ev := (List.range 16).map fun y => { unit := y, instr := .taskDispatch }
  { s with agenda := before ++ all ++ (s.agenda.drop before.length).filter fun e => !isDispatch e
           round := if before.length < s.round then s.round + 16 - (s.agenda.take s.round).countP isDispatch else s.round }

/-- Whether two tasks are the same iteration. -/
def Task.same (a b : Task) : Bool := a.rid == b.rid && a.node == b.node && a.ordinal == b.ordinal

/-! ## Ends of a replay (R135, R152) -/

/-- Whether a task of the replay is on a die, saved in flight, or a copy of it runs. -/
def State.draining (s : State) (rid : Nat) : Bool :=
  (List.range 16).any (fun y => match (s.die y).task with | some t => t.task.rid == rid | none => false)
    || s.hostCopies.any fun c => match c.node with | some (r, _) => r == rid | none => false

/-- A replay whose nodes have all completed, or whose abort has drained, is to retire. -/
def State.checkRetire (s : State) (rid : Nat) : State :=
  match s.replay? rid with
  | none => s
  | some r =>
    if r.completed = r.desc.nodes || (r.aborted.isSome && !s.draining rid) then
      if s.agenda.contains { unit := 0, instr := .replayRetire rid } then s else s.later 0 (.replayRetire rid)
    else s

/-- A copy of an aborted replay. -/
def State.copyDead (s : State) (c : HostCopy) : Bool :=
  match c.node with
  | some (rid, _) => s.replayDead rid
  | none => false

/-- Copies of aborted replays that have not begun, or were parked and are resumed, are dropped (06 R152, R153). -/
def State.dropDead (s : State) : State :=
  let dead (c : HostCopy) : Option Nat :=
    match c.node with
    | some (rid, _) => if !c.begun && s.copyDead c then some rid else none
    | none => none
  let rids := s.hostCopies.filterMap dead
  rids.foldl (fun s rid => s.checkRetire rid) { s with hostCopies := s.hostCopies.filter fun c => (dead c).isNone }

/-- Forget a saved context: its slot is free (10 R264). -/
def State.dropSaved (s : State) (id : Nat) : State :=
  match s.saved.find? fun x => x.id == id with
  | none => s
  | some x =>
    let s := if x.task.pinned then
        s.onDie x.die fun d => d.onFab fun f => { f with resv := f.resv.filter fun r => !(r.own && r.key == x.task.xkey) }
      else s
    { s with saved := s.saved.filter (fun y => y.id != id), slotsUsed := s.slotsUsed.filter fun u => u != (x.task.ctx, x.task.slot) }

/-- Abort a replay (R152): nothing further of it is dispatched, and its saved tasks, its preloads and its copies that have not begun are
dropped (R153). -/
def State.abort (s : State) (rid : Nat) (x : Abort) : State :=
  match s.replay? rid with
  | none => s
  | some r =>
    if r.aborted.isSome then s
    else
      let ids := (r.flights.flatMap fun f => f.2.requeued).filterMap (·.saved)
      let s := ids.foldl State.dropSaved s
      let s := s.onReplay rid fun r =>
        { r with aborted := some x, readyList := [], pooled := [], overflow := [], listing := []
                 flights := r.flights.map fun f => (f.1, { f.2 with requeued := [] }) }
      let s := (List.range 16).foldl (fun s y =>
        match (s.die y).preload, (s.die y).gang with
        | some p, g =>
          let s := if p.task.rid = rid ∧ ((s.die y).task.map (·.task)) ≠ some p.task then s.onDie y Die.dropPreload else s
          s.onDie y fun d => if g.any (·.1 == rid) ∧ d.task.isNone then { d with gang := none } else d
        | none, g => s.onDie y fun d => if g.any (·.1 == rid) ∧ d.task.isNone then { d with gang := none } else d) s
      (s.dropDead.checkRetire rid).wake

/-! ## Readiness (R137 to R139) -/

/-- Pool entries in use. -/
def State.poolUsed (s : State) : Nat := (s.replays.map fun r => r.pooled.length).sum
/-- Hardware counters in use. -/
def State.countersUsed (s : State) : Nat := (s.replays.map fun r => r.hw.length).sum

/-- Address of a node's spill word (R138). -/
def Replay.spillVa (r : Replay) (n : Nat) : Nat := (r.desc.spill + r.desc.region * r.region + 8 * n) % 2 ^ 72

/-- Address of place k of the overflow list (R139). -/
def Replay.listVa (r : Replay) (k : Nat) : Nat := (r.desc.spill + r.desc.region * r.region + 8 * r.desc.nodes + 4 * k) % 2 ^ 72

/-- The node at the head of a replay's overflow list, as the list in the spill region names it, takes a pool entry (R139). -/
def State.takeListed (s : State) (r : Replay) (n : Nat) : State :=
  let k := r.listed - r.overflow.length
  if r.listing.any fun x => x.1 == k then s
  else
    match s.devRead r.ctx (r.listVa k) 4 with
    | .wait s => s
    | .fault _ _ => s.abort r.rid { xstat := 6, cause := 0, node := n }
    | .ok (s, b) =>
      let m := field b 0 2
      if r.desc.nodes ≤ m then s.abort r.rid { xstat := 2, cause := 0, node := m }
      else
        s.onReplay r.rid fun r =>
          { r with overflow := r.overflow.drop 1, pooled := r.pooled ++ [m]
                   readyList := r.readyList.map fun x => if x.1 = n then (m, x.2) else x }

/-- A node of an overflow list takes a freed pool entry: the one that became ready first (R139). -/
def State.refill (s : State) : State :=
  let waiting := s.replays.flatMap fun r => r.overflow.filterMap fun n => (r.readyList.find? fun x => x.1 == n).map fun x => (x.2, r, n)
  let first := waiting.foldl (fun (m : Option (Nat × Replay × Nat)) x => match m with | some y => if x.1 < y.1 then some x else m | none => some x) none
  match first with
  | some (_, r, n) => if s.poolUsed < 8192 then s.takeListed r n else s
  | none => s

/-- Nodes of the overflow lists take every entry that is free. -/
def State.refillAll (s : State) : State := (List.range (s.replays.map fun r => r.overflow.length).sum).foldl (fun s _ => s.refill) s

/-- Check the record of a node that stands in the overflow list at place k (R133), and write its entry (R139). -/
def State.listNode (s : State) (rid k n : Nat) : State :=
  match s.replay? rid with
  | none => s
  | some r =>
    let later (s : State) : State := s.onReplay rid fun r => { r with listing := r.listing ++ [(k, n)] }
    let fails (s : State) : State := s.abort rid { xstat := 6, cause := 0, node := n }
    match s.nodeBytes r n with
    | .wait s => later s
    | .fault _ _ => fails s
    | .ok (s, b) =>
      if nodeBad b then s.abort rid { xstat := 2, cause := 0, node := n }
      else
        match s.devWrite r.ctx (r.listVa k) (toLE 4 n) with
        | .ok s => s
        | .fault _ _ => fails s
        | .wait s => later s

/-- Entries of overflow lists that could not be made are tried again. -/
def State.listAgain (s : State) : State :=
  s.replays.foldl (fun s r =>
    r.listing.foldl (fun s x => s.listNode r.rid x.1 x.2) (s.onReplay r.rid fun r => { r with listing := [] })) s

/-- A node becomes ready: it takes a pool entry, or stands in the overflow list of its spill region (R139). -/
def State.nodeReady (s : State) (rid n : Nat) : State :=
  let s := s.refillAll
  match s.replay? rid with
  | none => s
  | some r =>
    let t := s.ftc 0
    if s.poolUsed < 8192 && s.replays.all fun r => r.overflow.isEmpty then
      s.onReplay rid fun r => { r with readyList := r.readyList ++ [(n, t)], pooled := r.pooled ++ [n] }
    else
      (s.onReplay rid fun r => { r with readyList := r.readyList ++ [(n, t)], overflow := r.overflow ++ [n], listed := r.listed + 1 }).listNode
        rid r.listed n

/-- One decrement of a node (R137): of a hardware counter at once, of a spill word at its home (R138). -/
def State.decrement (s : State) (rid n : Nat) : State :=
  match s.replay? rid with
  | none => s
  | some r =>
    if r.aborted.isSome then s
    else if r.desc.nodes ≤ n then s.abort rid { xstat := 2, cause := 0, node := n % 2 ^ 16 }
    else
      match r.hw.get? n with
      | some k =>
        if k = 1 then (s.onReplay rid fun r => { r with hw := r.hw.erase n }).nodeReady rid n
        else s.onReplay rid fun r => { r with hw := r.hw.set n (k - 1) }
      | none =>
        if r.spilled.contains n then s.later 0 (.spillDecrement rid n)
        else s.abort rid { xstat := 3, cause := 0, node := n }

/-- A node completes: behind the kernel boundary of a flight or copy (09 R234), its successors are decremented (R152). -/
def State.completeNode (s : State) (rid n : Nat) (node : Node) : Got State :=
  match s.replay? rid with
  | none => .ok s
  | some r =>
    match s.devRead r.ctx ((r.desc.succBase + 4 * node.succ) % 2 ^ 72) (4 * node.nsucc) with
    | .wait s => .wait s
    | .fault _ _ => .ok ((if node.kind ≤ 1 then s.kernelBoundary else s).abort rid { xstat := 6, cause := 0, node := n })
    | .ok (s, bytes) =>
      let s := if node.kind ≤ 1 then s.kernelBoundary else s
      let s := s.onReplay rid fun r =>
        { r with completed := r.completed + 1, flights := r.flights.erase n, pooled := r.pooled.filter (· != n)
                 readyList := r.readyList.filter fun x => x.1 != n }
      let succs := (List.range node.nsucc).map fun k => field bytes (4 * k) 4
      .ok ((succs.foldl (fun s t => s.decrement rid t) s).checkRetire rid)

/-- The class of a host copy (04 R96), fixed when it is accepted: the pool class where its source's first byte lies in class 0x2; a
first byte that does not translate gives the local class. -/
def State.copyIsPool (s : State) (ctx : Nat) (phys : Bool) (src : Nat) : Got Bool :=
  if phys then .ok (paClass src == 2)
  else
    match s.devAddrs ctx src 1 1 with
    | .ok ((pa, _) :: _) => .ok (paClass pa == 2)
    | .wait pa => .wait (s.fetchRemote 0 pa)
    | _ => .ok false

/-- A host copy is accepted into its class. -/
def State.addCopy (s : State) (c : HostCopy) : State :=
  { s with nextCopy := s.nextCopy + 1, hostCopies := s.hostCopies ++ [{ c with id := s.nextCopy }] }.again 0 (.hostCopyComplete c.pool)

/-- Open a pool entry (R133, R142): its record is read; a flight's walk begins, a copy queues, a JOIN completes. -/
def State.openNode (s : State) (rid n : Nat) : Got State :=
  match s.replay? rid with
  | none => .ok s
  | some r =>
    let ready := ((r.readyList.find? fun x => x.1 == n).map (·.2)).getD 0
    match s.nodeBytes r n with
    | .wait s => .wait s
    | .fault _ _ => .ok (s.abort rid { xstat := 6, cause := 0, node := n })
    | .ok (s, b) =>
      let node := nodeOf b
      if nodeBad b then .ok (s.abort rid { xstat := 2, cause := 0, node := n })
      else
        match node.kind with
        | 0 =>
          match s.contexts.get? r.ctx with
          | none => .ok s
          | some c =>
            let (p, P) := s.packageIndex c
            let left := node.kept (widthOf c.scm.toNat) (widthIn c.scm.toNat) p P
            if left = 0 then s.completeNode rid n node
            else .ok (s.onReplay rid fun r => { r with flights := r.flights.set n { node, ready, left } })
        | 1 =>
          match s.copyIsPool r.ctx false node.csrc with
          | .wait s => .wait s
          | .fault c a => .fault c a
          | .ok pool =>
            .ok ((s.onReplay rid fun r => { r with flights := r.flights.set n { node, ready, left := 1 } }).addCopy
              { ctx := r.ctx, phys := false, src := node.csrc, dst := node.cdst, len := node.clen, pool, queue := none
                node := some (rid, n), ready })
        | _ => s.completeNode rid n node

/-- The first pool entry whose record has not been read. -/
def State.unopened (s : State) : Option (Nat × Nat) :=
  s.replays.findSome? fun r => (r.pooled.find? fun n => (r.flights.get? n).isNone).map fun n => (r.rid, n)

/-- Open pool entries until none is left (JOINs may make others ready); each step opens one. -/
def State.openAll : Nat → State → State
  | 0, s => s
  | fuel + 1, s =>
    let s := s.refillAll
    match s.unopened with
    | none => s
    | some (rid, n) =>
      match s.openNode rid n with
      | .wait s => s
      | .fault _ _ => s
      | .ok s => State.openAll fuel s

/-- After anything that may have made nodes ready: open them, and look for dies. -/
def State.settle (s : State) : State :=
  (State.openAll (1 + (s.replays.map fun r => r.desc.nodes).sum) s.listAgain).wake

end Sys2Proof.Machine
end

