-- ==== Sys2Proof/Machine/Touch.lean ====
section
/-! DEFINITION. What accesses and commands touch in memory, and which of a die's earlier ones a later one waits for (09 R225 R226
R248, 08 R213). -/

namespace Sys2Proof.Machine

/-! ## What a command touches -/

/-- Part of a run that lies in one 64-byte block of its destination. -/
structure Gran where
  src : W72
  dst : Nat
  len : Nat
  deriving DecidableEq, Repr

/-- The granules of a run. -/
def granules : Nat → W72 → Nat → Nat → List Gran
  | 0, _, _, _ => []
  | fuel + 1, src, dst, len =>
    if len = 0 then []
    else
      let n := min len (64 - dst % 64)
      { src, dst, len := n } :: granules fuel (src + BitVec.ofNat 72 n) (dst + n) (len - n)

/-- The tile a copy fills. -/
def Cmd.toTile (k : Cmd) : Option Nat :=
  match k.instr with
  | .cpy f | .cpym f => if f.fd = 1 then some f.flags.toNat else none
  | _ => none

/-- Byte offsets in the tile of a copy's runs (R435). -/
def Cmd.tileRuns (k : Cmd) : List Int :=
  if k.nest.run = 0 then [] else (k.nest.offsets 6).map fun o => (k.a1.toNat % 2 ^ 26 : Nat) + o.2

/-- All granules of a copy, destinations as virtual or gallery addresses. -/
def Cmd.allGranules (k : Cmd) : List Gran :=
  let n := k.nest.run.toNat
  let runs := k.nest.runs k.a0 k.a1
  match k.toTile with
  | none => runs.flatMap fun r => granules (n / 64 + 2) r.1 r.2.toNat n
  | some _ => (runs.zip k.tileRuns).flatMap fun r => granules (n / 64 + 2) r.1.1 (k.tile.at_ + r.2.toNat) n

/-- Physical addresses of bytes a copy reads, where they translate. -/
def State.sourcesOf (s : State) (i : Nat) (k : Cmd) : List Nat :=
  (k.nest.runs k.a0 k.a1).flatMap fun r =>
    match s.engAddrs i r.1 k.nest.run.toNat 1 with | .ok pas => pas.map (·.1) | _ => []

/-- Bytes of a tile row that stand in memory. -/
def Tile.memRow (e : Tile) : Nat := (e.cols.toNat * e.w + 7) / 8

/-- Parts of a tile's image: virtual address, gallery address, length (R438). -/
def Cmd.tileParts (k : Cmd) : List (W72 × Nat × Nat) :=
  let e := k.tile
  let stride : W72 := (k.a1.extractLsb' 0 32).signExtend 72
  let row (r : Nat) : W72 := k.a0 + BitVec.ofNat 72 r * stride
  ((List.range e.rows.toNat).map fun r => (row r, e.at_ + r * e.pitch, e.memRow))
    ++ (if e.scales = 0 then [] else [(row e.rows.toNat, e.at_ + e.rowBytes, 2 * e.scales)])

/-- The status line behind the highest line the parts touch. -/
def Cmd.memStatus (k : Cmd) : W72 :=
  BitVec.ofNat 72 (64 * ((k.tileParts.map fun p => (p.1.toNat + p.2.2 - 1) / 64).foldl max 0 + 1))

/-- Physical lines of a run of a nest from va on that lie on page p, at physical address pa. -/
def Cmd.linesOn (k : Cmd) (va : W72) (p pa : Nat) : List Nat :=
  let bytes := (vaBytes [{ va, len := k.nest.run.toNat }]).filter fun a => a / 2 ^ 16 == p
  distinct (bytes.map fun a => lineOf (pa + a % 2 ^ 16))

/-- The pages that the runs of a nest touch, by run. -/
def Cmd.runPages (k : Cmd) : List (W72 × List Nat) :=
  (k.nest.runs k.a0 k.a0).map fun r => (r.1, pagesOf [{ va := r.1, len := k.nest.run.toNat }])

/-- Physical lines, with their page's attribute, that runs of a nest touch; pages that do not translate are skipped (17 R441). -/
def State.linesTouched (s : State) (i need : Nat) (k : Cmd) : List (Nat × Nat) :=
  k.runPages.flatMap fun r => r.2.flatMap fun p =>
    match s.translate i (s.ctxOn i) (p * 2 ^ 16) need with
    | .ok pa attr => (k.linesOn r.1 p pa).map fun l => (l, attr)
    | _ => []

/-- A line of the page tables that a walk for the runs of a nest lacks. -/
def State.walkWait (s : State) (i need : Nat) (k : Cmd) : Option Nat :=
  k.runPages.findSome? fun r => r.2.findSome? fun p =>
    match s.translate i (s.ctxOn i) (p * 2 ^ 16) need with | .wait pa => some pa | _ => none

/-- Lines of the runs of a PREF, with their page's attribute: a run with a page that does not translate, or that is UC or DEV, is
dropped (17 R442). -/
def State.runsCached (s : State) (i : Nat) (k : Cmd) : List (Nat × Nat) :=
  k.runPages.flatMap fun r =>
    let pages := r.2.map fun p => (p, s.translate i (s.ctxOn i) (p * 2 ^ 16) 1)
    if pages.all fun x => match x.2 with | .ok _ attr => attr ≤ 1 | _ => false then
      pages.flatMap fun x => match x.2 with | .ok pa attr => (k.linesOn r.1 x.1 pa).map fun l => (l, attr) | _ => []
    else []

/-- New value of an AMO (Table 17.4). -/
def amoValue (fn w old x : Nat) : Nat :=
  let sgn (v : Nat) : Int := (BitVec.ofNat w v).toInt
  match fn with
  | 0 => (old + x) % 2 ^ w
  | 1 => old &&& x
  | 2 => old ||| x
  | 3 => old ^^^ x
  | 4 => if sgn old < sgn x then old else x
  | 5 => if sgn old < sgn x then x else old
  | 6 => max old x
  | _ => x

/-- Size, and the new value from the old one. -/
def Cmd.atomic (k : Cmd) : Nat × (Nat → Nat) :=
  match k.instr with
  | .amo f =>
    let size := if f.op.getLsbD 3 then 4 else 8
    (size, fun old => amoValue (f.op.extractLsb' 0 3).toNat (8 * size) old (k.s0.toNat % 2 ^ (8 * size)))
  | .cas f =>
    if f.op = 2 then (16, fun old => if old = k.s0.toNat + k.s1.toNat * 2 ^ 64 then k.s2.toNat + k.s3.toNat * 2 ^ 64 else old)
    else
      let size := if f.op = 1 then 4 else 8
      let m := 2 ^ (8 * size)
      (size, fun old => if old = k.s0.toNat % m then k.s1.toNat % m else old)
  | .rel _ => (8, fun old => (old + k.s0.toNat) % 2 ^ 64)
  | _ => (8, fun old => old)

/-- Physical bytes of an access, where it translates. -/
def State.bytesAt (s : State) (i : Nat) (va : W72) (n need : Nat) : List Nat :=
  match s.engAddrs i va n need with | .ok pas => pas.map (·.1) | _ => []

/-- Bytes a command of die i reads and writes in memory. -/
def State.touchedBy (s : State) (i : Nat) (k : Cmd) : List Nat × List Nat :=
  let word (n : Nat) : List Nat := s.bytesAt i k.a0 n 1
  let parts : List Nat := k.tileParts.flatMap fun p => s.bytesAt i p.1 p.2.2 0
  match k.instr with
  | .cpy f | .cpym f =>
    (s.sourcesOf i k, if f.fd = 0 then (k.nest.runs k.a0 k.a1).flatMap fun r => s.bytesAt i r.2 k.nest.run.toNat 0 else [])
  | .tld _ => (parts, [])
  | .tst _ => ([], parts ++ s.bytesAt i k.memStatus 8 0)
  | .tred _ => (parts, parts ++ s.bytesAt i k.memStatus 8 0)
  | .amo _ | .cas _ | .rel _ | .scst _ => (word k.atomic.1, word k.atomic.1)
  | .acq _ | .scld _ | .waita _ => (word 8, [])
  -- a load of a line of an earlier RINV waits until it has dropped the line (17 R441)
  | .rinv _ => ([], (s.linesTouched i 0 k).flatMap fun l => (List.range 64).map (64 * l.1 + ·))
  | _ => ([], [])

/-! ## What is in the way -/

/-- Whether an earlier load of the die to bytes about to be written has not been performed (09 R225). -/
def State.loadInWay (s : State) (i id : Nat) (pas : List Nat) : Bool :=
  (s.die i).seq.landings.any fun l => l.id < id && l.data.isNone && l.fault.isNone
    && (overlaps pas (l.pas.map (·.1)) || (l.pas.isEmpty && !l.pieces.isEmpty))

/-- Whether a copy of a remote line of some bytes is on its way: a write of them waits for it (09 R225). -/
def State.fillOut (s : State) (pas : List Nat) : Bool := (distinct ((pas.filter fun a => paClass a == 4).map lineOf)).any (s.farOut true)

/-- Whether an earlier command of die i that is not complete writes one of the bytes an access reads or writes, or reads one that it
writes (09 R225, R248). -/
def State.commandInWay (s : State) (i id : Nat) (rd wr : List Nat) : Bool :=
  let d := s.die i
  ((d.c.copyQ0 ++ d.c.copyQ1).filter fun k => k.id < id && !k.performed).any fun k =>
    let (r, w) := s.touchedBy i k
    overlaps rd w || overlaps wr w || overlaps wr r

/-- What an access of die i at a place of the issue order waits for: it reads bytes `rd` and writes bytes `wr` on pages of an
attribute (09 R225, R226; 08 R213). -/
def State.inWay (s : State) (i id attr : Nat) (rd wr : List Nat) : Bool :=
  s.storeInWay i id (rd ++ wr) attr || s.loadInWay i id wr || s.deviceInWay i id attr || s.commandInWay i id rd wr || s.fillOut wr

end Sys2Proof.Machine
end

