-- ==== Sys2Proof/Machine/CopyEngine.lean ====
section
/-! DEFINITION. The copy engine (17): copies, whole-tile accesses, cache maintenance, atomics and synchronisation as its
streams carry them out; replayable faults (10 R258, 04 R97); the matrix engine's completions; engine faults (10 R252). -/

namespace Sys2Proof.Machine

/-! ## The fault ring (04 R97, 10 R258) -/

/-- Write a record into the ring at TAIL and raise vector 64. -/
def State.ringPut (s : State) (b : List Byte) : State :=
  let at_ := 3 * 2 ^ 52 + (s.fqbase.toNat * 32 + 32 * s.fqtail.toNat) % 2 ^ 52
  ({ s with fqtail := s.fqtail + 1, fqCount := s.fqCount + 1 }.homeWrite (placeAt at_ b)).raise 64

/-- FULL: one more record would make TAIL equal HEAD, which reads as an empty ring. R97 does not say at which count the ring is full
(DESIGN CHOICE, assumption 58). -/
def State.ringFull (s : State) : Bool := s.fqtail + 1 == s.fqhead

/-- Records that wait take the room there is, in order. -/
def State.ringFlush : Nat → State → State
  | 0, s => s
  | n + 1, s =>
    match s.fqWait with
    | b :: r => if s.ringFull then s else State.ringFlush n ({ s with fqWait := r }.ringPut b)
    | [] => s

/-- Record a replayable fault: the state and the record's number, its index modulo 4,096. -/
def State.ringAdd (s : State) (b : List Byte) : State × Nat :=
  let ix := s.fqCount + s.fqWait.length
  (State.ringFlush (s.fqWait.length + 1) { s with fqWait := s.fqWait ++ [b] }, ix)

/-- A fault ring record (Table 10.5). -/
def faultRecord (ctx kind w : Nat) (va : W72) (src id cix : Nat) : List Byte :=
  toLE 2 ctx ++ toLE 1 kind ++ toLE 1 w ++ toLE 9 va.toNat ++ toLE 3 0 ++ toLE 2 src ++ toLE 2 id ++ toLE 4 cix ++ toLE 8 0

/-! ## Accesses of a die's copy engine -/

/-- What a try at a command comes to. -/
inductive Ended where
  | wait (s : State)
  | done (s : State)
  | park (s : State) (va : W72)
  | fail (s : State) (x : Fail)

/-- Write bytes for command k of die i at their homes (R430), near and far. -/
def State.engPut (s : State) (i : Nat) (w : Waiter) (ws : List (Nat × Byte)) (attr : Nat := 0) : State :=
  let (far, near) := ws.partition fun x => paClass x.1 == 4
  let s := (s.engWrite i near attr).l1Purge i (distinct (far.map fun w => lineOf w.1))
  if far.isEmpty then s else s.sendWrites i w far 0 0

/-- Deliver a command's result to its landing buffer entry. -/
def State.deliver (s : State) (i : Nat) (k : Cmd) (bytes : List Byte) : State :=
  match k.landing with
  | none => s
  | some id => s.onDie i fun d => d.onSeq fun q =>
      { q with landings := q.landings.map fun l => if l.id = id then { l with data := some bytes } else l }

/-- A matrix engine command issued before reads a tile (16 R405). -/
def Die.readsPending (d : Die) (k : Cmd) (t : Nat) : Bool :=
  d.c.matQ.any fun m => m.id < k.id && (useOf m.op).tiles.contains t

/-! ## Copies (R433, R435) -/

/-- Bytes of a copy, each with the byte it is read from: a byte written over one that the command reads, or read from one that it
writes, is a free value (R433, 00 R8). -/
def State.freeOver (s : State) (both : List Nat) : List ((Nat × Nat) × Byte) → State × List (Nat × Byte)
  | [] => (s, [])
  | ((a, from_), b) :: r =>
    if both.contains a || both.contains from_ then
      let (s', ws) := State.freeOver { s with free := s.free + 1 } both r
      (s', (a, Config.freeByte s.free) :: ws)
    else let (s', ws) := s.freeOver both r; (s', (a, b) :: ws)

/-- Bytes of a granule of a copy whose source is present. -/
def State.copyBytes (s : State) (i : Nat) (k : Cmd) (both : List Nat) (g : Gran) : Ended :=
  match s.engAddrs i g.src g.len 1 with
  | .wait pa => .wait (s.fetchRemote i pa)
  | .fault c va => .fail s { cause := c, va }
  | .ok from_ =>
    let dst : Addrs := if k.toTile.isSome then .ok [] else s.engAddrs i (BitVec.ofNat 72 g.dst) g.len 2
    match dst with
    | .wait pa => .wait (s.fetchRemote i pa)
    | .fault c va => .fail s { cause := c, va }
    | .ok dest =>
      let pas := from_.map (·.1)
      if from_.any fun x => x.2 == 3 then .fail s { cause := .attr, va := g.src }
      else if dest.any fun x => x.2 == 3 then .fail s { cause := .attr, va := BitVec.ofNat 72 g.dst }
      else if s.inWay i k.id 0 pas (dest.map (·.1)) then .wait s
      else if pas.any s.poisoned then
        let s := if k.toTile.isSome then s.onDie i fun d => d.poisonRows (rowsOf ((List.range g.len).map (g.dst + ·))) else s
        .fail s { cause := .poison, va := g.src }
      else
        match pas.find? s.absent with
        | some pa => .wait (s.fetchRemote i pa)
        | none =>
          let (s, bytes) := s.engRead i pas
          if k.toTile.isSome then .done (s.onDie i fun d => d.putTile (s.us i) (placeAt g.dst bytes))
          else
            let (s, ws) := s.freeOver both (((dest.map (·.1)).zip pas).zip bytes)
            .done (s.engPut i (.store k.id) ws ((dest.map (·.2)).foldl max 0))

/-- One granule of a copy. Where its source is not present the command parks, the bytes before that page written (10 R258). -/
def State.copyGran (s : State) (i : Nat) (k : Cmd) (both : List Nat) (g : Gran) : Ended :=
  match s.engAddrs i g.src g.len 1 with
  | .fault .page va =>
    let n := (va - g.src).toNat
    if n = 0 then .park s va
    else
      match s.copyBytes i k both { g with len := n } with
      | .done s => .park s va
      | x => x
  | _ => s.copyBytes i k both g

/-- Whether a granule that has gone to another package is not acknowledged. -/
def State.granuleOut (s : State) (i : Nat) (k : Cmd) : Bool := (s.die i).fab.requests.any fun r => r.waiter == .store k.id

/-- Granules one after another; how many are done. One that goes to another package is done once its home acknowledges it, and none
is written behind it before (R435). -/
def State.copyRun (i : Nat) (k : Cmd) (both : List Nat) : List Gran → Nat → State → Nat × Ended
  | [], n, s => (n, .done s)
  | g :: r, n, s =>
    match s.copyGran i k both g with
    | .done s =>
      if s.granuleOut i k then (n, .wait (s.onDie i fun d => d.onC fun c => c.onCmd (copyEngine k.stream) k.cmdix fun x => { x with locked := true }))
      else State.copyRun i k both r (n + 1) s
    | x => (n, x)

/-- A command as it stands after n granules. -/
def State.keepDone (s : State) (i n : Nat) (k : Cmd) (done : Nat) : State :=
  s.onDie i fun d => d.onC fun c => c.onCmd (copyEngine n) k.cmdix fun x => { x with done, begun := true }

/-- Rows of a tile that a copy has not written expire when a fault ends it (08 Table 8.4). -/
def State.expireUnwritten (s : State) (i : Nat) (e : Tile) (written : List Nat) : State :=
  s.onDie i fun d => d.expireUnwritten e written

/-- Bytes that a memory-to-memory copy both reads and writes. -/
def State.bothOf (s : State) (i : Nat) (k : Cmd) : List Nat :=
  if k.toTile.isSome then []
  else (let (srcs, dests) := s.touchedBy i k; if overlaps srcs dests then srcs.filter dests.contains else [])

/-- CPY, CPYM: `limit` granules, or all that are left where it is 0. `locked` says that granule `done` has gone to another package. -/
def State.copyHead (s : State) (i n : Nat) (k : Cmd) (limit : Nat) : Ended :=
  let gs := k.allGranules
  let out : Bool := match k.toTile with
    | some _ => k.tileRuns.any fun o => decide (o < 0) || decide ((256 * k.tile.footRows : Nat) < o + (k.nest.run.toNat : Nat))
    | none => false
  let blocked : Bool := match k.toTile with | some t => (s.die i).readsPending k t | none => false
  let rows (m : Nat) := rowsOf ((gs.take m).flatMap fun g => (List.range g.len).map (g.dst + ·))
  let failed (s : State) (x : Fail) (done : Nat) : Ended :=
    let x := { x with done, unit := match k.instr with | .cpy f | .cpym f => f.nest.toNat | _ => 0, tile := k.toTile.getD 0 }
    .fail (if k.toTile.isSome then s.expireUnwritten i k.tile (rows done) else s) x
  if out then failed s { cause := .badAddr } 0
  else if blocked || (k.locked && s.granuleOut i k) then .wait s
  else
    let done := if k.locked then k.done + 1 else k.done
    let s := if k.locked then s.onDie i fun d => d.onC fun c => c.onCmd (copyEngine n) k.cmdix fun x => { x with locked := false } else s
    let left := gs.drop done
    let now := if limit = 0 then left else left.take limit
    match State.copyRun i k (s.bothOf i k) now done s with
    | (m, .done s) => if m = gs.length then .done s else .wait (s.keepDone i n k m)
    | (m, .wait s) => .wait (s.keepDone i n k m)
    | (m, .park s va) => .park (s.keepDone i n k m) va
    | (m, .fail s x) => failed s x m

/-! ## Whole-tile accesses (R438 to R440, 09 R243 to R247) -/

/-- Bytes of the parts paired with gallery bytes, and the strongest attribute of their pages. -/
def State.tileBytes (s : State) (i need : Nat) : List (W72 × Nat × Nat) → Except (Except State (Cause × W72)) (List (Nat × Nat) × Nat)
  | [] => .ok ([], 0)
  | (va, g, n) :: r =>
    match s.engAddrs i va n need with
    | .wait pa => .error (.error (s.fetchRemote i pa))
    | .fault c a => .error (.ok (c, a))
    | .ok pas =>
      if pas.any fun x => x.2 == 3 then .error (.ok (.attr, va))
      else
        match s.tileBytes i need r with
        | .error e => .error e
        | .ok (more, attr) => .ok ((pas.zipIdx.map fun x => (x.1.1, g + x.2)) ++ more, (pas.map (·.2)).foldl max attr)

/-- The virtual address of the first of a tile's bytes that a line of memory poisons (10 Table 10.2). -/
def State.poisonVa (s : State) (parts : List (W72 × Nat × Nat)) (ws : List (Nat × Nat)) : W72 :=
  let vas := parts.flatMap fun p => (List.range p.2.2).map fun n => p.1 + BitVec.ofNat 72 n
  (((ws.zip vas).find? fun x => s.poisoned x.1.1).map (·.2)).getD 0

/-- The atomic domain of an address (09 R245). -/
def domainOf (pa : Nat) : Nat := if paClass pa = 4 then 1 + paLow pa / 2 ^ 42 else 0

/-- Why a whole-tile access is not started (09 R245). -/
def tileRefused (pas extra : List Nat) : Option Cause :=
  if 1024 < (distinct (pas.map lineOf)).length ∨ 65536 < pas.length then some .tileLimit
  else if 1 < (distinct ((pas ++ extra).map domainOf)).length then some .tileSpan
  else none

/-- The tile a whole-tile access names. -/
def Cmd.tileNo (k : Cmd) : Nat :=
  match k.instr with
  | .tld f | .tst f | .tred f => f.flags.toNat
  | _ => 0

/-- Lines in the order their locks are taken: by home slice, then by address (09 R244). -/
def lockOrder (lines : List Nat) : List Nat :=
  (lines.foldl (fun (m : FMap Nat) l => FMap.set m (homeSlice (64 * l) * 2 ^ 58 + l) l) []).map (·.2)

/-- The lines of a remote tile are read at their home again, together: one that was dropped meanwhile begins the reads anew. -/
def State.readTile (s : State) (i n : Nat) (k : Cmd) (lines : List Nat) : Option State :=
  let lost : Bool := lines.any fun l => s.absent (64 * l) && !s.farOut true l && !s.farOut false l
  if k.locked && !lost then (if lines.any fun l => s.absent (64 * l) then some s else none)
  else
    let s := (lockOrder lines).foldl (fun s l => s.fetchRemote i (64 * l)) (s.dropCopies lines.contains)
    some (s.onDie i fun d => d.onC fun c => c.onCmd (copyEngine n) k.cmdix fun x => { x with locked := true })

/-- TLD at τ. -/
def State.tldHead (s : State) (i n : Nat) (k : Cmd) : Ended :=
  let x : Fail := { cause := .page, tile := k.tileNo }
  let expire (s : State) : State := s.expireUnwritten i k.tile []
  if (s.die i).readsPending k k.tileNo then .wait s
  else
    match s.tileBytes i 1 k.tileParts with
    | .error (.error s) => .wait s
    | .error (.ok (c, va)) => if c = .page then .park s va else .fail (expire s) { x with cause := c, va }
    | .ok (ws, _) =>
      let pas := ws.map (·.1)
      match tileRefused pas [] with
      | some c => .fail (expire s) { x with cause := c }
      | none =>
        if s.inWay i k.id 0 pas [] then .wait s
        else
          match (if pas.any fun a => paClass a == 4 then s.readTile i n k (distinct (pas.map lineOf)) else none) with
          | some s => .wait s
          | none =>
            if pas.any s.poisoned then
              let s := expire s
              .fail (s.onDie i fun d => d.poisonRows (rowsOf ((ws.filter fun w => s.poisoned w.1).map (·.2))))
                { x with cause := .poison, va := s.poisonVa k.tileParts ws }
            else
              let (s, bytes) := s.engRead i pas
              .done (s.onDie i fun d => d.putTile (s.us i) ((ws.map (·.2)).zip bytes))

/-- Send a tile's lines to a remote home as one group: the last carries the group's end (08 R217). -/
def State.sendGroup (s : State) (i n : Nat) (ws : List (Nat × Byte)) : State :=
  let group := (s.die i).fab.nextGroup
  let s := s.onDie i fun d => d.onFab fun f => { f with nextGroup := if f.nextGroup = 2 ^ 32 - 1 then 1 else f.nextGroup + 1 }
  let lines := distinct (ws.map fun x => lineOf x.1)
  lines.zipIdx.foldl (fun s l =>
    s.sendWrites i (.tile n) (ws.filter fun w => lineOf w.1 == l.1) (if l.2 + 1 = lines.length then 2 else 0) group) s

/-- Of writes to one address the last stands. -/
def lastOf (ws : List (Nat × Byte)) : List (Nat × Byte) :=
  ws.foldl (fun m w => FMap.set m w.1 w.2) ([] : FMap Byte)

/-- A TST or TRED whose writes are on their way to a remote home waits for the replies (08 R217). -/
def Die.groupOut (d : Die) (n : Nat) : Bool := d.fab.requests.any fun r => r.waiter == .tile n

/-- TST and TRED at τ, `merge` giving the new bytes and status of what stands in memory. A tile whose bytes have gone to another package
is READY; its command awaits the replies. -/
def State.tileStore (s : State) (i n need : Nat) (k : Cmd) (merge : State → List (Nat × Nat) → List (Nat × Byte) × Option Marks) : Ended :=
  let x : Fail := { cause := .page, tile := k.tileNo }
  let d := s.die i
  let reads := need.testBit 0
  if k.begun then (if d.groupOut n then .wait s else .done s)
  else
    match s.tileBytes i need k.tileParts, s.tileBytes i need [(k.memStatus, 0, 8)] with
    | .error (.error s), _ => .wait s
    | _, .error (.error s) => .wait s
    | .error (.ok (c, va)), _ => .fail s { x with cause := c, va }
    | _, .error (.ok (c, va)) => .fail s { x with cause := c, va }
    | .ok (ws, attr), .ok (st, stAttr) =>
      let pas := ws.map (·.1)
      let stPas := st.map (·.1)
      let t := s.us i
      let rows := rowsOf (ws.map (·.2))
      let bad := (d.firstFault t rows).map (·.2)
      -- a TST reads the tile's own status line
      let badStatus : Option Cause := match (if reads then none else k.tile.status?) with
        | some a => if !d.expired t (a / 256) && (d.tags.get {} (a / 256)).poison then some .poison else none
        | none => none
      match tileRefused pas stPas, bad.or badStatus with
      | some c, _ => .fail s { x with cause := c }
      | none, some c => .fail s { x with cause := c }
      | none, none =>
        if s.inWay i k.id 0 [] (pas ++ stPas) then .wait s
        else
          match (if reads && stPas.any fun a => paClass a == 4 then s.readTile i n k (distinct ((pas ++ stPas).map lineOf)) else none) with
          | some s => .wait s
          | none =>
            if reads && (pas ++ stPas).any s.poisoned then
              .fail s { x with cause := .poison, va := s.poisonVa (k.tileParts ++ [(k.memStatus, 0, 8)]) (ws ++ st) }
            else
            let (s, _) := if reads then s.engRead i (pas ++ stPas) else (s, [])
            let (bytes, marks) := merge s ws
            let word : W64 := match marks with
              | none => d.statusWord t k.tile
              | some m => mergeStatus (BitVec.ofNat 64 (ofLE (stPas.map s.homeByte))) m
            let out := lastOf (bytes ++ stPas.zip (toLE 8 word.toNat))
            let s := s.onDie i fun d => d.moves (if reads then rows else rows ++ (k.tile.status?.map fun a => a / 256).toList)
            if stPas.any fun a => paClass a == 4 then
              .wait (((s.l1Purge i (distinct (out.map fun w => lineOf w.1))).sendGroup i n out).onDie i fun d =>
                d.onC fun c => (c.ready k.moved).onCmd (copyEngine n) k.cmdix fun y => { y with begun := true, moved := [] })
            else .done (s.engWrite i out (max attr stAttr))

/-- TST. -/
def State.tstHead (s : State) (i n : Nat) (k : Cmd) : Ended :=
  s.tileStore i n 2 k fun s ws => (ws.map fun w => (w.1, (s.die i).gbyte w.2), none)

/-- A combine of TRED (R440). -/
def tredElem (op : Nat) (type : BitVec 4) (m x : Nat) : Nat × Flags :=
  if type = 9 then
    if op = 0 then addRne fp32 (fp32.decode m) (fp32.decode x) else selectNum fp32 (op == 1) m x
  else
    let a := (BitVec.ofNat 32 m).toInt
    let b := (BitVec.ofNat 32 x).toInt
    if op = 0 then stepInt m [b] else (bitsOf 32 (if op = 1 then max a b else min a b), 0)

/-- TRED. -/
def State.tredHead (s : State) (i n : Nat) (k : Cmd) (op : Nat) : Ended :=
  s.tileStore i n 3 k fun s ws =>
    let words : List (List (Nat × Byte) × Flags) := (List.range (ws.length / 4)).map fun e =>
      let part := (ws.drop (4 * e)).take 4
      let m := ofLE (part.map fun w => s.homeByte w.1)
      let x := ofLE (part.map fun w => (s.die i).gbyte w.2)
      let (r, f) := tredElem op k.tile.type m x
      ((part.map (·.1)).zip (toLE 4 r), f)
    (words.flatMap fun w => w.1, some { flags := words.foldl (fun (g : Flags) w => g ||| w.2) 0 })

/-! ## Cache maintenance and prefetch (R441, R442) -/

/-- The effect of RWB and RINV. -/
def State.maintain (s : State) (i : Nat) (k : Cmd) (scope : Nat) (drop : Bool) : State :=
  let lines := (s.linesTouched i 0 k).map (·.1)
  let swm := ((s.linesTouched i 0 k).filter fun l => l.2 == 1).map (·.1)
  let mine (a : Nat) : Bool := lines.contains (lineOf a)
  let s := (s.l1Dies i).foldl (fun s d =>
    let s := s.l1WriteBack d mine
    if drop then s.l1Drop d fun a _ => mine a else s) s
  let s := if scope = 3 then s.poolBack swm.contains else s
  if drop && scope == 3 then s.dropCopies lines.contains else s

/-- RWB and RINV: stores issued before are in the L1 first (R441), pages whose walk must wait are not skipped, and SYSTEM scope awaits
what goes to another package (Table 17.1). -/
def State.maintainHead (s : State) (i n : Nat) (k : Cmd) (scope : Nat) (drop : Bool) : Ended :=
  if s.storeInWay i k.id [] 0 then .wait s
  else
    match (if k.begun then none else s.walkWait i 0 k) with
    | some pa => .wait (s.fetchRemote i pa)
    | none =>
      let s := if k.begun then s else s.maintain i k scope drop
      if scope = 3 && s.writeBackOut i then
        .wait (s.onDie i fun d => d.onC fun c => c.onCmd (copyEngine n) k.cmdix fun x => { x with begun := true })
      else .done s

/-- PREF: complete once every fill is asked for. A line of another package fills the L1 when it comes. -/
def State.prefetch (s : State) (i : Nat) (k : Cmd) (toL1 : Bool) : Ended :=
  let lines := s.runsCached i k
  let awaited := lines.filter fun l => s.absent (64 * l.1)
  match s.walkWait i 1 k with
  | some pa => .wait (s.fetchRemote i pa)
  | none =>
    if awaited.any fun l => s.farOut false l.1 then .wait s
    else
      let s := awaited.foldl (fun s l => s.fetchRemote i (64 * l.1)) s
      if !toL1 then .done s
      else
        let s := s.onDie i fun d => { d with prefs := awaited.foldl (fun m l => FMap.set m l.1 l.2) d.prefs }
        .done ((lines.filter fun l => !s.absent (64 * l.1) && !s.poisoned (64 * l.1)).foldl (fun s l => (s.l1Fill i l.1 l.2).l1Room i) s)

/-! ## Atomics (R444 to R447) -/

/-- The word an atomic operation acts on: its physical address and attribute, or how the command ends. -/
def State.word (s : State) (i : Nat) (k : Cmd) (size need : Nat) : Except Ended (Nat × Nat) :=
  let x : Fail := { cause := .badAddr, va := k.a0 }
  match s.engAddrs i k.a0 1 need with
  | .wait pa => .error (.wait (s.fetchRemote i pa))
  | .fault c va => .error (.fail s { x with cause := c, va })
  | .ok ((pa, attr) :: _) =>
    if k.a0.toNat % size ≠ 0 ∨ !([0, 1, 2, 4].contains (paClass pa)) then .error (.fail s x) else .ok (pa, attr)
  | .ok [] => .error (.fail s x)

/-- Operands of a MATOM as they travel (08 Table 8.11). -/
def Cmd.matomBytes (k : Cmd) (pa : Nat) : List Byte :=
  let op := match k.instr with | .amo f | .cas f => f.op.toNat | _ => 0
  let isCas : Bool := match k.instr with | .cas _ => true | _ => false
  toLE 8 (pa % 2 ^ 42) ++ toLE 1 (op + (if isCas then 0x80 else 0)) ++ toLE 1 k.atomic.1 ++ toLE 6 0
    ++ toLE 8 k.s0.toNat ++ toLE 8 (if isCas then k.s1.toNat else 0)
    ++ (if isCas && k.atomic.1 == 16 then toLE 8 k.s2.toNat ++ toLE 8 k.s3.toNat else [])

/-- The scope of a C.A command. -/
def Cmd.scope (k : Cmd) : Nat :=
  match k.instr with
  | .amo f | .cas f | .acq f | .rel f => f.scope.toNat
  | _ => 2

/-- Change the command as its stream holds it. -/
def State.onCopyCmd (s : State) (i n : Nat) (k : Cmd) (f : Cmd → Cmd) : State :=
  s.onDie i fun d => d.onC fun c => c.onCmd (copyEngine n) k.cmdix f

/-- AMO and CAS. -/
def State.atomicHead (s : State) (i n : Nat) (k : Cmd) : Ended :=
  let (size, f) := k.atomic
  if k.performed then .done s
  else
    match s.word i k size 3 with
    | .error e => e
    | .ok (pa, attr) =>
      let pas := (List.range size).map (pa + ·)
      if k.begun || s.inWay i k.id attr [] pas then .wait s
      else if paClass pa = 4 then
        let s := s.l1Purge i [lineOf pa]
        if s.farOut false (lineOf pa) then .wait s
        else .wait ((s.onCopyCmd i n k fun x => { x with begun := true }).sendRequest i pa (.atomic n) 3 (k.matomBytes pa))
      else if s.poisoned pa then .fail (s.poisonLine (lineOf pa)) { cause := .poison, va := k.a0 }
      else
        let (s, bytes) := s.engRead i pas
        let s := s.engWrite i (placeAt pa (toLE size (f (ofLE bytes)))) attr
        .done (s.deliver i k bytes)

/-! ## Synchronisation (R448 to R452, 09 R227 to R231) -/

/-- The object an operation names, with its page's attribute: only WT and UC pages (R449). -/
def State.object (s : State) (i : Nat) (k : Cmd) (need : Nat) : Except Ended (Nat × Nat) :=
  match s.word i k 8 need with
  | .error e => .error e
  | .ok (pa, attr) => if attr = 1 ∨ attr = 3 then .error (.fail s { cause := .attr, va := k.a0 }) else .ok (pa, attr)

/-- Commands that write memory. -/
def writesMem : Instr → Bool
  | .cpy f | .cpym f => f.fd == 0
  | .tst _ | .tred _ | .amo _ | .cas _ | .rel _ | .rwb _ | .rinv _ | .scst _ => true
  | _ => false

/-- Whether every write die i issued before place `id` has been performed at a scope (09 R229, R231; Table 9.1). -/
def State.writesDone (s : State) (i id scope : Nat) (self : BitVec 32) : Bool :=
  let d := s.die i
  scope == 0
    || ((d.seq.stores.all fun w => decide (id ≤ w.id) || (w.sent && scope != 3))
        && ((d.c.copyQ0 ++ d.c.copyQ1).all fun m => decide (id ≤ m.id) || m.cmdix == self || m.performed || !writesMem m.instr)
        && (scope != 3 || (!s.writeBackOut i
          && d.fab.requests.all fun r => match r.waiter with | .store w => decide (id ≤ w) | .tile _ => false | _ => true)))

/-- The wide effect of an acquire: WT lines of the die's L1 go (R231), and at SYSTEM scope copies of remote lines (R233). -/
def State.acquire (s : State) (i scope : Nat) : State :=
  let s := s.l1DropWt i
  if scope = 3 then s.dropCopies fun _ => true else s

/-- The length of a binding's range: 0 is treated as 1 (Table 9.2). -/
def Binding.size (b : Binding) : Nat := max 1 b.len.toNat

/-- Pages of ranges bound to an object, each with its binding. -/
def Cmd.boundPages (k : Cmd) : List (Binding × Nat) :=
  (k.bindings.filter fun b => b.2.v && b.2.obj == k.a0).flatMap fun b =>
    (pagesOf [{ va := b.2.base, len := b.2.size }]).map fun p => (b.2, p)

/-- A line of the page tables that the translation of a bound range lacks. -/
def State.boundWait (s : State) (i : Nat) (k : Cmd) : Option Nat :=
  k.boundPages.findSome? fun b => match s.translate i (s.ctxOn i) (b.2 * 2 ^ 16) 0 with | .wait pa => some pa | _ => none

/-- The lines of ranges bound to an object (R230, R233). -/
def State.boundLines (s : State) (i : Nat) (k : Cmd) : List Nat :=
  k.boundPages.flatMap fun (b, p) =>
    match s.translate i (s.ctxOn i) (p * 2 ^ 16) 0 with
    | .ok pa _ => (List.range 1024).filterMap fun l =>
        let va := p * 2 ^ 16 + 64 * l
        if (b.base.toNat < va + 64 ∧ va < b.base.toNat + b.size) ∨ va + 2 ^ 72 < b.base.toNat + b.size then some (lineOf (pa + 64 * l)) else none
    | _ => []

/-- ACQ. -/
def State.acqHead (s : State) (i n : Nat) (k : Cmd) : Ended :=
  match s.object i k 1 with
  | .error e => e
  | .ok (pa, _) =>
    let pas := (List.range 8).map (pa + ·)
    let far : Bool := paClass pa == 4
    let effect (s : State) : State :=
      let lines := s.boundLines i k
      let s := s.l1DropWt i
      if k.scope = 3 then s.dropCopies lines.contains else s
    if far && !k.begun then
      -- the read is made at the remote home, at the word's size
      if s.inWay i k.id 0 pas [] || s.farOut false (lineOf pa) then .wait s
      else .wait (((s.l1Purge i [lineOf pa]).onCopyCmd i n k fun x => { x with begun := true }).sendRequest i pa (.atomic n) 1
        (toLE 8 (pa % 2 ^ 42) ++ [7, 2] ++ List.replicate 6 0))
    else if far && !k.performed then .wait s
    else
      match (if k.scope = 3 then s.boundWait i k else none) with
      | some t => .wait (s.fetchRemote i t)
      | none =>
        if far then .done (effect s)
        else if s.inWay i k.id 0 pas [] then .wait s
        else if s.poisoned pa then .fail s { cause := .poison, va := k.a0 }
        else
          let (s, bytes) := s.engRead i pas
          .done ((effect s).deliver i k bytes)

/-- Send an MSYNC (08 Table 8.11): 2 release, 3 wake. -/
def State.sendSync (s : State) (i n pa kind value : Nat) (k : Cmd) : State :=
  (s.onCopyCmd i n k fun x => { x with begun := true }).sendRequest i pa (.atomic n) 4
    (toLE 8 (pa % 2 ^ 42) ++ toLE 1 kind ++ toLE 7 0 ++ toLE 8 value)

/-- REL. -/
def State.relHead (s : State) (i n : Nat) (k : Cmd) : Ended :=
  if k.performed then .done s
  else
    match s.object i k 3 with
    | .error e => e
    | .ok (pa, attr) =>
      let pas := (List.range 8).map (pa + ·)
      if k.begun || !s.writesDone i k.id k.scope k.cmdix || s.inWay i k.id 0 [] pas then .wait s
      else if paClass pa = 4 then
        let s := s.l1Purge i [lineOf pa]
        if s.farOut false (lineOf pa) then .wait s else .wait (s.sendSync i n pa 2 k.s0.toNat k)
      else if s.poisoned pa then .fail s { cause := .poison, va := k.a0 }
      else
        let (s, bytes) := s.engRead i pas
        .done (s.engWrite i (placeAt pa (toLE 8 (k.atomic.2 (ofLE bytes)))) attr)

/-- The base die whose monitor table holds a word's monitors (R450, 08 R209). -/
def monitorDie (pa : Nat) : Nat := homeSlice pa / 16
/-- Monitors armed on words of this package in the table of a base die; those of class 0x4 words stand in the remote package's. -/
def State.monitors (s : State) (b : Nat) : Nat :=
  ((List.range 16).map fun y => ((s.die y).c.copyQ0 ++ (s.die y).c.copyQ1).countP fun k =>
    k.armed && paClass k.s1.toNat != 4 && monitorDie k.s1.toNat == b).sum

/-- An armed monitor reads its word when a write of it has been performed (R450): at or above the threshold, the wait has ended with
what it read, whatever is written next. -/
def State.watch (s : State) : State :=
  let armed (k : Cmd) : Bool := k.armed && k.done == 0 && !k.late
  if (List.range 16).any fun y => ((s.die y).c.copyQ0 ++ (s.die y).c.copyQ1).any armed then
    let see (k : Cmd) : Cmd :=
      if armed k && !s.absent k.s1.toNat && k.s0.toNat ≤ s.homeNat k.s1.toNat 8
      then { k with done := 16, s2 := BitVec.ofNat 64 (s.homeNat k.s1.toNat 8) } else k
    (List.range 16).foldl (fun s y =>
      s.onDie y fun d => d.onC fun c => { c with copyQ0 := c.copyQ0.map see, copyQ1 := c.copyQ1.map see }) s
  else s

/-- XWAIT.US of a die has passed since a command issued (10 R271). -/
def State.overdue (s : State) (i : Nat) (k : Cmd) : Bool :=
  let us := ((s.die i).c.xwait.extractLsb' 0 20).toNat
  us != 0 && decide (k.issued + 1000 * us ≤ s.ftc i)

/-- WAITA: read, arm, and end with a status (Table of R450). -/
def State.waitaHead (s : State) (i n : Nat) (k : Cmd) (timeout : Bool) : Ended :=
  match s.object i k 1 with
  | .error e => e
  | .ok (pa, _) =>
    let far : Bool := paClass pa == 4
    let land (s : State) (bytes : List Byte) (st : Nat) : Ended := .done (s.deliver i k (bytes ++ toLE 8 st))
    if k.done = 16 then land s (toLE 8 k.s2.toNat) 0
    else if s.absent pa then .wait (s.fetchRemote i pa)
    else if s.inWay i k.id 0 ((List.range 8).map (pa + ·)) [] then .wait s
    else if s.poisoned pa then .fail s { cause := .poison, va := k.a0 }
    else
      let (s, bytes) := s.engRead i ((List.range 8).map (pa + ·))
      if k.s0.toNat ≤ ofLE bytes then land s bytes 0
      else if k.late then land s bytes 8
      else if k.done ≠ 0 then land s bytes k.done
      else if timeout && s.overdue i k then land s bytes 2
      else if k.armed then .wait (if far then s.dropCopies (· == lineOf pa) else s)
      else if !far && 256 ≤ s.monitors (monitorDie pa) then land s bytes 1
      else .wait ((s.onCopyCmd i n k fun x => { x with armed := true, s1 := BitVec.ofNat 64 pa }).later i (.waitaTimeout i n))

/-- WAKE: every monitor armed on the word ends with WOKEN (R451). -/
def State.wakeWord (s : State) (pa : Nat) : State :=
  let hit (k : Cmd) : Cmd := if k.armed ∧ k.s1.toNat = pa ∧ k.done = 0 then { k with done := 4 } else k
  (List.range 16).foldl (fun s y =>
    s.onDie y fun d => d.onC fun c => { c with copyQ0 := c.copyQ0.map hit, copyQ1 := c.copyQ1.map hit }) s

/-- WAKE. -/
def State.wakeHead (s : State) (i n : Nat) (k : Cmd) : Ended :=
  match s.object i k 1 with
  | .error e => if k.performed then .done s else e
  | .ok (pa, _) =>
      -- accepted at another package, it ends the monitors armed from here too
      if k.performed then .done (s.wakeWord pa)
      else if k.begun then .wait s
      else if paClass pa = 4 then .wait (s.sendSync i n pa 3 0 k)
      else .done (s.wakeWord pa)

/-! ## The sequentially consistent wheel (R453, R454, 09 R238 R239) -/

/-- The order of stamps: wheel count, die, slot. -/
def stampKey (i n : Nat) (k : Cmd) : Nat := (k.stamp * 16 + i) * 2 + n

/-- Bytes of an SC operation, and whether it stores. -/
def Cmd.sc (k : Cmd) : Nat × Bool :=
  match k.instr with
  | .scld f => (if f.op = 1 then 4 else 8, false)
  | .scst f => (if f.op = 1 then 4 else 8, true)
  | _ => (8, false)

/-- The word an SC operation of die i acts on, or how it ends without one (09 R239). -/
def State.scWord (s : State) (i : Nat) (k : Cmd) : Except Ended (Nat × Nat) :=
  let (size, store) := k.sc
  let x : Fail := { cause := .badAddr, va := k.a0 }
  match s.engAddrs i k.a0 1 (if store then 2 else 1) with
  | .wait pa => .error (.wait (s.fetchRemote i pa))
  | .fault c va => .error (.fail s { x with cause := c, va })
  | .ok ((pa, attr) :: _) =>
    if k.a0.toNat % size ≠ 0 ∨ 1 < paClass pa ∨ attr = 1 ∨ attr = 3 then .error (.fail s x)
    else if !store && s.poisoned pa then .error (.fail s { x with cause := .poison })
    else .ok (pa, attr)
  | .ok [] => .error (.fail s x)

/-- Stamps of SC operations sent to a home and not performed; one whose home is not known yet counts for every home, one that faults
for none. -/
def State.openStamps (s : State) (home : Nat × Nat) : List Nat :=
  (List.range 16).flatMap fun y => [0, 1].flatMap fun n =>
    (((s.die y).c.copyQ n).filter fun k => isSc k.instr && !k.performed && (match s.scWord y k with
      | .ok (pa, _) => homeOf pa == home
      | .error (.wait _) => true
      | .error _ => false)).map (stampKey y n)

/-- Perform SC operation k of stream n at its home, where its turn has come; a fault of it is kept for its place. -/
def State.performSc (s : State) (i n : Nat) (k : Cmd) : Ended :=
  let (size, store) := k.sc
  if k.performed then .done s
  else if s.wc < k.stamp + 512 then .wait s
  else
    match s.scWord i k with
    | .error e => e
    | .ok (pa, attr) =>
      let pas := (List.range size).map (pa + ·)
      if (s.openStamps (homeOf pa)).any (· < stampKey i n k) || s.inWay i k.id 0 (if store then [] else pas) (if store then pas else []) then .wait s
      else if store then
        if !s.writesDone i k.id 2 k.cmdix then .wait s
        else .done (s.engWrite i (placeAt pa (toLE size k.s0.toNat)) attr)
      else
        let (s, bytes) := s.engRead i pas
        .done ((s.l1DropWt i).deliver i k bytes)

/-- SC operations of a stream that are not at its head are performed when their turn comes. -/
def State.performAhead (s : State) (i n : Nat) : State :=
  (((s.die i).c.copyQ n).drop 1).foldl (fun s k =>
    if isSc k.instr && !k.performed then
      match s.performSc i n k with
      | .done s => s.onCopyCmd i n k fun x => { x with performed := true }
      | .wait s => s
      | _ => s
    else s) s

/-! ## A stream's oldest command -/

/-- Try the oldest command of a stream. -/
def State.copyTry (s : State) (i n : Nat) (k : Cmd) (limit : Nat) (timeout : Bool) : Ended :=
  match k.instr with
  | .cpy _ => s.copyHead i n k limit
  | .cpym _ => if k.performed then .done s else s.copyHead i n k limit
  | .tld _ => s.tldHead i n k
  | .tst _ => s.tstHead i n k
  | .tred f => s.tredHead i n k f.fd.toNat
  | .rwb f => s.maintainHead i n k (f.fd.extractLsb' 0 2).toNat false
  | .rinv f => s.maintainHead i n k (f.fd.extractLsb' 0 2).toNat true
  | .pref f => s.prefetch i k (f.fd == 0)
  | .amo _ | .cas _ => s.atomicHead i n k
  | .acq _ => s.acqHead i n k
  | .rel _ => s.relHead i n k
  | .waita _ => s.waitaHead i n k timeout
  | .wake _ => s.wakeHead i n k
  | .dec _ => if s.writesDone i k.id 2 k.cmdix then .done s else .wait s
  | .scld _ | .scst _ => s.performSc i n k
  | _ => .done s

/-- A CPYM whose follow-on will not decode: with its bytes complete it waits for the follow-on's turn, which faults it (R436). -/
def Ctxt.badFollowOf (c : Ctxt) (k : Cmd) : Bool :=
  c.matQ.any fun m => m.cmdix == k.cmdix + 1 && (match m.follow with | some bits => (followOn bits).isNone | none => false)

/-- A completed command leaves its stream; its decrement follows (R437, R452). -/
def State.copyFinish (s : State) (i n : Nat) (k : Cmd) : State :=
  if (s.die i).c.badFollowOf k then (s.onCopyCmd i n k fun x => { x with begun := true, performed := true }).later i (.copyCommandComplete i n 0)
  else
  let s := s.onDie i fun d => d.onC fun c => c.finish (copyEngine n) k
  if k.s2.toNat / 2 ^ 32 = 1 && (match k.instr with | .cas _ => false | _ => true) then
    (s.decrement k.replay (k.s2.toNat % 2 ^ 16)).settle
  else s

/-- A replayable fault parks a command (10 R258). -/
def State.parkCopy (s : State) (i n : Nat) (k : Cmd) (va : W72) : State :=
  let (s, ix) := s.ringAdd (faultRecord (s.ctxOn i) 1 0 va
    (s.nid i) (engineNumber (copyEngine n)) k.cmdix.toNat)
  s.onCopyCmd i n k fun x => { x with parked := some ix, begun := true }

/-- Whether a die is halted by the debugger (10 R273). -/
def State.halted (s : State) (i : Nat) : Bool := (s.die i).dbgBlock.halted
/-- Whether a die has reached its pre-emption point and is being saved: its engines begin nothing more (10 R263). -/
def State.resting (s : State) (i : Nat) : Bool := (s.die i).seq.run == .ended && (s.die i).seq.endCause == some .overran
/-- Whether the engines of a die stand still: it is halted, frozen (07 R162), or being saved. -/
def State.still (s : State) (i : Nat) : Bool := s.halted i || (s.die i).seq.frozen || s.resting i

/-- Events for the commands a copy stream holds, for each one. -/
def State.rouseStream (s : State) (y n : Nat) : State :=
  (((s.die y).c.copyQ n).filter fun k => k.parked.isNone).foldl (fun s k =>
    match k.instr with
    | .tld _ | .tst _ | .tred _ => s.later y (.tileLocksAcquired y n)
    | _ => s.later y (.copyCommandComplete y n 0)) s

/-- Whether a command is at its home, on a base die: a freeze of the die does not stop it (07 R162). -/
def Cmd.away (k : Cmd) : Bool :=
  k.armed || isSc k.instr || (k.begun && match k.instr with | .amo _ | .cas _ | .acq _ | .rel _ | .wake _ => true | _ => false)

/-- Whether a command of a copy stream stands still with its die. -/
def State.stands (s : State) (i : Nat) (k : Cmd) : Bool :=
  s.halted i || s.resting i || ((s.die i).seq.frozen && !k.away && decide ((s.die i).seq.frozenTo ≤ k.id))

/-- Carry a stream's oldest command on. Behind a parked one only SC operations, sent to their homes, go on (R454). -/
def State.copyStep (s : State) (i n limit : Nat) (timeout : Bool) (again : Instr) : State :=
  if s.halted i || s.resting i then s.later i again
  else
    let s := s.performAhead i n
    match (s.die i).c.copyQ n with
    | [] => s
    | k :: _ =>
      if s.stands i k then s.later i again
      else if k.parked.isSome then (if ((s.die i).c.copyQ n).any fun k => isSc k.instr && !k.performed then s.later i again else s)
      else
        match s.copyTry i n k limit timeout with
        | .wait s => s.later i again
        | .done s => s.copyFinish i n k
        | .park s va => s.parkCopy i n k va
        | .fail _ _ => s.later i (.engineFault i (copyEngine n))

/-- COPY_COMMAND_COMPLETE (R428): the oldest command of a stream, `granules` of it for a copy. -/
def execCopyCommandComplete (die stream granules : Nat) (s : State) : Host.Outcome State Fault Refusal :=
  event (.copyCommandComplete die stream granules) s (s.copyStep die stream granules false (.copyCommandComplete die stream 0))

/-- TILE_LOCKS_ACQUIRED (09 R244): a whole-tile access at the head of its stream reaches τ. -/
def execTileLocksAcquired (die stream : Nat) (s : State) : Host.Outcome State Fault Refusal :=
  event (.tileLocksAcquired die stream) s (s.copyStep die stream 0 false (.tileLocksAcquired die stream))

/-- WAITA_TIMEOUT (R450): an armed monitor ends once XWAIT.US has passed. -/
def execWaitaTimeout (die stream : Nat) (s : State) : Host.Outcome State Fault Refusal :=
  event (.waitaTimeout die stream) s <|
    match (s.die die).c.copyQ stream with
    | k :: _ =>
      if !k.armed then s
      else if s.overdue die k then s.copyStep die stream 0 true (.waitaTimeout die stream)
      else if s.agenda.contains { unit := die, instr := .waitaTimeout die stream } then s
      else s.later die (.waitaTimeout die stream)
    | [] => s

/-! ## The matrix engine's completions, and engine faults -/

/-- MATRIX_COMMAND_COMPLETE (16 R403) of die `unit`. -/
def execMatrixCommandComplete (s : State) : Host.Outcome State Fault Refusal :=
  dieEvent s <|
    let i := s.unit
    if s.still i then s.later i .matrixCommandComplete
    else
      match (s.die i).headMatrix (s.us i) s.free (Config.freeNat s.free) with
      | .wait => if (s.die i).c.matQ.isEmpty then s else s.later i .matrixCommandComplete
      | .done d =>
        let t := ({ s with free := s.free + matrixDraws } : State).setDie i d
        if (d.c.matQ.head?.map (·.id)) == ((s.die i).c.matQ.head?.map (·.id)) then t.later i .matrixCommandComplete else t
      | .fails .. => s.later i (.engineFault i .matrix)
      | .badFollow .. => s.later i (.engineFault i .matrix)

/-- The fault of an engine's oldest command takes effect, where it meets one now (10 R252). -/
def State.engineFault (s : State) (i : Nat) (e : Engine) : State :=
  let copy (n : Nat) : State :=
    match (s.die i).c.copyQ n with
    | k :: _ =>
      (match s.copyTry i n k 0 false with
       | .fail s x => s.onDie i fun d => d.engineFails e k x
       | _ => s.later i (.copyCommandComplete i n 0))
    | [] => s
  match e with
  | .matrix =>
    (match (s.die i).headMatrix (s.us i) s.free (Config.freeNat s.free) with
     | .fails d k x => ({ s with free := s.free + matrixDraws } : State).setDie i (d.engineFails .matrix k x)
     | .badFollow d k =>
       -- the CPYM it belongs to: its bytes are complete (17 R436)
       let c : Cmd := { k with cmdix := k.cmdix - 1, id := k.id - 1, follow := none }
       let x : Fail := { cause := .illegal, tile := c.toTile.getD 0, done := c.allGranules.length
                         unit := match c.instr with | .cpym f => f.nest.toNat | _ => 0 }
       s.setDie i ((d.onC fun y => { y with matQ := y.matQ.drop 1 }).engineFails (copyEngine k.stream) c x)
     | _ => s.later i .matrixCommandComplete)
  | .copy0 => copy 0
  | .copy1 => copy 1
  | _ => s

end Sys2Proof.Machine
end

