-- ==== Sys2Proof/Machine/XchEngine.lean ====
section
/-! DEFINITION. The exchange engine (18): numbers, tokens and reservations, images as they travel, combines, barriers, the
watchdog, cancellation (10 R271, 18 R471) and the arrival log (10 R268 to R274). -/

namespace Sys2Proof.Machine

/-! ## Images (R462) -/

/-- The form `.add.bf16w` of XCC. -/
def Cmd.wire (k : Cmd) : Bool := match k.instr with | .xcc f => f.op == 1 | _ => false
/-- XCC. -/
def Cmd.combines (k : Cmd) : Bool := match k.instr with | .xcc _ => true | _ => false
/-- DBAR. -/
def Cmd.isBarrier (k : Cmd) : Bool := match k.instr with | .dbar _ => true | _ => false
/-- XDIG. -/
def Cmd.isDigest (k : Cmd) : Bool := match k.instr with | .xdig _ => true | _ => false

/-- Pitch of a row of an image. -/
def Tile.imagePitch (e : Tile) (wire : Bool) : Nat := if wire then pitchOf e.cols.toNat 16 else e.pitch
/-- Bytes of a tile's image. -/
def Tile.imageBytes (e : Tile) (wire : Bool) : Nat := e.scaleBytes + e.rows.toNat * e.imagePitch wire
/-- Gallery address of byte j of the plain image. -/
def Tile.imageAt (e : Tile) (j : Nat) : Nat := if j < e.scaleBytes then e.at_ + e.rowBytes + j else e.at_ + (j - e.scaleBytes)

/-- An element of the wire image. -/
def Die.wireElem (d : Die) (e : Tile) (r c : Nat) : Nat × Flags := convert .rne 0 9 false 8 false false (d.elem e r c)
/-- Byte j of the wire image. -/
def Die.wireByte (d : Die) (e : Tile) (j : Nat) : Byte :=
  let p := e.imagePitch true
  if j % p / 2 < e.cols.toNat then (toLE 2 (d.wireElem e (j / p) (j % p / 2)).1).getD (j % 2) 0 else 0

/-- Gallery addresses that n bytes of an image from `lo` on are made of. -/
def Tile.imageReads (e : Tile) (wire : Bool) (lo n : Nat) : List Nat :=
  (List.range n).flatMap fun k =>
    let j := lo + k
    if wire then
      let p := e.imagePitch true
      if j % p / 2 < e.cols.toNat then [e.elemAt (j / p) (j % p / 2)] else []
    else [e.imageAt j]

/-! ## Numbers, tokens, reservations (R459 to R461) -/

/-- Key of a counter. -/
def counterKey (key ldim ch : Nat) : Nat := (16 * key + ldim) * 2 + ch
/-- The exchange key a command was issued under (R457). -/
def Cmd.key (k : Cmd) : Nat := k.s0.toNat

/-- Send an RTOK (R460): flags 2 DBAR, 4 CANCEL, 8 SROLE. -/
def State.sendToken (s : State) (i : Nat) (k : Cmd) (r : Role) (seqn bytes : Nat) (tag : BitVec 16) (flags : Nat) : State :=
  s.originate i 2
    { dst := BitVec.ofNat 14 r.peer, type := 0x13, tag,
      payload := toLE 1 r.dim ++ toLE 1 (k.stream + flags) ++ toLE 2 seqn ++ toLE 4 (bytes + k.key * 2 ^ 23) }

/-- A role of a command by its kind, as a cancellation names it. -/
def cancelOf (k : Cmd) (r : Role) (sends : Bool) (seqn : Nat) : Cancel :=
  { peer := r.peer, dim := r.dim, ch := k.stream, seq := seqn, key := BitVec.ofNat 8 k.key, srole := sends }

/-- The same role line, whatever the number. -/
def Cancel.sameLine (a b : Cancel) : Bool := a.dim == b.dim && a.ch == b.ch && a.key == b.key && a.srole == b.srole
/-- Number x lies behind y, modulo 2^16. -/
def behind (x y : Nat) : Bool := let g := (BitVec.ofNat 16 y - BitVec.ofNat 16 x).toNat; decide (1 ≤ g ∧ g < 32768)

/-- A role takes number n: records of its last time round go, and a cancellation of the role it pairs with is taken (R471). -/
def State.takeNumber (s : State) (i : Nat) (k : Cmd) (r : Role) (sends : Bool) (seqn : Nat) : State × Bool :=
  let own := cancelOf k r sends seqn
  let pair := cancelOf k r (!sends) seqn
  let hit := (s.die i).fab.cancels.any fun c => c.sameLine pair && c.seq == seqn
  (s.onDie i fun d => d.onFab fun f =>
    { f with cancels := f.cancels.filter fun c => !(c.sameLine pair && (c.seq == seqn || behind c.seq seqn))
             dead := f.dead.filter fun c => !(c.sameLine own && c.seq == seqn) }, hit)

/-- A reservation table entry (R461): the next free one in rotation, for a reservation of the die's own or a token that arrives. -/
def Fabric.freeIndex (f : Fabric) : Nat :=
  ((List.range 512).map fun k => (f.nextResv + k) % 512).find? (fun x => !(f.resv.any fun r => r.index == x)) |>.getD 0

/-- A role begins (R459, R460, R469). -/
def State.beginRole (s : State) (i : Nat) (k : Cmd) (r : Role) : State × Role :=
  let key := counterKey k.key r.ldim k.stream
  let sends := r.send.isSome || k.isBarrier
  let takes := r.recv.isSome || k.isBarrier
  let f := (s.die i).fab
  let sn := (f.sseq.get 0 key).toNat
  let rn := (f.rseq.get 0 key).toNat
  let (s, hitS) := if sends then
      (s.onDie i fun d => d.onFab fun f => { f with sseq := f.sseq.put 0 key (BitVec.ofNat 16 (sn + 1)) }).takeNumber i k r true sn
    else (s, false)
  let (s, hitR) := if takes then
      (s.onDie i fun d => d.onFab fun f => { f with rseq := f.rseq.put 0 key (BitVec.ofNat 16 (rn + 1)) }).takeNumber i k r false rn
    else (s, false)
  let r := { r with sseq := sn, rseq := rn, begun := true, broken := if hitS || hitR then some .xwait else none }
  if k.isBarrier then (s.sendToken i k r rn 0 0 2, r)
  else if takes then
    let ix := (s.die i).fab.freeIndex
    let bytes := k.tile2.imageBytes k.wire
    let s := s.onDie i fun d => d.onFab fun f =>
      { f with nextResv := ix + 1
               resv := f.resv ++ [{ own := true, index := ix, peer := r.peer, dim := r.dim, ch := k.stream, seq := rn,
                                    key := BitVec.ofNat 8 k.key, bytes, stream := k.stream }] }
    (s.sendToken i k r rn bytes (BitVec.ofNat 16 (0xE000 + ix)) 0, { r with index := ix })
  else (s, r)

/-! ## A stream's oldest command -/

/-- Replace a command of an exchange stream. -/
def State.putXch (s : State) (i n : Nat) (k : Cmd) : State :=
  s.onDie i fun d => d.onC fun c => c.onCmd (xchEngine n) k.cmdix fun _ => k

/-- Banks of the tiles a command names. -/
def Cmd.banks (k : Cmd) : List Nat := ([k.tile, k.tile2].filter fun e => e.state != .empty).map fun e => e.base.toNat / 2 ^ 14

/-- Whether two commands may not run at once (R463). -/
def Cmd.clashes (a b : Cmd) : Bool := overlaps (a.roles.map (·.ldim)) (b.roles.map (·.ldim)) || overlaps a.banks b.banks

/-- Whether the oldest command of a stream begins now: no earlier command of the other stream clashes with it (R463), and no earlier
matrix command reads a tile of it (16 R405, R472). -/
def Die.mayBegin (d : Die) (n : Nat) (k : Cmd) : Bool :=
  let other := d.c.xchQ (1 - n)
  let running := other.head?.filter (·.begun)
  let tiles := k.roles.filterMap (·.recv) ++ k.roles.filterMap (·.send) ++ (if k.isDigest then k.moved else [])
  (if k.isBarrier || k.isDigest then running.isNone else !(running.any fun m => m.isBarrier || m.isDigest))
    && !(other.any fun m => m.id < k.id && m.clashes k) && !(tiles.any fun t => d.readsPending k t)

/-- The eight digests of a link (R470). -/
def Link.digests (l : Link) : List Byte :=
  ((List.range 4).flatMap fun c => toLE 8 (l.digtx.get 0 c).toNat) ++ (List.range 4).flatMap fun c => toLE 8 (l.digrx.get 0 c).toNat

/-- Begin the roles of a command: all of them, of a barrier the first that has not begun (R459, R469). -/
def State.beginRoles (i : Nat) (k : Cmd) : List Role → State → State × List Role
  | [], s => (s, [])
  | r :: rs, s =>
    if r.begun then let (s, rs) := State.beginRoles i k rs s; (s, r :: rs)
    else
      let (s, r) := s.beginRole i k r
      if k.isBarrier then (s, r :: rs) else let (s, rs) := State.beginRoles i k rs s; (s, r :: rs)

/-- A command begins. -/
def State.beginExchange (s : State) (i n : Nat) (k : Cmd) : State :=
  if k.isDigest then
    let d := s.die i
    (s.onDie i fun d' => (d'.moves [k.tile2.base.toNat]).gwrite (s.us i) (placeAt k.tile2.at_ (k.roles.flatMap fun r => (d.link r.dim).digests))).putXch i n
      { k with begun := true }
  else
    let late := s.overdue i k
    let (s, roles) := State.beginRoles i k k.roles s
    s.putXch i n { k with begun := true, late, roles }

/-- A tile of a command becomes READY before the command ends (R464, R468). -/
def State.tileReady (s : State) (i n : Nat) (k : Cmd) (t : Nat) : State :=
  if k.moved.contains t then
    s.onDie i fun d => d.onC fun c => (c.ready [t]).onCmd (xchEngine n) k.cmdix fun x => { x with moved := x.moved.filter (· != t) }
  else s

/-- Whether pushes of a send role are not accepted yet (R463). -/
def Fabric.pushesOut (f : Fabric) (n : Nat) (r : Role) (tag : BitVec 16) : Bool :=
  let mine (o : OutPkt) : Bool := o.ch.toNat == 3 + n && o.pkt.dst.toNat == r.peer && o.pkt.tag == tag
  f.sends.any (fun e => e.unacked.any mine) || f.stalled.any mine

/-- Replace role j of the command. -/
def State.putRole (s : State) (i n : Nat) (k : Cmd) (j : Nat) (r : Role) : State :=
  s.onDie i fun d => d.onC fun c => c.onCmd (xchEngine n) k.cmdix fun x => { x with roles := x.roles.set j r }

/-- The token a send role or a barrier round waits for (R460, R469). -/
def Fabric.tokenFor (f : Fabric) (k : Cmd) (r : Role) : Option Resv :=
  f.resv.find? fun x => !x.own && x.peer == r.peer && x.dim == r.dim && x.ch == k.stream && x.seq == r.sseq
    && x.key.toNat == k.key && x.dbar == k.isBarrier

/-- Take a token out of the table. -/
def State.dropResv (s : State) (i : Nat) (x : Resv) : State :=
  s.onDie i fun d => d.onFab fun f => { f with resv := f.resv.filter (· != x) }

/-- A send role goes on (R460, R462, R464). -/
def State.sendTry (s : State) (i n : Nat) (k : Cmd) (j : Nat) (r : Role) (late : Bool) : Ended :=
  let t := r.send.getD 0
  let x : Fail := { cause := .xwait, tile := t, unit := r.ldim, done := r.sent / 64 }
  let total := k.tile.imageBytes k.wire
  let combined : Bool := !k.combines || (k.roles.all fun q => q.recv.isNone || q.finished)
  if r.finished then .done s
  else
    match r.broken with
    | some c => .fail s { x with cause := c }
    | none =>
      match r.token with
      | none =>
        (match (s.die i).fab.tokenFor k r with
         | some y => .wait ((s.dropResv i y).putRole i n k j { r with token := some (y.tag, y.bytes) })
         | none => if late then .fail s x else .wait s)
      | some (tag, bytes) =>
        if r.sent = 0 && !r.readDone && bytes != total then .fail s { x with cause := .badAddr }
        else if !r.readDone then
          let len := min 1024 (total - r.sent)
          let rows := rowsOf (k.tile.imageReads k.wire r.sent len)
          match (s.die i).firstFault (s.us i) rows with
          | some (_, c) => .fail s { x with cause := c }
          | none =>
            let s := s.onDie i fun d => d.moves rows
            let d := s.die i
            let bytes := (List.range len).map fun o =>
              if k.wire then d.wireByte k.tile (r.sent + o) else d.gbyte (k.tile.imageAt (r.sent + o))
            let last : Bool := r.sent + len == total
            let s := s.originate i (BitVec.ofNat 3 (3 + n))
              { dst := BitVec.ofNat 14 r.peer, type := 0x20, tag, lastp := last, payload := bytes }
            let s := s.putRole i n k j { r with sent := r.sent + len, readDone := last }
            .wait (if last && combined then s.tileReady i n k t else s)
        else
          let s := if combined then s.tileReady i n k t else s
          if (s.die i).fab.pushesOut n r tag then .wait s else .done (s.putRole i n k j { r with finished := true })

/-! ## Combining (R467, R468) -/

/-- Combine of a local and a received element (11 R299). -/
def combineElem (op : Nat) (type : BitVec 4) (m x : Nat) : Nat × Flags :=
  match op with
  | 0 => addRne fp32 (fp32.decode m) (fp32.decode x)
  | 1 => addRne fp32 (fp32.decode m) (bf16.decode x)
  | 2 => stepInt m [(BitVec.ofNat 32 x).toInt]
  | _ =>
    match fmtOf type with
    | some F => selectNum F (op == 5) m x
    | none =>
      let a := (BitVec.ofNat 32 m).toInt
      let b := (BitVec.ofNat 32 x).toInt
      (bitsOf 32 (if op = 5 then max a b else min a b), 0)

/-- One row of results: the byte writes, and the status word so far with the row's marks; those of rounding the row into the wire
image are among them (Table 18.3). -/
def Die.combineRow (d : Die) (k : Cmd) (op : Nat) (scales buf : List Byte) (row : Nat) (w : W64) : List (Nat × Byte) × W64 :=
  let a := k.tile
  let b := k.tile2
  let cols := a.cols.toNat
  let at_ := a.scaleBytes + row * a.imagePitch k.wire
  if isBlock a.type then
    let per := cols / 32
    (List.range per).foldl (fun (x : List (Nat × Byte) × W64) blk =>
      let ix := row * per + blk
      let xs := (List.range 32).map fun l => d.elem a row (32 * blk + l)
      let ys := (List.range 32).map fun l => field buf (at_ + 32 * blk + l) 1
      let (sc, es, m) := (if op = 3 then combineFixed else combineCarried) ix (field scales (2 * ix) 2) (field buf (2 * ix) 2) xs ys
      (x.1 ++ placeAt (b.scaleAt row blk) (toLE 2 sc) ++ placeAt (b.elemAt row (32 * blk)) (es.map fun e => BitVec.ofNat 8 e),
        mergeStatus x.2 m)) ([], w)
  else
    let n := if k.wire then 2 else a.w / 8
    let rs := (List.range cols).map fun c => combineElem op a.type (d.elem a row c) (field buf (at_ + n * c) n)
    let sent : Flags := if k.wire then (List.range cols).foldl (fun (g : Flags) c => g ||| (d.wireElem a row c).2) 0 else 0
    (d.elemWrites b row (rs.zipIdx.map fun r => (r.2, r.1.1)), mergeStatus w { flags := rs.foldl (fun (g : Flags) r => g ||| r.2) sent })

/-- Gallery rows the combine of a tile row reads. -/
def Cmd.combineReads (k : Cmd) (row : Nat) : List Nat := rowsOf ((List.range k.tile.cols.toNat).map fun c => k.tile.elemAt row c)

/-- Gallery addresses of a tile's scale area. -/
def Tile.scaleArea (e : Tile) : List Nat := (List.range e.scaleBytes).map (e.at_ + e.rowBytes + ·)

/-- The send tile's scale area, read once the received one has arrived whole (R468): the die with it, or a fault of a row. -/
def Die.readScales (d : Die) (t : Nat) (k : Cmd) (r : Role) : Except Cause (Die × Role) :=
  if r.scales.isSome || r.buf.length < k.tile.scaleBytes then .ok (d, r)
  else
    let rows := rowsOf k.tile.scaleArea
    match d.firstFault t rows with
    | some (_, c) => .error c
    | none => .ok (d.moves rows, { r with scales := some (k.tile.scaleArea.map d.gbyte) })

/-- Combine rows from `row` on while they have arrived whole: rows done, the status word, the die, and a fault. -/
def Die.combineRows (t : Nat) (k : Cmd) (op : Nat) (scales buf : List Byte) : Nat → Nat → W64 → Die → Nat × W64 × Die × Option Cause
  | 0, row, w, d => (row, w, d, none)
  | fuel + 1, row, w, d =>
    if k.tile.rows.toNat ≤ row ∨ buf.length < k.tile.scaleBytes + (row + 1) * k.tile.imagePitch k.wire then (row, w, d, none)
    else
      match d.firstFault t (k.combineReads row) with
      | some (_, c) => (row, w, d, some c)
      | none =>
        let (ws, w) := d.combineRow k op scales buf row w
        Die.combineRows t k op scales buf fuel (row + 1) w ((d.moves (k.combineReads row ++ rowsOf (ws.map (·.1)))).gwrite t ws)

/-- Bytes of the receive image that stand in the tile. -/
def Role.written (r : Role) (k : Cmd) : Nat :=
  if k.combines then (if r.rows = 0 then 0 else k.tile2.scaleBytes + r.rows * k.tile2.imagePitch k.wire) else r.got

/-- A receive role goes on. -/
def State.recvTry (s : State) (i n : Nat) (k : Cmd) (j : Nat) (r : Role) (late : Bool) : Ended :=
  let t := r.recv.getD 0
  let x : Fail := { cause := .xwait, tile := t, unit := r.ldim, recv := true, done := r.written k / 64 }
  if r.finished then .done s
  else
    match r.broken with
    | some c => .fail s { x with cause := c }
    | none =>
      if !k.combines then
        if r.lastIn then .done (s.putRole i n k j { r with finished := true })
        else if late then .fail s x else .wait s
      else if k.tile2.status?.isNone then .fail s { x with cause := .badAddr }
      else
        let op := match k.instr with | .xcc f => f.op.toNat | _ => 0
        match (s.die i).readScales (s.us i) k r with
        | .error c => .fail s { x with cause := c, tile := (k.roles.filterMap (·.send)).headD t, done := r.written k / 64 }
        | .ok (d, r) =>
        let (rows, w, d, bad) := Die.combineRows (s.us i) k op (r.scales.getD []) r.buf (k.tile.rows.toNat + 1) r.rows r.marks d
        let r := { r with rows, marks := w }
        let s := (s.setDie i d).putRole i n k j r
        match bad with
        | some c => .fail s { x with cause := c, tile := (k.roles.filterMap (·.send)).headD t, done := r.written k / 64 }
        | none =>
          if rows < k.tile.rows.toNat then (if late then .fail s { x with done := r.written k / 64 } else .wait s)
          else
            match (s.die i).mergeTile (s.us i) k.tile2 [marksOf w] with
            | none => .fail s { x with cause := .poison, done := r.written k / 64 }
            | some d =>
              let s := ((s.setDie i d).putRole i n k j { r with finished := true }).tileReady i n k t
              .done (if k.roles.all fun q => q.send.isNone || q.readDone then
                       (k.roles.filterMap (·.send)).foldl (fun s t => s.tileReady i n k t) s
                     else s)

/-- A barrier round goes on (R469). -/
def State.roundTry (s : State) (i n : Nat) (k : Cmd) (j : Nat) (r : Role) (late : Bool) : Ended :=
  let x : Fail := { cause := .xwait, unit := r.ldim }
  if r.finished then .done s
  else
    match r.broken with
    | some c => .fail s { x with cause := c }
    | none =>
      if r.token.isSome then .done (s.putRole i n k j { r with finished := true })
      else
      match (s.die i).fab.tokenFor k r with
      | some y => .done ((s.dropResv i y).putRole i n k j { r with finished := true })
      | none => if late then .fail s x else .wait s

/-- One role goes on. -/
def State.roleTry (s : State) (i n : Nat) (k : Cmd) (j : Nat) (r : Role) (late : Bool) : Ended :=
  if k.isBarrier then s.roundTry i n k j r late
  else if r.send.isSome then s.sendTry i n k j r late
  else s.recvTry i n k j r late

/-- Every begun role goes on; the command is done when all are. -/
def State.rolesTry (i n : Nat) (k : Cmd) (late : Bool) : List (Role × Nat) → Bool → State → Ended
  | [], open_, s => if open_ then .wait s else .done s
  | (r, j) :: rs, open_, s =>
    if !r.begun then State.rolesTry i n k late rs true s
    else
      match s.roleTry i n k j r late with
      | .done s => State.rolesTry i n k late rs open_ s
      | .wait s => State.rolesTry i n k late rs true s
      | x => x

/-- The oldest command of an exchange stream. -/
def State.xchHead (s : State) (i n : Nat) : Option Cmd := ((s.die i).c.xchQ n).head?

/-- Try a begun command: a token that stands in the table counts as held, before the watchdog is looked at (10 R271). -/
def State.exchangeTry (s : State) (i n : Nat) (k : Cmd) (timeout : Bool) : Ended :=
  let late : Bool := timeout || k.late
  -- a send role that finds its token does not wait for it
  let s := if late && !k.isBarrier then
      (k.roles.zipIdx.foldl (fun s rj =>
        if rj.1.send.isSome && rj.1.token.isNone && rj.1.broken.isNone then
          (match s.sendTry i n k rj.2 rj.1 false with | .wait s => s | _ => s)
        else s) s)
    else s
  let k := (s.xchHead i n).getD k
  State.rolesTry i n k late k.roles.zipIdx false s

/-! ## Cancellation (10 R271, 18 R471) -/

/-- Gallery rows of the receive tile that the exchange has written. -/
def Role.writtenRows (r : Role) (k : Cmd) : List Nat :=
  let e := k.tile2
  if k.combines then
    rowsOf ((List.range r.rows).flatMap fun row =>
      ((List.range e.cols.toNat).map fun c => e.elemAt row c)
        ++ (if isBlock e.type then (List.range (e.cols.toNat / 32)).map fun b => e.scaleAt row b else []))
  else rowsOf ((List.range r.got).map e.imageAt)

/-- What a cancelled role leaves behind. -/
def State.cancelRole (s : State) (i : Nat) (k : Cmd) (r : Role) : State :=
  if !r.begun then s
  else
    let sends := r.send.isSome || k.isBarrier
    let takes := r.recv.isSome || k.isBarrier
    let bar := if k.isBarrier then 2 else 0
    let s := if sends then s.sendToken i k r r.sseq 0 0 (12 + bar) else s
    let s := if takes then s.sendToken i k r r.rseq 0 0 (4 + bar) else s
    let s := s.onDie i fun d => d.onFab fun f =>
      { f with resv := f.resv.filter fun x =>
                 !(x.own && takes && !k.isBarrier && x.index == r.index)
                   && !(!x.own && sends && x.peer == r.peer && x.dim == r.dim && x.ch == k.stream && x.seq == r.sseq && x.key.toNat == k.key)
               dead := f.dead ++ (if sends then [cancelOf k r true r.sseq] else []) ++ (if takes then [cancelOf k r false r.rseq] else []) }
    match r.recv with
    | some t =>
      if k.moved.contains t && !r.finished then
        let s := s.expireUnwritten i k.tile2 (r.writtenRows k)
        if k.combines && r.rows != 0 then
          s.onDie i fun d => (d.mergeTile (s.us i) k.tile2 [marksOf r.marks]).getD d
        else s
      else s
    | none => s

/-- An exchange command ends in an engine fault. -/
def State.xchFail (s : State) (i n : Nat) (k : Cmd) (x : Fail) : State :=
  let k := (((s.die i).c.xchQ n).find? fun m => m.cmdix == k.cmdix).getD k
  let s := k.roles.foldl (fun s r => s.cancelRole i k r) s
  s.onDie i fun d => d.engineFails (xchEngine n) k x

/-! ## Steps of a stream -/

/-- Carry an exchange stream on. -/
def State.xchStep (s : State) (i n : Nat) : State :=
  let next : Instr := .exchangeComplete i n
  if s.still i then s.again i next
  else
    match s.xchHead i n with
    | none => s
    | some k =>
      if !k.begun && !(s.die i).mayBegin n k then s.again i next
      else
        let s := if k.begun then s else s.beginExchange i n k
        let k := (s.xchHead i n).getD k
        if k.isDigest then (s.onDie i fun d => d.onC fun c => c.finish (xchEngine n) k).again i next
        else
          match s.exchangeTry i n k false with
          | .wait s =>
            let k := (s.xchHead i n).getD k
            let stuck := k.isBarrier && k.roles.all fun r => !r.begun || r.finished
            let s := if stuck then
                (let (s, roles) := State.beginRoles i k k.roles s; s.putXch i n { k with roles })
              else s
            (s.again i next).again i (.xwaitExpiry i n)
          | .done s =>
            let k := (s.xchHead i n).getD k
            (s.onDie i fun d => d.onC fun c => c.finish (xchEngine n) k).again i next
          | _ => s.later i (.engineFault i (xchEngine n))

/-- EXCHANGE_COMPLETE (R463): the oldest exchange of a stream goes on; complete, it leaves, and the next may begin. -/
def execExchangeComplete (die stream : Nat) (s : State) : Host.Outcome State Fault Refusal :=
  event (.exchangeComplete die stream) s (s.xchStep die stream)

/-- XWAIT_EXPIRY (10 R271). -/
def execXwaitExpiry (die stream : Nat) (s : State) : Host.Outcome State Fault Refusal :=
  event (.xwaitExpiry die stream) s <|
    match s.xchHead die stream with
    | none => s
    | some k =>
      if s.still die || !k.begun || !s.overdue die k then s.again die (.xwaitExpiry die stream)
      else
        match s.exchangeTry die stream k true with
        | .fail s x => s.xchFail die stream k x
        | .wait s => s.again die (.xwaitExpiry die stream)
        | _ => s

/-- ENGINE_FAULT (10 R252): the fault of an engine's oldest command takes effect, if it meets one now. -/
def execEngineFault (die : Nat) (e : Engine) (s : State) : Host.Outcome State Fault Refusal :=
  event (.engineFault die e) s <|
    let xch (n : Nat) : State :=
      match s.xchHead die n with
      | none => s
      | some k =>
        if !k.begun then s.again die (.exchangeComplete die n)
        else
          match s.exchangeTry die n k false with
          | .fail s x => s.xchFail die n k x
          | _ => s.again die (.exchangeComplete die n)
    let waits : Bool :=
      match e with
      | .copy0 => ((s.die die).c.copyQ0.head?.map (s.stands die)).getD (s.still die)
      | .copy1 => ((s.die die).c.copyQ1.head?.map (s.stands die)).getD (s.still die)
      | _ => s.still die
    if waits then s.later die (.engineFault die e)
    else
      match e with
      | .xch0 => xch 0
      | .xch1 => xch 1
      | e => s.engineFault die e

/-! ## Arrivals and their log (10 R268 to R274) -/

/-- Whose exchanges a key's are on a die: the running task's, or a saved context's. -/
inductive KeyOwner where
  | none | running | saved (v : Saved)
  deriving DecidableEq, Repr

/-- The owner of a key; a context whose restore is under way is still saved. -/
def State.keyOwner (s : State) (i key : Nat) : KeyOwner :=
  let mine (t : DieTask) : Bool := t.pinned && t.xkey.toNat == key
  let runs : Bool := match (s.die i).task with | some t => mine t && t.task.saved.isNone | none => false
  if runs then .running
  else match s.saved.find? fun v => v.die == i && mine v.task with | some v => .saved v | none => .none

/-- Whether an arrival for a key goes to a log. -/
def State.logs (s : State) (i key : Nat) : Bool :=
  match s.keyOwner i key with
  | .running => s.halted i
  | .saved v => v.kind == .full
  | .none => false

/-- Bytes of an entry. -/
def LogEntry.size (e : LogEntry) : Nat := 64 + 64 * ((e.pkt.payload.length + 63) / 64)
/-- The image of an entry (Table 10.9). -/
def LogEntry.image (e : LogEntry) : List Byte :=
  padTo e.size (padTo 64 (toLE 1 e.kind ++ toLE 1 e.dim ++ toLE 1 e.ch ++ [0] ++ toLE 2 e.seq ++ [0, 0] ++ toLE 8 e.time
    ++ toLE 2 e.pkt.payload.length) ++ e.pkt.payload)
/-- Bytes a log uses after its header. -/
def logUsed (l : List LogEntry) : Nat := (l.map LogEntry.size).sum

/-- The log of a key's owner, its context, and where it stands. -/
def State.logOf (s : State) (i key : Nat) : List LogEntry × Nat × W72 :=
  match s.keyOwner i key with
  | .running => ((s.die i).dbgBlock.log, s.ctxOn i, (s.die i).c.logbase)
  | .saved v => (v.log, v.task.ctx, v.ctxt.logbase)
  | .none => ([], 1024, 0)

/-- Whether a log has room for an entry (R268: 1 MiB less its header). -/
def State.logRoom (s : State) (i key : Nat) (e : LogEntry) : Bool := decide (logUsed (s.logOf i key).1 + e.size ≤ 1048512)

/-- Write bytes at a virtual address of a context; an access that faults or must wait writes nothing. -/
def State.writeIf (s : State) (ctx : Nat) (va : W72) (bs : List Byte) : State :=
  match s.devWrite ctx va.toNat bs with
  | .ok s => s
  | _ => s

/-- Append an arrival to a log. -/
def State.logAppend (s : State) (i key : Nat) (e : LogEntry) : State :=
  let (log, ctx, base) := s.logOf i key
  let s := (s.writeIf ctx (base + BitVec.ofNat 72 (64 + logUsed log)) e.image).writeIf ctx base (toLE 8 (logUsed log + e.size))
  match s.keyOwner i key with
  | .running => s.onDie i fun d => d.onDebug fun g => { g with log := g.log ++ [e] }
  | .saved v => { s with saved := s.saved.map fun w => if w.id = v.id then { w with log := w.log ++ [e] } else w }
  | .none => s

/-- Change the context that owns a key. -/
def State.onOwner (s : State) (i key : Nat) (f : Ctxt → Ctxt) : State :=
  match s.keyOwner i key with
  | .running => s.onDie i fun d => d.onC f
  | .saved v => { s with saved := s.saved.map fun w => if w.id = v.id then { w with ctxt := f w.ctxt } else w }
  | .none => s

/-- The context that owns a key. -/
def State.ownerCtxt (s : State) (i key : Nat) : Option Ctxt :=
  match s.keyOwner i key with
  | .running => some (s.die i).c
  | .saved v => some v.ctxt
  | .none => none

/-- The reservation that a PUSH names (R460). -/
def State.pushResv (s : State) (i : Nat) (ch : BitVec 3) (p : Packet) : Option Resv :=
  if p.tag.toNat / 4096 ≠ 14 then none
  else (s.die i).fab.resv.find? fun r => r.own && r.index == p.tag.toNat % 4096 && r.peer == p.src.toNat && r.ch + 3 == ch.toNat

/-- The command and role, with its place, that a push into a reservation is for. -/
def State.pushFor (s : State) (i : Nat) (rs : Resv) : Option (Cmd × Role × Nat) := do
  let c ← s.ownerCtxt i rs.key.toNat
  let k ← (c.xchQ rs.stream).find? fun k => k.begun && k.roles.any fun r => r.recv.isSome && r.index == rs.index && r.rseq == rs.seq
  let (r, j) ← k.roles.zipIdx.find? fun r => r.1.recv.isSome && r.1.index == rs.index
  pure (k, r, j)

/-- A push is written into its reserved tile (R464, R468). -/
def State.pushNow (s : State) (i : Nat) (rs : Resv) (p : Packet) : State :=
  let key := rs.key.toNat
  let n := rs.stream
  let found := s.pushFor i rs
  match found with
  | none => s
  | some (k, r, j) =>
    let data := p.payload.take (k.tile2.imageBytes k.wire - r.got)
    let r' : Role := { r with got := r.got + data.length, lastIn := p.lastp }
    let upd (r : Role) (c : Ctxt) : Ctxt := c.onCmd (xchEngine n) k.cmdix fun x => { x with roles := x.roles.set j r }
    let s := if p.lastp then s.dropResv i rs else s
    if k.combines then
      s.onOwner i key (upd { r' with buf := r.buf ++ data, broken := if p.poison then some .poison else r.broken })
    else
      let ws := data.zipIdx.map fun b => (k.tile2.imageAt (r.got + b.2), b.1)
      let s := s.onDie i fun d =>
        let d := (d.moves (rowsOf (ws.map (·.1)))).gwrite (s.us i) ws
        if p.poison then d.poisonRows (rowsOf (ws.map (·.1))) else d
      let s := s.onOwner i key (upd r')
      if p.lastp then
        s.onOwner i key fun c => (c.ready r.recv.toList).onCmd (xchEngine n) k.cmdix fun x =>
          { x with moved := x.moved.filter fun t => !(r.recv.toList.contains t) }
      else s

/-- A push for a role of this die: in a freeze it waits for the gallery's ports (07 R162). -/
def State.pushIn (s : State) (i : Nat) (rs : Resv) (p : Packet) : State :=
  if (s.pushFor i rs).isNone then s.countDup i
  else if (s.die i).seq.frozen then s.onDie i fun d => d.onFab fun f => { f with heldPushes := f.heldPushes ++ [(rs, p)] }
  else s.pushNow i rs p

/-- Pushes that waited in a freeze are written. -/
def State.flushPushes (s : State) (i : Nat) : State :=
  let held := (s.die i).fab.heldPushes
  if held.isEmpty || (s.die i).seq.frozen then s
  else held.foldl (fun s x => s.pushNow i x.1 x.2) (s.onDie i fun d => d.onFab fun f => { f with heldPushes := [] })

/-- An RTOK's payload (R460). -/
structure TokenBits where
  dim : Nat
  ch : Nat
  dbar : Bool
  cancel : Bool
  srole : Bool
  seq : Nat
  bytes : Nat
  key : Byte
  deriving DecidableEq, Repr

/-- Read an RTOK; none where a bit that is zero by R57 is set. -/
def tokenBits (p : Packet) : Option TokenBits :=
  let f := field p.payload 1 1
  let w := field p.payload 4 4
  if p.payload.length ≠ 8 ∨ 16 ≤ f ∨ (!f.testBit 2 && f.testBit 3) ∨ 2 ^ 31 ≤ w then none
  else some { dim := field p.payload 0 1, ch := f % 2, dbar := f.testBit 1, cancel := f.testBit 2, srole := f.testBit 3,
              seq := field p.payload 2 2, bytes := w % 2 ^ 23, key := BitVec.ofNat 8 (w / 2 ^ 23) }

/-- The role of this node that a token or a cancellation is about. -/
def TokenBits.line (t : TokenBits) (peer : Nat) : Cancel :=
  { peer, dim := t.dim, ch := t.ch, seq := t.seq, key := t.key, srole := if t.cancel then !t.srole else true }

/-- Whether a token is for a role of this node that was cancelled: it is discarded as a duplicate (R471). -/
def State.tokenDead (s : State) (i : Nat) (p : Packet) (t : TokenBits) : Bool :=
  !t.cancel && (s.die i).fab.dead.any fun c => c.sameLine (t.line p.src.toNat) && c.seq == t.seq

/-- A token or a cancellation takes effect (R460, R461, R469, R471). -/
def State.tokenIn (s : State) (i : Nat) (p : Packet) (t : TokenBits) : State :=
  let f := (s.die i).fab
  let peer := p.src.toNat
  let line := t.line peer
  let dead := f.dead.any fun c => c.sameLine line && c.seq == t.seq
  if !t.cancel then
    if dead then s.countDup i
    else
      let hit (k : Cmd) (r : Role) : Bool :=
        r.begun && (if t.dbar then k.isBarrier else r.send.isSome) && r.token.isNone && r.broken.isNone && r.dim == t.dim && r.peer == peer
          && r.sseq == t.seq
      let cmd := (s.ownerCtxt i t.key.toNat).bind fun c => (c.xchQ t.ch).find? fun k => k.begun && k.roles.any (hit k)
      match cmd with
      | some k =>
        -- its send role waits for it
        s.onOwner i t.key.toNat fun c => c.onCmd (xchEngine t.ch) k.cmdix fun k =>
          { k with roles := k.roles.map fun r => if hit k r then { r with token := some (p.tag, t.bytes) } else r }
      | none =>
        s.onDie i fun d => d.onFab fun f =>
          let index := f.freeIndex
          { f with nextResv := index + 1
                   resv := f.resv ++ [{ own := false, index, peer, dim := t.dim, ch := t.ch, seq := t.seq, key := t.key,
                                        bytes := t.bytes, dbar := t.dbar, tag := p.tag }] }
  else
    let hit (k : Cmd) (r : Role) : Bool :=
      r.begun && r.dim == t.dim && r.peer == peer
        && (if t.srole then (r.recv.isSome || k.isBarrier) && r.rseq == t.seq else (r.send.isSome || k.isBarrier) && r.sseq == t.seq)
    let cmd := (s.ownerCtxt i t.key.toNat).bind fun c => (c.xchQ t.ch).find? fun k => k.begun && k.roles.any (hit k)
    match cmd with
    | some k =>
      s.onOwner i t.key.toNat fun c => c.onCmd (xchEngine t.ch) k.cmdix fun k =>
        { k with roles := k.roles.map fun r => if hit k r then { r with broken := some .xwait, finished := false } else r }
    | none =>
      if dead then s.countDup i
      else s.onDie i fun d => d.onFab fun f => { f with cancels := f.cancels ++ [{ line with srole := t.srole }] }

/-- Arrivals of a log are applied in order (R269). -/
def State.replayLog (s : State) (i : Nat) (log : List LogEntry) : State :=
  log.foldl (fun s e =>
    if e.kind = 1 then
      match s.pushResv i (BitVec.ofNat 3 (3 + e.ch)) e.pkt with
      | some r => s.pushIn i r e.pkt
      | none => s.countDup i
    else
      match tokenBits e.pkt with
      | some t => s.tokenIn i e.pkt t
      | none => s) s

/-- PUSH (R460): written into its reserved tile, logged, refused, or discarded. -/
def execPush (die : Nat) (ch : BitVec 3) (p : Packet) (s : State) : Host.Outcome State Fault Refusal :=
  event (.push die ch p) s <|
    match s.pushResv die ch p with
    | none => let (s, ok) := s.accept die ch p (counts := false); if ok then s.countDup die else s
    | some r =>
      let e : LogEntry := { kind := 1, dim := r.dim, ch := r.ch, seq := r.seq, time := s.ftc die, pkt := p }
      let logged := s.logs die r.key.toNat
      let (s, ok) := s.accept die ch p (logged && !s.logRoom die r.key.toNat e) (logged || (s.pushFor die r).isSome)
      if !ok then s else if logged then s.logAppend die r.key.toNat e else s.pushIn die r p

/-- RTOK (R460, R469, R471). -/
def execRtok (die : Nat) (p : Packet) (s : State) : Host.Outcome State Fault Refusal :=
  event (.rtok die p) s <|
    match tokenBits p with
    | none => s.countBad die
    | some t =>
      let e : LogEntry := { kind := if t.dbar then 4 else 2, dim := t.dim, ch := t.ch, seq := t.seq, time := s.ftc die, pkt := p }
      let logged := s.logs die t.key.toNat
      let (s, ok) := s.accept die 2 p (logged && !s.logRoom die t.key.toNat e) (logged || !s.tokenDead die p t)
      if !ok then s else if logged then s.logAppend die t.key.toNat e else s.tokenIn die p t

end Sys2Proof.Machine
end

