-- ==== Sys2Proof/Machine/Run.lean ====
section
/-! DEFINITION. What a slot operation does when it issues, for every opcode; an event row is no slot operation. -/

namespace Sys2Proof.Machine

/-- The effect of one operation of the bundle issuing, or its precise trap. -/
def runOp (i : Instr) (s : State) : Except Trap State :=
  match i with
  | .add f => issueAdd f s
  | .sub f => issueSub f s
  | .addi f => issueAddi f s
  | .mul f => issueMul f s
  | .mulhs f => issueMulhs f s
  | .mulhb f => issueMulhb f s
  | .divs f => issueDivs f s
  | .divb f => issueDivb f s
  | .rems f => issueRems f s
  | .remb f => issueRemb f s
  | .and f => issueAnd f s
  | .or f => issueOr f s
  | .xor f => issueXor f s
  | .andi f => issueAndi f s
  | .ori f => issueOri f s
  | .xori f => issueXori f s
  | .shl f => issueShl f s
  | .shr f => issueShr f s
  | .sar f => issueSar f s
  | .shli f => issueShli f s
  | .shri f => issueShri f s
  | .sari f => issueSari f s
  | .min f => issueMin f s
  | .max f => issueMax f s
  | .minb f => issueMinb f s
  | .maxb f => issueMaxb f s
  | .clz f => issueClz f s
  | .popc f => issuePopc f s
  | .brev f => issueBrev f s
  | .exts f => issueExts f s
  | .bfx f => issueBfx f s
  | .bfi f => issueBfi f s
  | .sel f => issueSel f s
  | .mov f => issueMov f s
  | .cmp f => issueCmp f s
  | .movl f => issueMovl f s
  | .cmpi f => issueCmpi f s
  | .pand f => issuePand f s
  | .por f => issuePor f s
  | .pxor f => issuePxor f s
  | .pnot f => issuePnot f s
  | .aadd f => issueAadd f s
  | .amov f => issueAmov f s
  | .adiff f => issueAdiff f s
  | .aaddi f => issueAaddi f s
  | .alit f => issueAlit f s
  | .ld size f => issueLd size f s
  | .st size f => issueSt size f s
  | .lda f => issueLda f s
  | .sta f => issueSta f s
  | .spl size f => issueSpl size f s
  | .sps size f => issueSps size f s
  | .gld size f => issueGld size f s
  | .gst size f => issueGst size f s
  | .br f => issueBr f s
  | .call f => issueCall f s
  | .jmpi f => issueJmpi f s
  | .tstb f => issueTstb f s
  | .loop f => issueLoop f s
  | .setshape f => issueSetshape f s
  | .getshape f => issueGetshape f s
  | .node f => issueNode f s
  | .sysr f => issueSysr f s
  | .sysw f => issueSysw f s
  | .trap f => issueTrap f s
  | .fence f => issueFence f s
  | .vadd f => issueVadd f s
  | .vsub f => issueVsub f s
  | .vmul f => issueVmul f s
  | .vmulh f => issueVmulh f s
  | .vmac f => issueVmac f s
  | .vadds f => issueVadds f s
  | .vsubs f => issueVsubs f s
  | .vshl f => issueVshl f s
  | .vshr f => issueVshr f s
  | .vsar f => issueVsar f s
  | .vand f => issueVand f s
  | .vor f => issueVor f s
  | .vxor f => issueVxor f s
  | .vmin f => issueVmin f s
  | .vmax f => issueVmax f s
  | .vabs f => issueVabs f s
  | .vwiden f => issueVwiden f s
  | .vnarrow f => issueVnarrow f s
  | .vfadd f => issueVfadd f s
  | .vfsub f => issueVfsub f s
  | .vfmul f => issueVfmul f s
  | .vfma f => issueVfma f s
  | .vfmin f => issueVfmin f s
  | .vfmax f => issueVfmax f s
  | .vfsgn f => issueVfsgn f s
  | .vcvt f => issueVcvt f s
  | .vcmp f => issueVcmp f s
  | .vrcp f => issueVrcp f s
  | .vrsq f => issueVrsq f s
  | .vexp2 f => issueVexp2 f s
  | .vlog2 f => issueVlog2 f s
  | .vsel f => issueVsel f s
  | .kop f => issueKop f s
  | .vperm f => issueVperm f s
  | .vrot f => issueVrot f s
  | .vbcast f => issueVbcast f s
  | .vextr f => issueVextr f s
  | .vins f => issueVins f s
  | .vreda f => issueVreda f s
  | .vredm f => issueVredm f s
  | .vld f => issueVld f s
  | .vst f => issueVst f s
  | .vgld f => issueVgld f s
  | .vgst f => issueVgst f s
  | .vgath f => issueVgath f s
  | .vscat f => issueVscat f s
  | .mma f => issueMma f s
  | .mmai f => issueMmai f s
  | .mmap f => issueMmap f s
  | .zacc f => issueZacc f s
  | .zadd f => issueZadd f s
  | .zret f => issueZret f s
  | .talloc f => issueTalloc f s
  | .tfree f => issueTfree f s
  | .tstat f => issueTstat f s
  | .trenew f => issueTrenew f s
  | .txpose f => issueTxpose f s
  | .tcvt f => issueTcvt f s
  | .tfill f => issueTfill f s
  | .cbld f => issueCbld f s
  | .ptb f => issuePtb f s
  | .yld f => issueYld f s
  | .yclr f => issueYclr f s
  | .cnest f => issueCnest f s
  | .cpy f => issueCpy f s
  | .cpym f => issueCpym f s
  | .tld f => issueTld f s
  | .tst f => issueTst f s
  | .tred f => issueTred f s
  | .rwb f => issueRwb f s
  | .rinv f => issueRinv f s
  | .pref f => issuePref f s
  | .amo f => issueAmo f s
  | .cas f => issueCas f s
  | .bind f => issueBind f s
  | .acq f => issueAcq f s
  | .rel f => issueRel f s
  | .waita f => issueWaita f s
  | .wake f => issueWake f s
  | .dec f => issueDec f s
  | .scld f => issueScld f s
  | .scst f => issueScst f s
  | .xch f => issueXch f s
  | .xcc f => issueXcc f s
  | .sib f => issueSib f s
  | .grs f => issueGrs f s
  | .dbar f => issueDbar f s
  | .xdig f => issueXdig f s
  | .nop => issueNop s
  | .ret => issueRet s
  | .fend => issueFend s
  | .tret => issueTret s
  | _ => .ok s

/-- The operations of a bundle in slot order (07 R158): each reads what earlier bundles wrote. -/
def runOps : List Op → State → Except Trap State
  | [], s => .ok s
  | (slot, i) :: r, s =>
    match runOp i { s with issue := { s.issue with slot } } with
    | .error t => .error t
    | .ok s => runOps r s

end Sys2Proof.Machine
end

