-- ==== Sys2Proof/Machine/Cycle.lean ====
section
/-! DEFINITION. The sequencer's cycle (07 R161 to R184): boundaries and stopping events (10 R253, R254), landings, code
delivery and cold pages (04 R101), nullification, holds, the governor, the issue of a bundle, and the end of a task. -/

namespace Sys2Proof.Machine

/-! ## Code delivery (07 R182, R183; 04 R99 to R101) -/

/-- Whether a cold page is being fetched. -/
def State.fetching (s : State) (h p : Nat) : Bool := s.coldFetches.any fun f => f.handle == h && f.page == p

/-- Start the fetch of a cold page, once for all dies: it stands among the copies of its source's class (R96, R101). -/
def State.fetchCold (s : State) (h p : Nat) : State :=
  if s.fetching h p then s
  else
    let pool : Bool := match s.objects.get? h with | some o => paClass (s.coldSource o p) == 2 | none => false
    State.later { s with coldFetches := s.coldFetches ++ [{ handle := h, page := p, pool, place := s.nextCopy }] } 0
      (.coldPageFetchComplete h p false)

/-- Whether the engine has come to a fetch: the copies of its class accepted before it are done, and the fetches before it (R96). -/
def State.coldTurn (s : State) (f : ColdFetch) : Bool :=
  (s.hostCopies.all fun c => c.pool != f.pool || (!c.begun && f.place ≤ c.id))
    && ((s.coldFetches.find? fun g => g.pool == f.pool) == some f)

/-- Whether a segment slot lies in CTXBASE to CTXBOUND. -/
def Ctxt.inBounds (c : Ctxt) (seg n : Nat) : Bool := decide (c.ctxbase.toNat ≤ seg ∧ seg + n ≤ c.ctxbound.toNat)

/-- Ask for the next line of the loop buffer: the current segment's own lines, then its successor's. -/
def State.fetchMore (s : State) (i : Nat) : State :=
  let d := s.die i
  let cur := d.seq.halfCur
  let ask (s : State) (h : Half) : State :=
    match h.wanted with
    | some k => s.again i (.codeLineArrival i (lineOf (h.seg + 64 * k)))
    | none => s
  if !cur.live then s
  else if cur.wanted.isSome then ask s cur
  else
    let seg := cur.successor
    if seg = cur.seg || !d.c.inBounds seg 2048 then s
    else if d.seq.halfNext.live && d.seq.halfNext.seg == seg then ask s d.seq.halfNext
    else
      match s.coldInvalid seg with
      | some (h, p) => s.fetchCold h p
      | none =>
        let half := s.newHalf seg 0
        ask (s.onDie i fun d => d.onSeq fun q => { q with halfNext := half }) half

/-- CODE_LINE_ARRIVAL (R183): the line is expanded where a half wants it. -/
def execCodeLineArrival (die line : Nat) (s : State) : Host.Outcome State Fault Refusal :=
  event (.codeLineArrival die line) s <|
    let takes (h : Half) : Option Nat := if h.live then h.wanted.filter fun k => lineOf (h.seg + 64 * k) == line else none
    let q := (s.die die).seq
    let put (h : Half) (k : Nat) : Half := h.expand k (s.textLine h.seg k)
    match takes q.halfCur, takes q.halfNext with
    | some k, _ => (s.onDie die fun d => d.onSeq fun q => { q with halfCur := put q.halfCur k }).fetchMore die
    | none, some k => (s.onDie die fun d => d.onSeq fun q => { q with halfNext := put q.halfNext k }).fetchMore die
    | none, none => s

/-- What the sequencer finds at an address. -/
inductive CodeAt where
  | ready (s : State) (bytes : List Byte)
  | freeze (s : State)
  | bad (s : State) (c : Cause)

/-- Make the half of a segment current, beginning its fetch where neither half holds it. -/
def State.enterHalf (s : State) (i a : Nat) : State :=
  let q := (s.die i).seq
  if q.halfCur.live && q.halfCur.seg == segOf a then s
  else if q.halfNext.live && q.halfNext.seg == segOf a then
    s.onDie i fun d => d.onSeq fun q => { q with halfCur := q.halfNext, halfNext := q.halfCur }
  else
    let half := s.newHalf (segOf a) (lineIn a)
    s.onDie i fun d => d.onSeq fun q => { q with halfNext := q.halfCur, halfCur := half }

/-- The bundle bytes at the program counter of die i (R100, R181, R183; 19 R475). -/
def State.codeAt (s : State) (i : Nat) : CodeAt :=
  let d := s.die i
  let a := d.seq.pc
  if !d.c.inBounds a 1 then .bad s .fetchBound
  else
    let held : Bool := d.seq.halfCur.live && d.seq.halfCur.seg == segOf a || d.seq.halfNext.live && d.seq.halfNext.seg == segOf a
    match (if held then none else s.coldInvalid a) with
    | some (h, p) => if d.seq.coldBad then .bad s .coldFault else .freeze (s.fetchCold h p)
    | none =>
      let s := s.enterHalf i a
      let h := (s.die i).seq.halfCur
      if d.seq.noFall || h.bad || trNline h.trailer ≤ lineIn a then .bad s .illegal
      else
        match h.lines.get? (lineIn a) with
        | none => .freeze (s.fetchMore i)
        | some bytes =>
          if (lineStarts (lineIn a) bytes).contains (a % 64) then
            .ready (s.fetchMore i) ((bytes.take (lineLimit (lineIn a))).drop (a % 64))
          else .bad s .illegal

/-! ## Cold pages (R101) -/

/-- Apply a cold page's patches to its bytes. -/
def State.coldPatches (s : State) (o : Obj) (page : Nat) (bytes : List Byte) : List Byte :=
  let e := s.coldEntry o page
  let first := s.homeNat (e + 48) 4
  let n := s.homeNat (e + 52) 4
  (List.range n).foldl (fun b k =>
    let at_ := s.objBase o + o.patchOff + 16 * (first + k)
    let off := s.homeNat at_ 4 - page * 2 ^ 16
    let len := s.homeNat (at_ + 4) 1
    (List.range len).foldl (fun b j => b.set (off + j) (s.homeByte (at_ + 8 + j))) b) bytes

/-- The fetch of a cold page ends: checked, patched and valid, or every die waiting for it traps COLD_FAULT (R101). -/
def State.endFetch (s : State) (handle page : Nat) (readError : Bool) : State :=
    let pools := (s.coldFetches.filter fun f => f.handle == handle && f.page == page).map (·.pool)
    let s := pools.foldl (fun s p => s.again 0 (.hostCopyComplete p))
      { s with coldFetches := s.coldFetches.filter fun f => !(f.handle == handle && f.page == page) }
    match s.objects.get? handle with
    | none => s
    | some o =>
      if o.coldUnits ≤ page then s
      else
        let e := s.coldEntry o page
        let lo := s.objBase o + (o.hotUnits + page) * 2 ^ 16
        let src := s.coldSource o page
        let addrs := (List.range 65536).map (src + ·)
        let bytes := addrs.map s.homeByte
        let good : Bool := !readError && s.mapped src && s.mapped (src + 65535)
          && !((List.range 1024).any fun l => s.poisoned (src + 64 * l))
          && (Config.shake256 bytes).take 32 == (List.range 32).map fun k => s.homeByte (e + 16 + k)
        if good then
          let s := s.homeWrite (placeAt lo (s.coldPatches o page bytes))
          s.homeWrite [(e, 1)]
        else
          (List.range 16).foldl (fun s i =>
            let d := s.die i
            let wants : Bool := d.seq.run != Run.idle && decide (lo ≤ d.seq.pc ∧ d.seq.pc < lo + 2 ^ 16)
            if wants then s.onDie i fun d => d.onSeq fun q => { q with coldBad := true } else s) s

/-- COLD_PAGE_FETCH_COMPLETE (R101): a fetch whose class's engine serves an earlier copy waits. -/
def execColdPageFetchComplete (handle page : Nat) (readError : Bool) (s : State) : Host.Outcome State Fault Refusal :=
  event (.coldPageFetchComplete handle page readError) s <|
    if s.coldFetches.any fun f => f.handle == handle && f.page == page && !s.coldTurn f
    then s.later 0 (.coldPageFetchComplete handle page readError)
    else s.endFetch handle page readError

/-! ## Waits for earlier accesses (14 R375, 17 R449, 18 R469) -/

/-- Whether what a wait of die i names has been performed. -/
def State.settled (s : State) (i : Nat) (w : MemWait) : Bool :=
  let d := s.die i
  match w with
  | .fence accesses cmds scope _ =>
    (d.seq.stores.all fun w => !accesses.contains w.id || (w.sent && scope != 3))
      && (d.seq.landings.all fun l => !accesses.contains l.id || l.data.isSome || l.fault.isSome)
      && (d.c.allCmds.all fun k => !cmds.contains k.cmdix)
      && (scope != 3 || (!s.writeBackOut i && d.fab.requests.all fun r => match r.waiter with | .store _ | .tile _ => false | _ => true))
  | .command ix => (d.c.copyQ0 ++ d.c.copyQ1).all fun k => k.cmdix != ix
  | .barrier ix => (d.c.xchQ0 ++ d.c.xchQ1).all fun k => k.cmdix != ix

/-- The acquire half of a fence (09 R227). -/
def State.fenceAcquire (s : State) (i scope : Nat) : State :=
  let s := if 2 ≤ scope || (scope == 1 && !s.fused.get false (i / 4)) then s.l1DropWt i else s
  if scope = 3 then s.dropCopies fun _ => true else s

/-- Waits that have ended go, in order, their acquire halves acting. -/
def State.settleWaits (s : State) (i : Nat) : State :=
  let (ended, left) := (s.die i).seq.memWait.partition fun w => s.settled i w
  let s := ended.foldl (fun s w => match w with | .fence _ _ scope true => s.fenceAcquire i scope | _ => s) s
  if ended.isEmpty then s else s.onDie i fun d => d.onSeq fun q => { q with memWait := left }

/-! ## Cycles and freezes (07 R161, R162, R176 to R178) -/

/-- A wall cycle has drawn w. -/
def Die.drew (d : Die) (w : Nat) : Die :=
  (d.onSeq fun q => { q with window := (w :: q.window).take 31, frozen := false }).onCnt fun k => { k with cyc := bump k.cyc }

/-- A frozen wall cycle, counted in a counter; the engines stand still with the die (R162). -/
def State.freeze (s : State) (i : Nat) (f : Counters → Counters) : State :=
  s.onDie i fun d => ((d.drew 0).onSeq fun q => { q with frozen := true, frozenTo := 0 }).onCnt f
def countCode (k : Counters) : Counters := { k with cfrz := bump k.cfrz }
def countLand (k : Counters) : Counters := { k with lfrz := bump k.lfrz }
def countPower (k : Counters) : Counters := { k with pfrz := bump k.pfrz }

/-- Busy weight of the matrix array's command (Table 7.5). -/
def Die.arrayWeight (d : Die) (k : Cmd) : Nat :=
  let full : Nat := match k.instr with
    | .mma f => (match f.fmt.toNat with | 7 | 8 => 1280 | 9 => 1000 | 10 => 1350 | _ => 1400)
    | .mmai _ => 1400
    | .mmap _ => 1500
    | _ => 0
  if d.halfOn then full / 2 else full

/-- Whether a command multiplies (R176). -/
def multiplies : Instr → Bool
  | .mma _ | .mmai _ | .mmap _ => true
  | _ => false

/-- Busy weights of the engines (Table 7.5). A bank draws for a row in one of the die cycles behind the event that moved it: an engine
moves its rows at one instant (assumption 37). -/
def Die.busyWeight (d : Die) : Nat :=
  let array := match d.c.matQ.head? with | some k => if k.follow.isSome then 0 else d.arrayWeight k | none => 0
  let copy (n : Nat) : Nat := match (d.c.copyQ n).head? with
    | some k => if k.parked.isSome then 0 else 40
    | none => 0
  let begun := ([0, 1].filterMap fun n => (d.c.xchQ n).head?).filter (·.begun)
  -- of a barrier the round in progress (18 R463, R469)
  let active (k : Cmd) : List Nat := (k.roles.filter fun r => r.begun && !(k.isBarrier && r.finished)).map (·.ldim)
  array + copy 0 + copy 1 + 40 * (distinct (begun.flatMap active)).length
    + 10 * d.port.length

/-- A die cycle ends, having drawn w. -/
def State.endCycle (s : State) (i w : Nat) : State :=
  s.onDie i fun d =>
    let sum := d.seq.window.sum + w
    -- a command occupies the array where it multiplies (DEDUCED, assumption 58; R176)
    let busy : Bool := match d.c.matQ.head? with | some k => k.follow.isNone && multiplies k.instr | none => false
    { ((d.drew w).onSeq fun q => { q with cycle := q.cycle + 1 }).onCnt fun k => { k with mbusy := if busy then bump k.mbusy else k.mbusy } with
      sum := sum % 2 ^ 20, peak := max d.peak (sum % 2 ^ 20)
      port := (d.port.map fun (b, n) => (b, n - 1)).filter fun x => x.2 != 0 }

/-- A die cycle in which no bundle is looked at, unless the governor freezes it (R178). -/
def State.plainCycle (s : State) (i : Nat) : State :=
  let d := s.die i
  let draw := 200 + d.busyWeight
  let window := d.seq.window.sum
  if window ≠ 0 ∧ d.c.lim < window + draw then s.freeze i countPower else s.endCycle i draw

/-! ## Stopping events (10 R253, R254) -/

/-- Whether a pending engine fault is held until the handler returns (R254). -/
def Ctxt.holdsBack (c : Ctxt) (t : Trap) : Bool :=
  c.inHandler && t.engine != 0 && (match c.lastix with | l :: _ => decide ((c.cmdix - l).toNat < (c.cmdix - t.cmdix).toNat) | [] => false)

/-- The engine fault with the lowest index: the farthest behind CMDIX. -/
def Ctxt.firstEngineFault (c : Ctxt) : Option Trap :=
  (c.pendTraps.filter fun t => t.engine != 0 && !c.holdsBack t).foldl (fun best t =>
    match best with
    | some b => if (c.cmdix - b.cmdix).toNat < (c.cmdix - t.cmdix).toNat then some t else best
    | none => some t) none

/-- The first of a list of events out of it. -/
def dropFirst (t : Trap) : List Trap → List Trap
  | [] => []
  | x :: r => if x = t then r else x :: dropFirst t r

/-- Landings that fault and are due become pending (07 R174). -/
def Die.dueFaults (d : Die) : Die :=
  let hit (l : Landing) : Bool := decide (l.due ≤ d.seq.cycle) && l.fault.isSome
  let ts := (d.seq.landings.filter hit).filterMap (·.fault)
  { d with c := { d.c with pendTraps := d.c.pendTraps ++ ts }, seq := { d.seq with landings := d.seq.landings.filter fun l => !hit l } }

/-- The stopping event taken at the boundary before this die cycle, other than a halt, and the die without it: landing traps come oldest
load first (10 R253). -/
def Die.nextEvent (d : Die) : Option (Trap × Die) :=
  let take (t : Trap) : Trap × Die := (t, d.onC fun c => { c with pendTraps := dropFirst t c.pendTraps })
  match (d.c.pendTraps.filter fun t => t.engine == 0).foldl (fun (best : Option Trap) t =>
      match best with | some b => if t.access < b.access then some t else best | none => some t) none with
  | some t => some (take t)
  | none => d.c.firstEngineFault.map take

/-! ## Debug halts (10 R273, R275) -/

/-- Timers of exchange commands stop and go on: `issued` holds the time run while they stand still (10 R271). -/
def Ctxt.turnTimers (c : Ctxt) (now : Nat) : Ctxt :=
  let f (k : Cmd) : Cmd := { k with issued := now - k.issued }
  { c with xchQ0 := c.xchQ0.map f, xchQ1 := c.xchQ1.map f }

/-- The other dies of the package that are eligible for a die's context: those of the subcube its binding gives (R275, 06 R129). -/
def State.groupOf (s : State) (i : Nat) : List Nat :=
  match s.contexts.get? (s.ctxOn i) with
  | some c => (s.eligibleDies c).filter (· != i)
  | none => []

/-- Ticks of the budget that have run (06 R151). -/
def DieTask.pause (t : DieTask) (now : Nat) : DieTask :=
  match t.since with
  | some x => { t with used := t.used + (now - x), since := none }
  | none => t
def DieTask.run (t : DieTask) (now : Nat) : DieTask := if t.since.isSome then t else { t with since := some now }

/-- A drained die halts. With GROUP it notifies the dies of its cascade; one that was notified forwards the notice (10 R275). -/
def State.halt (s : State) (i reason : Nat) : State :=
  let now := s.ftc i
  let s := s.onDie i fun d =>
    { d with c := d.c.turnTimers now
             task := d.task.map fun t => t.pause now
             seq := { d.seq with haltReq := none, held := none }
             dbgBlock := { d.dbgBlock with halted := true, reason, stepping := false, pass := none } }
  if ((s.die i).dbgBlock.group || (s.die i).dbgBlock.origin.isSome) && (s.die i).task.isSome then
    let from_ := (s.die i).dbgBlock.origin.getD i
    (s.groupOf i).foldl (fun s y =>
      (s.onDie y fun d => if d.dbgBlock.halted then d else d.onDebug fun b => { b with origin := b.origin.or (some from_) }).later y
        .haltCascadeNotice) (s.onDie i fun d => d.onDebug fun b => { b with origin := some from_ })
  else s

/-! ## One cycle -/

/-- A bundle's slots with the guards read (07 R165). -/
def Die.guardsOf (d : Die) (b : Bundle) : List Bool := b.slots.map fun x => d.c.preg x.pfx.guard.toNat != x.pfx.inv

/-- The predicates its guards name. -/
def guardRegs (b : Bundle) : List Nat := distinct (b.slots.map fun x => x.pfx.guard.toNat)

/-- The hold of a bundle (07 R166). -/
def holdOf (b : Bundle) : Nat := (b.slots.map fun x => x.pfx.hold.toNat).foldl max 0

/-- What a decision comes to. -/
inductive Decision where
  | held (s : State)
  | freeze (s : State)
  | trap (s : State) (c : Cause)

/-- Decide bundles until one is to run (07 R165 R167). -/
def State.decideNext : Nat → State → Nat → Decision
  | 0, s, _ => .freeze s
  | n + 1, s, i =>
    match s.codeAt i with
    | .bad s c => .trap s c
    | .freeze s => .freeze s
    | .ready s bytes =>
      let s := s.onDie i fun d => d.enterBody
      match decodeBundle bytes with
      | .error _ => .trap s .illegal
      | .ok b =>
        let d := s.die i
        if !d.c.inBounds d.seq.pc b.len then .trap s .fetchBound
        else
          let guards := d.guardsOf b
          if guards.all fun g => !g then
            let t := { s with issue := { die := i, addr := d.seq.pc, dec := d.seq.schedAt, sched := d.seq.schedAt, guards := guardRegs b } }
            if t.holdShort [] then .trap s .holdShort else
            let (next, noFall) := s.nextBundle d.seq.halfCur d.seq.pc b.len
            State.decideNext n (s.onDie i fun d => (d.advance next noFall).onCnt fun k => { k with inul := bump k.inul }) i
          else
            let at_ := d.seq.schedAt
            let s := s.onDie i fun d => d.onSeq fun q => { q with held := some { guards, wait := holdOf b, dec := at_, sched := at_ + holdOf b } }
            if d.dbgBlock.brken && d.dbgBlock.brk.toNat == d.seq.pc && d.dbgBlock.pass != some d.seq.pc then
              .held (s.onDie i fun d => d.onSeq fun q => { q with haltReq := q.haltReq.or (some 4) })
            else .held s

/-- The bundle held, read again from the loop buffer. -/
def Die.heldBundle (d : Die) : Option Bundle :=
  let a := d.seq.pc
  match d.seq.halfCur.lines.get? (lineIn a) with
  | some bytes => (match decodeBundle ((bytes.take (lineLimit (lineIn a))).drop (a % 64)) with | .ok b => some b | .error _ => none)
  | none => none

/-- The operations of a bundle: all, and those with true guards; none where a slot does not decode. -/
def opsOf (b : Bundle) (guards : List Bool) : Option (List Op × List Op) :=
  let all := b.slots.filterMap fun x => match x.op with | .ok i => some (x.slot, i) | .bad _ => none
  if all.length < b.slots.length then none
  else some (all, ((all.zip guards).filter fun x => x.2).map fun x => x.1)

/-- The state in which a held bundle's operations are looked at. -/
def State.readyIssue (s : State) (i : Nat) (b : Bundle) (h : Held) : State :=
  let d := s.die i
  let (next, noFall) := s.nextBundle d.seq.halfCur d.seq.pc b.len
  { s with issue := { die := i, slot := .s, addr := d.seq.pc, next, noFall, lits := b.lits
                      dec := h.dec, sched := h.sched, guards := guardRegs b } }

/-- Weights of the operations of a bundle that would issue now, together giving r; one that traps or stalls draws none (07 R176). -/
def State.issueWeight (s : State) (all live : List Op) (r : Except Trap State) : Nat :=
  if (s.issueTrap all live).isSome || s.mustStall live || (match r with | .error _ => true | .ok _ => false) then 0
  else (live.map fun o => (useOf o.2).weight + 20 * s.banksTouched o.2).sum

/-- Whether landings of die i are due that have neither data nor a fault (R173). -/
def Die.late (d : Die) : List Landing := d.seq.landings.filter fun l => decide (l.due ≤ d.seq.cycle) && l.data.isNone && l.fault.isNone

/-- The registers as landings and fixed latencies leave them in this die cycle, and the bundle at pc decided where its cycle has come
(R165, R167). -/
def State.decided (s : State) (i : Nat) : Decision :=
  let s := (s.onDie i fun d => d.applyDue (· ≤ d.seq.cycle)).settleWaits i
  let d := s.die i
  if d.seq.held.isSome || d.seq.cycle < d.seq.decideAt then .held s else State.decideNext (2 ^ 64) s i

/-- Whether the bundle about to issue would take a precise trap now (10 R253). -/
def State.wouldTrap (s : State) (i : Nat) : Bool :=
  if !(s.die i).late.isEmpty || (s.die i).seq.run == .ending then false
  else
    match s.decided i with
    | .freeze _ => false
    | .trap _ _ => true
    | .held s =>
      let d := s.die i
      match d.seq.held, d.heldBundle with
      | some h, some b =>
        if h.wait ≠ 0 then false
        else
          let s := s.readyIssue i b h
          (match opsOf b h.guards with
           | none => true
           | some (all, live) =>
             (s.issueTrap all live).isSome
               || (!s.mustStall live && (match runOps live s with | .error _ => true | .ok _ => false)))
      | _, _ => false

/-- Whether the bundle at pc waits for a cold page that is being fetched: a pre-emption waits with it (04 R101). -/
def State.coldWait (s : State) (i : Nat) : Bool :=
  let q := (s.die i).seq
  q.held.isNone && q.run == .running
    && (match s.coldInvalid q.pc with | some (h, p) => s.fetching h p | none => false)

/-- The place in issue order before which copy commands go on while a landing is late: a load may wait for those before it, and a
command's result for those before it until it has begun at its home (DEDUCED, assumption 51): the freeze lasts until the data
arrive (R173), and costs cycles alone. -/
def Die.neededFor (d : Die) (l : Landing) : Nat :=
  match (d.c.copyQ0 ++ d.c.copyQ1).find? fun k => k.landing == some l.id with
  | some k => if k.away then 0 else k.id + 1
  | none => l.id

/-- A landing freeze of die i: the engines stand still in it, but for the copy commands that what is late needs. A code freeze of the
same cycle comes first (R162). -/
def State.freezeLate (s : State) (i : Nat) : State :=
  let d := s.die i
  match (if d.seq.run == .running && d.seq.taking.isNone && d.seq.held.isNone && d.seq.decideAt ≤ d.seq.cycle then s.codeAt i else .bad s .illegal) with
  | .freeze t => t.freeze i countCode
  | _ =>
    let s := s.freeze i countLand
    s.onDie i fun d => d.onSeq fun q => { q with frozenTo := (d.late.map d.neededFor).foldl max 0 }

/-- Issue, stall or trap the held bundle whose hold has run out. -/
def State.issueHeld (s : State) (i : Nat) (b : Bundle) (h : Held) : State :=
  let s := s.readyIssue i b h
  let trap (c : Cause) : State := s.beginTrap i (s.precise c)
  match opsOf b h.guards with
  | none => trap .illegal
  | some (all, live) => perform s all live (runOps live s)

/-- A whole bundle has issued: a step of the debugger ends (10 R272). -/
def State.afterIssue (before : State) (s : State) (i : Nat) : State :=
  if (s.die i).cnt.ibun = (before.die i).cnt.ibun then s
  else s.onDie i fun (d : Die) =>
    let now := s.ftc i
    let d : Die := { d with task := d.task.map (fun (t : DieTask) => if t.started then t else { t.run now with started := true })
                            dbgBlock := { d.dbgBlock with pass := none } }
    if d.dbgBlock.stepping then { d with dbgBlock := { d.dbgBlock with stepping := false }, seq := { d.seq with haltReq := some 3 } } else d

/-- The part of a die cycle behind the boundary: landings, decision, governor, issue (07 R167). -/
def State.runCycle (s : State) (i : Nat) : State :=
  if !(s.die i).late.isEmpty then s.freezeLate i
  else
    match s.decided i with
    | .freeze s => s.freeze i countCode
    | .trap s c =>
      ((s.onDie i fun d => d.onSeq fun q => { q with coldBad := false }).beginTrap i { cause := c, faddr := (s.die i).seq.pc }).plainCycle i
    | .held s =>
      let d := s.die i
      match d.seq.held, d.heldBundle with
      | some h, some b =>
        if d.seq.haltReq == some 4 then s.onDie i (·.drew 0)
        else
          let t := s.readyIssue i b h
          let mine := if h.wait ≠ 0 then 0 else (match opsOf b h.guards with | some (all, live) => t.issueWeight all live (runOps live t) | none => 0)
          let draw := 200 + d.busyWeight + mine
          let window := d.seq.window.sum
          if window ≠ 0 ∧ d.c.lim < window + draw then s.freeze i countPower
          else if h.wait ≠ 0 then
            (s.onDie i fun d => d.onSeq fun q => { q with held := some { h with wait := h.wait - 1 } }).endCycle i draw
          else (State.afterIssue s (s.issueHeld i b h) i).endCycle i draw
      | _, _ => s.plainCycle i

/-- Landing buffer entries of commands that wait behind a parked copy (10 R263). -/
def Die.parkedLandings (d : Die) : List Landing :=
  let behind (q : List Cmd) : List Nat := if (q.head?.bind (·.parked)).isSome then q.filterMap (·.landing) else []
  d.seq.landings.filter fun l => (behind d.c.copyQ0 ++ behind d.c.copyQ1).contains l.id

/-- A die cycle of a drain: writes and landings take effect in their cycles, with landing freezes as needed (R175). The drain of a
pre-emption does not wait for a park to end (10 R263). -/
def State.drainCycle (s : State) (i : Nat) (preempt : Bool := false) : State :=
  let s := s.onDie i Die.dueFaults
  let spared := if preempt then (s.die i).parkedLandings else []
  if (s.die i).late.any fun l => !spared.contains l then s.freezeLate i
  else ((s.onDie i fun d => d.applyDue (· ≤ d.seq.cycle)).settleWaits i).plainCycle i

/-- FEND waits for the task's work (14 R364, 09 R235); done, the task has ended, in a handler with the faults that wait for its return
(10 R254). -/
def State.endingCycle (s : State) (i : Nat) : State :=
  if !(s.die i).late.isEmpty then s.freezeLate i
  else
    let s := (s.onDie i fun d => d.applyDue (· ≤ d.seq.cycle)).settleWaits i
    let d := s.die i
    let idle : Bool := d.c.allCmds.isEmpty && d.drained && (d.seq.stores.all fun w => w.sent) && d.c.pendTraps.all d.c.holdsBack
    let s := if idle then (s.onDie i fun d => d.onSeq fun q => { q with run := .ended, endCause := some .fend }).later i .taskEnd else s
    s.plainCycle i

/-- The wall cycle behind a boundary at which a stopping event was taken: the die drains, or goes on. -/
def State.afterBoundary (s : State) (i : Nat) : State :=
  let q := (s.die i).seq
  if q.taking.isSome then s.drainCycle i else if q.run = .running then s.runCycle i else s.plainCycle i

/-- Whether a whole-tile access has its locks and has not come to τ: a halt lets it (10 R273). -/
def Ctxt.locking (c : Ctxt) : Bool := [c.copyQ0, c.copyQ1].any fun q => match q with | k :: _ => k.locked | [] => false

/-- One wall cycle of a die (07 R161 to R178). -/
def State.dieCycle (s : State) (i : Nat) : State :=
  let d := s.die i
  if !d.powered || s.trust.ps ≠ 0 then s
  else if d.dbgBlock.halted then s.onDie i fun d => d.drew 0
  else
    match d.seq.run with
    | .idle | .ended =>
      (match d.seq.haltReq with
       | some r => (s.halt i r).onDie i (·.drew 0)
       | none => s.plainCycle i)
    | run =>
      match d.seq.taking with
      | some t => if d.drained then (s.enterTrap i t).afterBoundary i else (s.interruptWaits i).drainCycle i
      | none =>
        match d.seq.haltReq with
        | some r => if d.drained && !d.c.locking then (s.halt i r).onDie i (·.drew 0) else (s.interruptWaits i).drainCycle i
        | none =>
          let d := d.dueFaults
          match d.nextEvent with
          | some (t, d) =>
            -- a stopping event in FEND's wait returns to FEND
            let s := s.setDie i (d.onSeq fun q => { q with run := .running })
            (s.beginTrap i t).afterBoundary i
          | none =>
            let s := s.setDie i d
            -- a pre-emption waits for its point: nothing more issues, unless the next bundle would trap (10 R260)
            if d.seq.preempt && !s.coldWait i && !s.wouldTrap i then (s.interruptWaits i).drainCycle i true
            else if run = .ending then s.endingCycle i
            else s.runCycle i

/-- Events of links with something to send follow a die's cycle (02 R32). -/
def State.sendLinks (s : State) (i : Nat) : State :=
  (s.die i).links.foldl (fun s kv =>
    let l := kv.2
    if l.flitQ.isEmpty && l.pktQ.isEmpty && l.resend.isEmpty then s else s.again i (.flitTransmit i kv.1)) s

/-- DIE_CYCLE (R167) of die `unit`. -/
def execDieCycle (s : State) : Host.Outcome State Fault Refusal :=
  dieEvent s (((s.dieCycle s.unit).flushPushes s.unit).sendLinks s.unit)

end Sys2Proof.Machine
end

