-- ==== Sys2Proof/Machine/MemEvents.lean ====
section
/-! DEFINITION. Memory events (07 R173 R174, 08): loads and stores performed, temperature classes and sweeps of the gallery,
scrubs, atrium evictions, invalidations of translations, format windows. -/

namespace Sys2Proof.Machine

/-! ## Loads and stores performed (R210, 09 R225 R226) -/

/-- LANDING_DATA_ARRIVAL (R173, R174): the data of a load are chosen, one 64-byte granule at an instant (09 R242, R247) and in any
order, `how.gran` saying which of those left, where the order of the die's accesses allows it. The L1 may then let lines go, `how.evict`
(08 Table 8.8). -/
def execLandingDataArrival (die entry : Nat) (how : Arrival) (s : State) : Host.Outcome State Fault Refusal :=
  event (.landingDataArrival die entry how) s <|
    let again (s : State) : State := s.again die (.landingDataArrival die entry {})
    match (s.die die).seq.landings.find? fun l => l.id == entry && l.data.isNone && l.fault.isNone && !l.pieces.isEmpty with
    | none => s
    | some l =>
      let (s, l) := if l.pas.isEmpty then s.resolveLoad die l fun hits =>
          !hits.isEmpty && (s.inWay die l.id 0 hits [] || s.loadInWay die l.id hits)
        else (s, l)
      let s := s.onDie die fun d => d.onSeq fun q => q.putLanding l
      if l.data.isSome || l.fault.isSome then s
      else
        -- the granule performed now (09 R242)
        let left := (l.pas.filter fun x => x.2.isNone).map (·.1)
        let lines := distinct (left.map lineOf)
        let line := lines.getD (how.gran % lines.length) 0
        let need := left.filter fun a => lineOf a == line
        if l.pas.isEmpty || s.inWay die l.id l.attr need [] || s.loadInWay die l.id need then again s
        else if 2 ≤ l.attr ∧ paClass (64 * line) = 4 then again (s.readRemote die l.id need)
        else
          match need.find? s.poisoned with
          | some pa =>
            let k := (l.pas.map (·.1)).idxOf pa
            let va := (vaBytes l.pieces).getD k 0
            s.onDie die fun d => d.onSeq fun q => q.putLanding
              { l with fault := some { cause := .poison, landing := true, faddr := l.faddr, vaddr := BitVec.ofNat 72 va, access := l.id } }
          | none =>
            match need.find? s.absent with
            | some pa => again (s.fetchRemote die pa)
            | none =>
              let (s, pas) := s.readBytes die l.attr l.pas (· == line)
              let s := s.l1Purge die how.evict
              let l := { l with pas, data := if lines.length = 1 then some (pas.filterMap (·.2)) else none }
              let s := s.onDie die fun d => d.onSeq fun q => q.putLanding l
              if l.data.isSome then s.countMiss die l.attr else again s

/-- Remove a store. -/
def State.storeGone (s : State) (i id : Nat) : State :=
  s.onDie i fun d => d.onSeq fun q => { q with stores := q.stores.filter fun w => w.id != id }

/-- Whether a store awaits the acknowledgement of a remote home. -/
def State.storeOutFar (s : State) (i id : Nat) : Bool := (s.die i).fab.requests.any fun r => r.waiter == .store id

/-- WRITE_PERFORMED (R210): a store reaches its homes, one 64-byte granule at an instant (09 R242, R247) and in any order, `p.gran` saying
which of those left; or its fault comes back to the die. -/
def execWritePerformed (die : Nat) (p : StorePart) (s : State) : Host.Outcome State Fault Refusal :=
  event (.writePerformed die p) s <|
    let id := p.id
    let again (s : State) : State := s.again die (.writePerformed die { id })
    match (s.die die).seq.stores.find? fun w => w.id == id && !w.sent with
    | none => s
    | some w =>
      let (s, w) := if w.vbytes.isEmpty then (s, w) else s.resolveStore die w fun swm =>
        !swm.isEmpty && s.inWay die id 1 [] swm
      let s := s.onDie die fun d => d.onSeq fun q => { q with stores := q.stores.map fun x => if x.id = id then w else x }
      match w.fault with
      | some t => (s.storeGone die id).pendTrap die t
      | none =>
        let lines := distinct (w.bytes.map fun x => lineOf x.1)
        let line := lines.getD (p.gran % lines.length) 0
        let (now, left) := w.bytes.partition fun x => lineOf x.1 == line
        let pas := now.map (·.1)
        if !w.vbytes.isEmpty || s.inWay die id w.attr [] pas || s.ucInWay die id pas w.attr then again s
        else
          let s := if paClass (64 * line) = 4 then s.sendWrites die (.store id) now 0 0 else s.homeWriteAt w.attr now
          if left.isEmpty && !s.storeOutFar die id then s.storeGone die id
          else
            let s := s.onDie die fun d => d.onSeq fun q =>
              { q with stores := q.stores.map fun x => if x.id = id then { x with sent := left.isEmpty, bytes := left } else x }
            if left.isEmpty then s else again s

/-! ## The gallery (R200, R201) -/

/-- BANK_CLASS_RISE. -/
def execBankClassRise (die bank : Nat) (cls : BitVec 3) (s : State) : Host.Outcome State Fault Refusal :=
  event (.bankClassRise die bank cls) s <|
    let c := cls.toNat
    s.onDie die fun d =>
      if c ≤ d.bankCls.get 0 bank then d
      else { d with bankCls := d.bankCls.put 0 bank c
                    bankLast := (List.range c).foldl (fun m k => m.set (8 * bank + k + 1) (s.us die)) d.bankLast }

/-- BANK_CLASS_FALL: one step. -/
def execBankClassFall (die bank : Nat) (s : State) : Host.Outcome State Fault Refusal :=
  event (.bankClassFall die bank) s <|
    s.onDie die fun d =>
      let c := d.bankCls.get 0 bank
      if c = 0 then d
      else { d with bankCls := d.bankCls.put 0 bank (c - 1)
                    bankLast := (List.range c).foldl (fun m k => m.set (8 * bank + k + 1) (s.us die)) d.bankLast }

/-- GALLERY_SWEEP: EXP is set on every expired row of a bank. Rows in which errors that the code cannot correct are found then are
poisoned, and bytes of the panels in which such errors are found fail when they are read (R205, 16 R412): no other row of the table
says when cells of the gallery or of the mezzanine fail, or how many errors reads have corrected, which are counted (DEDUCED,
assumption 50). -/
def execGallerySweep (die : Nat) (w : Sweep) (s : State) : Host.Outcome State Fault Refusal :=
  event (.gallerySweep die w) s <|
    s.onDie die fun d =>
      let d := (d.sweep (s.us die) w.bank).poisonRows (w.bad.map (2 ^ 14 * w.bank + ·))
      { d with c := { d.c with yBad := w.panels ++ d.c.yBad.filter fun y => !w.panels.contains y }, corrected := d.corrected + w.corrected }

/-! ## Memory beyond the L1 -/

/-- PATROL_SCRUB (R216, R84): lines with errors that the codes cannot correct become poisoned, wherever they are found: in the LPDDR-5X
memory, in the atrium, or in a CXL.mem read that returns poison (DEDUCED, assumption 50). -/
def execPatrolScrub (bad : List Nat) (s : State) : Host.Outcome State Fault Refusal :=
  event (.patrolScrub bad) s <|
    bad.foldl (fun s l => if paClass (64 * l) ≤ 2 ∧ s.mapped (64 * l) then s.poisonLine l else s) s

/-- ATRIUM_EVICTION (20 R478): a line leaves the atrium. -/
def execAtriumEviction (line : Nat) (s : State) : Host.Outcome State Fault Refusal :=
  event (.atriumEviction line) s ((s.evictLine line).dropCopies (· == line))

/-! ## Invalidation of translations (R222) -/

/-- TLB_INVALIDATE: the write of TLBINVH. -/
def execTlbInvalidate (hi : W64) (s : State) : Host.Outcome State Fault Refusal :=
  event (.tlbInvalidate hi) s <|
    if s.tlbBusy.isSome then { s with tlbRej := true }
    else
      let lo := s.tlbinv.toNat
      let va := (hi.toNat % 256) * 2 ^ 64 + lo / 2 ^ 16 * 2 ^ 16
      State.later { s with tlbBusy := some (lo % 2 ^ 10, lo / 2 ^ 10 % 4, va) } 0 .tlbInvalidateComplete

/-- Whether accesses of a die made under its translations are still to be performed at their homes. -/
def Die.unperformed (d : Die) : Bool :=
  (d.seq.landings.any fun l => !l.pieces.isEmpty && l.data.isNone && l.fault.isNone) || !d.seq.stores.isEmpty
/-- Whether writes that a die's engines, an earlier task of it or the package itself sent to other packages are to be performed there. -/
def Die.writesSent (d : Die) : Bool :=
  d.fab.requests.any fun r => match r.waiter with | .store _ | .atomic _ | .tile _ | .host _ | .done _ | .spill _ _ => true | .gone w => w | _ => false

/-- TLB_INVALIDATE_COMPLETE. -/
def execTlbInvalidateComplete (s : State) : Host.Outcome State Fault Refusal :=
  event .tlbInvalidateComplete s <|
    match s.tlbBusy with
    | none => s
    | some (ctx, scope, va) =>
      let mine (c : Nat) : Bool := scope == 2 || c == ctx
      -- a request carries no context: it counts for any
      if (List.range 16).any fun i => (mine (s.ctxOn i) && (s.die i).unperformed) || (s.die i).writesSent then s.again 0 .tlbInvalidateComplete
      else
        let goes (e : TlbEntry) : Bool := mine e.ctx && (scope != 0 || decide (e.va ≤ va ∧ va < e.va + e.size))
        (List.range 16).foldl (fun s i => s.onDie i fun d => { d with tlb := d.tlb.filter fun e => !goes e }) { s with tlbBusy := none }

/-! ## Format windows (R214) -/

/-- Format window w. -/
def State.fmt (s : State) (w : Nat) : Fmtw := s.fmtw.get {} w
/-- Change it. -/
def State.onFmt (s : State) (w : Nat) (f : Fmtw → Fmtw) : State := { s with fmtw := s.fmtw.put {} w (f (s.fmt w)) }

/-- FMTW_RETIRE: a write of EN = 0 to an active window. -/
def execFmtwRetire (w : Nat) (s : State) : Host.Outcome State Fault Refusal :=
  event (.fmtwRetire w) s <|
    if (s.fmt w).en && !(s.fmt w).retiring then (s.onFmt w fun x => { x with retiring := true }).later 0 (.fmtwRetireComplete w) else s

/-- FMTW_RETIRE_COMPLETE: its dirty lines are encoded, its lines dropped, and EN clears. -/
def execFmtwRetireComplete (w : Nat) (s : State) : Host.Outcome State Fault Refusal :=
  event (.fmtwRetireComplete w) s <|
    let x := s.fmt w
    if !x.retiring then s
    else
      let lo := x.obase.toNat * 2 ^ 16
      let mine (l : Nat) : Bool := decide (lo ≤ 64 * l ∧ 64 * l < lo + x.osize.toNat * 2 ^ 30)
      let s := ((s.fmtLines.map (·.1)).filter mine).foldl (fun s l => s.dropFmtLine l) s
      s.onFmt w fun x => { x with en := false, retiring := false }

/-- FMTW_ENABLE: a write of word +0x00 with EN = 1 to an idle window. -/
def execFmtwEnable (w : Nat) (v : W64) (s : State) : Host.Outcome State Fault Refusal :=
  event (.fmtwEnable w v) s <|
    let x := s.fmt w
    if x.en || x.enabling then s
    else
      (s.onFmt w fun x => { x with bs8 := v.getLsbD 1, bf16 := v.getLsbD 2, enabling := true }).later 0 (.fmtwEnableComplete w)

/-- FMTW_ENABLE_COMPLETE: the atrium holds no line of the range, and EN is set. -/
def execFmtwEnableComplete (w : Nat) (s : State) : Host.Outcome State Fault Refusal :=
  event (.fmtwEnableComplete w) s <|
    let x := s.fmt w
    if !x.enabling then s
    else
      let lo := x.obase.toNat * 2 ^ 16
      let mine (l : Nat) : Bool := decide (lo ≤ 64 * l ∧ 64 * l < lo + x.osize.toNat * 2 ^ 30)
      let s := ((s.fmtLines.map (·.1)).filter mine).foldl (fun s l => s.dropFmtLine l) s
      s.onFmt w fun x => { x with en := true, enabling := false }

end Sys2Proof.Machine
end

