-- ==== Sys2Proof/Machine/Packets.lean ====
section
/-! DEFINITION. Packets at their destination (03): memory requests served at this package's homes (08 R192 R217), replies,
acknowledgements and timeouts (R62 to R66), drains (R70), fabric time (R78 to R80). -/

namespace Sys2Proof.Machine

/-! ## Memory requests (08 Table 8.11) -/

/-- Send a reply for a request packet. -/
def State.reply (s : State) (i : Nat) (p : Packet) (tag : BitVec 16) (type : Byte) (payload : List Byte) (poison : Bool) : State :=
  s.originate i 2 { dst := p.src, type, tag, payload, poison }

/-- A request whose payload is in range is accepted and served; another is a bad packet (08 R217). -/
def State.serve (s : State) (i : Nat) (ch : BitVec 3) (p : Packet) (good : Bool) (f : State → State) : State :=
  if !good then s.countBad i else let (s, ok) := s.accept i ch p; if ok then f s else s

/-- The channel a request arrives on (R55). -/
def requestCh (p : Packet) : BitVec 3 := if p.vc1 then 1 else 0

/-- MRD. -/
def execMrd (die : Nat) (p : Packet) (s : State) : Host.Outcome State Fault Refusal :=
  event (.mrd die p) s <|
    let b := p.payload
    let a := field b 0 8
    let n := field b 8 1 + 1
    let good : Bool := b.length == 16 && decide (a + n ≤ packageBytes) && decide (field b 9 1 ≤ 3) && field b 10 6 == 0
    s.serve die (requestCh p) p good fun s =>
      let pas := (List.range n).map (a + ·)
      s.reply die p p.tag 0x10 (pas.map s.homeByte) (pas.any s.poisoned)

/-- The lines of an MWR: line number and the bytes its mask admits. -/
def mwrLines (b : List Byte) : List (Nat × List (Option Byte)) :=
  (List.range (field b 8 1)).map fun k =>
    let mask := field b (16 + 72 * k) 8
    (lineOf (field b 0 8) + k, (List.range 64).map fun o => if mask.testBit o then some (b.getD (24 + 72 * k + o) 0) else none)

/-- Bytes of masked lines. -/
def lineBytes (l : Nat × List (Option Byte)) : List (Nat × Byte) :=
  (l.2.zipIdx.filterMap fun x => x.1.map fun y => (x.2, y)).map fun x => (64 * l.1 + x.1, x.2)

/-- MWR: performed at its homes; the lines of a tile group are applied together once the group is complete (09 R246). -/
def execMwr (die : Nat) (p : Packet) (s : State) : Host.Outcome State Fault Refusal :=
  event (.mwr die p) s <|
    let b := p.payload
    let n := field b 8 1
    let flags := field b 9 1
    let group := field b 10 4
    let good : Bool := b.length == 16 + 72 * n && decide (1 ≤ n ∧ n ≤ 4) && field b 0 8 % 64 == 0
      && decide (field b 0 8 + 64 * n ≤ packageBytes) && decide (flags < 4) && field b 14 2 == 0
    s.serve die (requestCh p) p good fun s =>
      let lines := mwrLines b
      -- a write with POISON set marks its lines poisoned (10 R265)
      let poisoned (s : State) (ls : List Nat) : State := ls.foldl (fun s l => s.poisonLine l) s
      let marked (s : State) : State := if p.poison then poisoned s (lines.map (·.1)) else s
      if group = 0 then (marked (s.homeWrite (lines.flatMap lineBytes))).reply die p p.tag 0x11 [] false
      else
        let peer := p.src.toNat
        let mine (g : Group) : Bool := g.peer == peer && g.group == group
        let old := (((s.die die).fab.groups.find? mine).getD { peer, group, lines := [] })
        let g : Group := { old with lines := old.lines ++ lines, tags := old.tags ++ [p.tag]
                                    bad := old.bad ++ (if p.poison then lines.map (·.1) else []) }
        let rest := (s.die die).fab.groups.filter fun g => !mine g
        if flags.testBit 1 then
          let s := s.onDie die fun d => d.onFab fun f => { f with groups := rest }
          let s := poisoned (s.homeWrite (g.lines.flatMap lineBytes)) g.bad
          g.tags.foldl (fun s t => s.reply die p t 0x11 [] false) s
        else s.onDie die fun d => d.onFab fun f => { f with groups := rest ++ [g] }

/-- The new value an atomic of a MATOM makes, with its size; none where its fields are out of range. -/
def matomOf (b : List Byte) : Option (Nat × (Nat → Nat)) :=
  let op := field b 8 1
  let size := field b 9 1
  let m := 2 ^ (8 * size)
  if op < 16 then
    if size = (if 8 ≤ op then 4 else 8) ∧ b.length = 32 then some (size, fun old => amoValue (op % 8) (8 * size) old (field b 16 8 % m)) else none
  else
    let short : Bool := (op == 0x80 && size == 8) || (op == 0x81 && size == 4)
    if short ∧ b.length = 32 then some (size, fun old => if old = field b 16 8 % m then field b 24 8 % m else old)
    else if op = 0x82 ∧ size = 16 ∧ b.length = 48 then some (size, fun old => if old = field b 16 16 then field b 32 16 else old)
    else none

/-- MATOM: performed in the home slice's ALU. -/
def execMatom (die : Nat) (p : Packet) (s : State) : Host.Outcome State Fault Refusal :=
  event (.matom die p) s <|
    let b := p.payload
    let a := field b 0 8
    match matomOf b with
    | none => s.countBad die
    | some (size, f) =>
      s.serve die (requestCh p) p (a % size == 0 && decide (a + size ≤ packageBytes) && field b 10 6 == 0) fun s =>
        let old := s.homeNat a size
        let out := if size = 16 then toLE 16 old else toLE 8 old
        if s.poisoned a then s.reply die p p.tag 0x12 out true
        else (s.homeWrite (placeAt a (toLE size (f old)))).reply die p p.tag 0x12 out false

/-- A decrement received by a spill word of replay x (06 R138). -/
def spillWord (x old : Nat) : Nat := if old / 2 ^ 32 = x then x * 2 ^ 32 + (old + 1) % 2 ^ 32 else x * 2 ^ 32 + 1

/-- MSYNC: an acquire reads nothing back, a release adds (09 R229), a wake ends monitors, a decrement is that of 06 R138. -/
def execMsync (die : Nat) (p : Packet) (s : State) : Host.Outcome State Fault Refusal :=
  event (.msync die p) s <|
    let b := p.payload
    let a := field b 0 8
    let kind := field b 8 1
    let v := field b 16 8
    let good : Bool := b.length == 24 && a % 8 == 0 && decide (a + 8 ≤ packageBytes) && decide (1 ≤ kind ∧ kind ≤ 4) && field b 9 7 == 0
    s.serve die (requestCh p) p good fun s =>
      let bad : Bool := (kind == 2 || kind == 4) && s.poisoned a
      let old := s.homeNat a 8
      let s :=
        if bad then s
        else match kind with
        | 2 => s.homeWrite (placeAt a (toLE 8 ((old + v) % 2 ^ 64)))
        | 3 => s.wakeWord a
        | 4 => s.homeWrite (placeAt a (toLE 8 (spillWord (v % 2 ^ 32) old)))
        | _ => s
      s.reply die p p.tag 0x11 [] bad

/-! ## Replies (R56) -/

/-- A reply whose TAG names storage that awaits it from that source completes it; another is a duplicate. -/
def State.replied (s : State) (i : Nat) (p : Packet) (good : Request → Bool) (f : Request → State → State) : State :=
  let hit (r : Request) : Bool := r.tag == p.tag && r.peer == p.src.toNat && r.unsent.isNone
  let found := (s.die i).fab.requests.find? hit
  if !(match found with | some r => good r | none => true) then s.countBad i
  else
    let (s, ok) := s.accept i 2 p (counts := found.isSome)
    if !ok then s
    else
      match found with
      | none => s.countDup i
      | some r => (f r (s.onDie i fun d => d.onFab fun x => { x with requests := x.requests.filter fun y => !hit y })).sendWaiting i

/-- A fill's bytes arrive. -/
def State.fillIn (s : State) (line : Nat) (bytes : List Byte) (poison : Bool) : State :=
  let s := { s with remote := s.remote.set line { bytes }, poisonLines := s.poisonLines.filter (· != line) }
  let waits := (List.range 16).filterMap fun y => ((s.die y).prefs.get? line).map fun attr => (y, attr)
  let s := waits.foldl (fun s w =>
    let s := if poison then s else (s.l1Fill w.1 line w.2).l1Room w.1
    s.onDie w.1 fun d => { d with prefs := d.prefs.erase line }) s
  if poison then s.poisonLine line else s

/-- The bytes a landing lacks of one line of a remote home (08 R213). -/
def Landing.lacks (l : Landing) (line : Nat) : List Nat := (l.pas.filter fun x => x.2.isNone && lineOf x.1 == line).map (·.1)

/-- Bytes read for a landing at a remote home arrive. -/
def State.loadIn (s : State) (i id line : Nat) (bytes : List Byte) (poison : Bool) : State :=
  match (s.die i).seq.landings.find? fun l => l.id == id && l.data.isNone && l.fault.isNone with
  | none => s
  | some l =>
    let need := l.lacks line
    let lo := need.foldl min (need.headD 0)
    let put (l : Landing) : State := s.onDie i fun d => d.onSeq fun q => q.putLanding l
    if need.isEmpty then s
    else if poison then
      let va := ((l.pas.zip (vaBytes l.pieces)).find? fun x => x.1.2.isNone && lineOf x.1.1 == line).map (·.2)
      put { l with fault := some { cause := .poison, landing := true, faddr := l.faddr, vaddr := BitVec.ofNat 72 (va.getD 0), access := l.id } }
    else
      let pas := l.pas.map fun x => if x.2.isNone && lineOf x.1 == line then (x.1, some (bytes.getD (x.1 - lo) 0)) else x
      put { l with pas, data := if pas.all fun x => x.2.isSome then some (pas.filterMap (·.2)) else none }

/-- The command at the head of copy stream n has been performed at a remote home. -/
def State.performedFar (s : State) (i n : Nat) (data : List Byte) (poison : Bool) : State :=
  match (s.die i).c.copyQ n with
  | [] => s
  | k :: _ =>
    if poison then s.onDie i fun d => d.engineFails (copyEngine n) k { cause := .poison, va := k.a0 }
    else
      let s := match s.engAddrs i k.a0 1 1 with | .ok ((pa, _) :: _) => (s.dropCopies (· == lineOf pa)).l1Refresh i [lineOf pa] | _ => s
      (s.deliver i k data).onCopyCmd i n k fun x => { x with performed := true }

/-- MRDR: an atrium copy of a remote line is filled, unless an acquire has come since it was asked for (09 R233); or the bytes of a load
of a UC or DEV page, of a trap record, or of an acquire arrive. -/
def execMrdr (die : Nat) (p : Packet) (s : State) : Host.Outcome State Fault Refusal :=
  event (.mrdr die p) s <|
    let good (r : Request) : Bool := match r.waiter with | .gone _ => true | .fill _ | .record => p.payload.length == 64 | .load _ => decide (p.payload.length ≤ 64) | .atomic _ => p.payload.length == 8 | _ => false
    s.replied die p good fun r s =>
      match r.waiter with
      | .fill line => if r.stale then s else s.fillIn line p.payload p.poison
      | .load id => s.loadIn die id r.line p.payload p.poison
      | .record => s.onDie die fun d => d.onSeq fun q => { q with record := some (p.payload, p.poison) }
      | .atomic n => s.performedFar die n p.payload p.poison
      | _ => s

/-- MATOMR. -/
def execMatomr (die : Nat) (p : Packet) (s : State) : Host.Outcome State Fault Refusal :=
  event (.matomr die p) s <|
    let good (r : Request) : Bool := match r.waiter with | .gone _ => true | .atomic _ => p.payload.length == 8 || p.payload.length == 16 | _ => false
    s.replied die p good fun r s =>
      match r.waiter with
      | .atomic n => s.performedFar die n p.payload p.poison
      | _ => s

/-- A store whose granules have all gone to their homes is performed once no reply is awaited. -/
def State.storeAcked (s : State) (i id : Nat) : State :=
  if s.storeOutFar i id || !((s.die i).seq.stores.any fun w => w.id == id && w.sent) then s else s.storeGone i id

/-- A decrement has been performed at a spill word of another package: the word is read there afresh (06 R138); a poisoned one is a fault
of the scheduler's own access (06 R136). -/
def State.spilledFar (s : State) (rid node line : Nat) (poison : Bool) : State :=
  if poison then s.abort rid { xstat := 6, cause := 0, node }
  else ((s.dropCopies (· == line)).onReplay rid fun r => { r with spillRead := r.spillRead ++ [node] }).later 0 (.spillDecrement rid node)

/-- MWRR: a write, a line of a tile, or a synchronisation is performed. -/
def execMwrr (die : Nat) (p : Packet) (s : State) : Host.Outcome State Fault Refusal :=
  event (.mwrr die p) s <|
    let good (r : Request) : Bool := match r.waiter with | .fill _ | .load _ | .record => false | _ => p.payload.length == 0
    s.replied die p good fun r s =>
      match r.waiter with
      | .store id => s.storeAcked die id
      | .atomic n => s.performedFar die n [] p.poison
      | .spill rid node => s.spilledFar rid node r.line p.poison
      | _ => s

/-! ## Acknowledgements (R62 to R66, 10 R274) -/

/-- Put a send entry in its place. -/
def State.putSend (s : State) (i : Nat) (e : SendEntry) : State :=
  s.onDie i fun n => n.onFab fun f => { f with sends := f.sends.map fun x => if x.peer = e.peer ∧ x.cls = e.cls then e else x }

/-- A send entry of a node. -/
def State.sendEntry? (s : State) (i peer cls : Nat) : Option SendEntry :=
  (s.die i).fab.sends.find? fun e => e.peer == peer && e.cls == cls
/-- A receive entry of a node. -/
def State.recvEntry? (s : State) (i peer cls : Nat) : Option RecvEntry :=
  (s.die i).fab.recvs.find? fun e => e.peer == peer && e.cls == cls

/-- EACK_SEND (R63, R64): the acknowledgements pending for a receive entry, merged. -/
def execEackSend (die peer cls : Nat) (s : State) : Host.Outcome State Fault Refusal :=
  event (.eackSend die peer cls) s <|
    match s.recvEntry? die peer cls with
    | none => s
    | some e =>
      if !e.eack then s
      else
        let bits := if cls = 1 then ((List.range 64).map fun k => if e.arrived.contains (e.expect + k) then 2 ^ k else 0).sum else 0
        let payload := toLE 1 cls ++ toLE 4 e.expect ++ toLE 8 bits ++ toLE 1 (b2n e.busy)
        (s.putRecv die { e with eack := false, busy := false }).originate die 2
          { dst := BitVec.ofNat 14 peer, type := 0x14, epoch := e.epoch, payload }

/-- EACK (R63, R64; 10 R274). -/
def execEack (die : Nat) (p : Packet) (s : State) : Host.Outcome State Fault Refusal :=
  event (.eack die p) s <|
    let b := p.payload
    let cls := field b 0 1
    let busy := field b 13 1
    if b.length ≠ 14 ∨ 3 < cls ∨ 1 < busy ∨ (cls ≠ 1 ∧ field b 5 8 ≠ 0) then s.countBad die
    else
      match s.sendEntry? die p.src.toNat cls with
      | none => s
      | some e =>
        if e.epoch ≠ p.epoch then s
        else
          let base := field b 1 4
          let acked (o : OutPkt) : Bool :=
            let q := o.pkt.eseq.toNat
            decide (q < base) || (cls == 1 && decide (q < base + 64) && (field b 5 8).testBit (q - base))
          let left := e.unacked.filter fun o => !acked o
          let moved : Bool := match e.unacked with | o :: _ => acked o | [] => false
          let e := { e with unacked := left, idle := s.ftc die, timeouts := if moved then 0 else e.timeouts
                            timer := if moved || busy == 1 then s.ftc die else e.timer, busy := busy == 1 || (e.busy && !moved) }
          let s := (s.putSend die e).unstall die
          if left.isEmpty then s.again die (.sendEntryIdleFree die e.peer cls) else s

/-! ## An unreachable peer (R65) -/

/-- Whether a walk or a read of die i, tried now, asks for a line. -/
def asksFor (i line : Nat) (t : State) : Bool := (t.die i).fab.requests.any fun r => r.waiter == .fill line

/-- Whether a load awaits a line. -/
def State.loadAwaits (s : State) (i line : Nat) (l : Landing) : Bool :=
  l.data.isNone && l.fault.isNone && !l.pieces.isEmpty
    && (if l.pas.isEmpty then asksFor i line (s.resolveLoad i l fun _ => true).1 else l.pas.any fun x => x.2.isNone && lineOf x.1 == line)

/-- The oldest command of copy stream n faults NOREACH: what it has not written of a tile expires (08 Table 8.4). -/
def State.copyUnreachable (s : State) (i n : Nat) : State :=
  match (s.die i).c.copyQ n with
  | [] => s
  | k :: _ =>
    let x : Fail := { cause := .noreach, va := k.a0, done := k.done, tile := k.toTile.getD k.tileNo
                      unit := match k.instr with | .cpy f | .cpym f => f.nest.toNat | _ => 0 }
    let rows := rowsOf ((k.allGranules.take k.done).flatMap fun g => (List.range g.len).map (g.dst + ·))
    let s := match k.instr with
      | .tld _ => s.expireUnwritten i k.tile []
      | .cpy _ | .cpym _ => if k.toTile.isSome then s.expireUnwritten i k.tile rows else s
      | _ => s
    s.onDie i fun d => d.engineFails (copyEngine n) k x

/-- Whether the oldest command of a copy stream awaits a line. -/
def State.copyAwaits (s : State) (i n line : Nat) : Bool :=
  match (s.die i).c.copyQ n with
  | k :: _ => k.parked.isNone && (match s.copyTry i n k 0 false with | .wait t => asksFor i line t | _ => false)
  | [] => false

/-- What awaits a reply that will not come faults. -/
def State.lose (s : State) (i : Nat) (w : Waiter) : State :=
  match w with
  | .fill line =>
    let s : State := { s with dies := s.dies.map fun (y, d) => (y, ({ d with prefs := d.prefs.erase line } : Die)) }
    let s := if i = 0 then { s with lostLines := (line, s.wc) :: s.lostLines.filter fun l => s.wc ≤ l.2 + 1 && l.1 != line } else s
    let s := (s.die i).seq.landings.foldl (fun s l =>
      if s.loadAwaits i line l then
        let at_ := ((l.pas.zip (vaBytes l.pieces)).find? fun x => x.1.2.isNone && lineOf x.1.1 == line).map (·.2)
        let va : W72 := match at_ with | some a => BitVec.ofNat 72 a | none => (l.pieces.map (·.va)).headD 0
        s.onDie i fun d => d.onSeq fun q => q.putLanding
          { l with fault := some { cause := .noreach, landing := true, faddr := l.faddr, vaddr := va, access := l.id } }
      else s) s
    let s := (s.die i).seq.stores.foldl (fun s x =>
      if !x.vbytes.isEmpty && asksFor i line (s.resolveStore i x fun _ => true).1 then
        (s.storeGone i x.id).pendTrap i { cause := .noreach, landing := true, faddr := x.faddr, vaddr := x.va, access := x.id }
      else s) s
    [0, 1].foldl (fun s n => if s.copyAwaits i n line then s.copyUnreachable i n else s) s
  | .record => s.onDie i fun d => d.onSeq fun q => { q with record := some ([], true) }
  | .load id =>
    s.onDie i fun d => d.onSeq fun q => { q with landings := q.landings.map fun l =>
      if l.id = id ∧ l.data.isNone ∧ l.fault.isNone then
        let va := ((l.pas.zip (vaBytes l.pieces)).find? fun x => x.1.2.isNone).map (·.2)
        { l with fault := some { cause := .noreach, landing := true, faddr := l.faddr, vaddr := BitVec.ofNat 72 (va.getD 0), access := l.id } }
      else l }
  | .store id =>
    match (s.die i).seq.stores.find? fun x => x.id == id with
    | some x => (s.storeAcked i id).pendTrap i { cause := .noreach, landing := true, faddr := x.faddr, vaddr := x.va, access := x.id }
    | none =>
      [0, 1].foldl (fun s n =>
        match (s.die i).c.copyQ n with
        | k :: _ => if k.id = id then s.copyUnreachable i n else s
        | [] => s) s
  | .atomic n | .tile n => s.copyUnreachable i n
  | .host pool => { s with hostCopies := s.hostCopies.map fun c => if c.pool == pool && c.begun then { c with lost := true } else c }
  | .done rid => s.onReplay rid fun r => { r with doneOk := some false }
  | .spill rid node => s.abort rid { xstat := 6, cause := 0, node }
  | .gone _ => s

/-- Whether a log holds the token of a send role or a barrier round (10 R268). -/
def tokenLogged (log : List LogEntry) (k : Cmd) (r : Role) : Bool :=
  log.any fun e => e.kind != 1 && e.pkt.src.toNat == r.peer && (match tokenBits e.pkt with
    | some t => !t.cancel && t.dim == r.dim && t.ch == k.stream && t.seq == r.sseq && t.key.toNat == k.key && t.dbar == k.isBarrier
    | none => false)

/-- Exchange roles toward a peer that await its token can no longer complete; one whose token has arrived, in the reservation table or in a
log, awaits none. -/
def Ctxt.peerLost (c : Ctxt) (peer : Nat) (f : Fabric) (log : List LogEntry) : Ctxt :=
  let lost (k : Cmd) (r : Role) : Bool :=
    r.begun && !r.finished && r.peer == peer && (r.send.isSome || k.isBarrier) && r.token.isNone && r.broken.isNone
      && (f.tokenFor k r).isNone && !tokenLogged log k r
  let g (k : Cmd) : Cmd := { k with roles := k.roles.map fun r => if lost k r then { r with broken := some .noreach } else r }
  { c with xchQ0 := c.xchQ0.map g, xchQ1 := c.xchQ1.map g }

/-- A peer is unreachable: the packets to it in the class are dropped, and each engine that awaits a reply or an RTOK from it
faults. -/
def State.unreachable (s : State) (i : Nat) (e : SendEntry) : State :=
  let lost := (s.die i).fab.requests.filter fun r => r.peer == e.peer
  let s := (s.putSend i { e with unacked := [], timeouts := 0, idle := s.ftc i }).onDie i fun d =>
    (d.onFab fun f => { f with noreach := satAdd 8 f.noreach 1, requests := f.requests.filter fun r => r.peer != e.peer }).onC
      fun c => c.peerLost e.peer (s.die i).fab (s.die i).dbgBlock.log
  let s := { s with saved := s.saved.map fun (v : Saved) =>
    if v.die = i then { v with ctxt := v.ctxt.peerLost e.peer (s.die i).fab v.log } else v }
  let s := (distinctWaiters (lost.map (·.waiter))).foldl (fun s w => s.lose i w) s
  ((s.sendWaiting i).unstall i).again i (.sendEntryIdleFree i e.peer e.cls)
where
  /-- Each of a list once. -/
  distinctWaiters : List Waiter → List Waiter
    | [] => []
    | w :: r => w :: (distinctWaiters r).filter (· != w)

/-- E2E_TIMEOUT (R65). -/
def execE2eTimeout (die peer cls : Nat) (s : State) : Host.Outcome State Fault Refusal :=
  event (.e2eTimeout die peer cls) s <|
    let f := (s.die die).fab
    match s.sendEntry? die peer cls with
    | none => s
    | some e =>
      if e.unacked.isEmpty then s
      else if s.ftc die < e.timer + 1000 * max 1 f.e2eto.toNat then s.again die (.e2eTimeout die peer cls)
      else
        let timeouts := if e.busy then e.timeouts else e.timeouts + 1
        if max 1 f.e2erty.toNat ≤ timeouts then s.unreachable die e
        else
          let s := s.putSend die { e with timeouts, busy := false, timer := s.ftc die }
          (e.unacked.foldl (fun s o => s.forward die { o with pkt := { o.pkt with retx := true } }) s).again die (.e2eTimeout die peer cls)

/-- SEND_ENTRY_IDLE_FREE (R62). -/
def execSendEntryIdleFree (die peer cls : Nat) (s : State) : Host.Outcome State Fault Refusal :=
  event (.sendEntryIdleFree die peer cls) s <|
    match s.sendEntry? die peer cls with
    | none => s
    | some e =>
      if !e.unacked.isEmpty then s
      else if s.ftc die < e.idle + 1000000 then s.again die (.sendEntryIdleFree die peer cls)
      else
        (s.onDie die fun d => d.onFab fun f => { f with sends := f.sends.filter fun x => !(x.peer == peer && x.cls == cls) }).unstall die

/-- RECEIVE_ENTRY_IDLE_FREE (R62). -/
def execReceiveEntryIdleFree (die peer cls : Nat) (s : State) : Host.Outcome State Fault Refusal :=
  event (.receiveEntryIdleFree die peer cls) s <|
    match s.recvEntry? die peer cls with
    | none => s
    | some e =>
      if s.ftc die < e.idle + 2000000 then s.again die (.receiveEntryIdleFree die peer cls)
      else s.onDie die fun d => d.onFab fun f => { f with recvs := f.recvs.filter fun x => !(x.peer == peer && x.cls == cls) }

/-! ## Drains (R70) -/

/-- DRAIN: the marker of one class; after all three the node answers DRAINACK over the new path. -/
def execDrain (die : Nat) (ch : BitVec 3) (p : Packet) (s : State) : Host.Outcome State Fault Refusal :=
  event (.drain die ch p) s <|
    match neighbourDim (s.nid die) p.src.toNat with
    | none => s.countBad die
    | some d =>
      let cls := classOf ch
      let seen := let l := (s.link die d).drains; if l.contains cls then l else l ++ [cls]
      if seen.length < 3 then s.onLink die d fun l => { l with drains := seen }
      else (s.onLink die d fun l => { l with drains := [] }).originate die 2 { dst := p.src, type := 0x15 }

/-- DRAINACK: the held packets go onto the new path, and a DETOUR write that waited takes effect. -/
def execDrainack (die : Nat) (p : Packet) (s : State) : Host.Outcome State Fault Refusal :=
  event (.drainack die p) s <|
    match neighbourDim (s.nid die) p.src.toNat with
    | none => s.countBad die
    | some d =>
      let l := s.link die d
      if !l.draining then s
      else
        let s := s.onLink die d fun l =>
          { l with draining := false, dactive := l.dactive && l.state != .active, detourWrites := [] }
        (s.resendHeld die d).writeDetours die d l.detourWrites

/-! ## Fabric time (R78 to R80) -/

/-- The master's node: the die with FCTL.FTCM set. Where no die of this package has it, the master is a node of another package; R79 does not
say how a node learns which: a free value (assumption 4). -/
def State.master (s : State) : Nat :=
  match (List.range 16).find? fun i => (s.die i).fab.ftcm with
  | some i => s.nid i
  | none => Config.masterNid.toNat

/-- The dimension of a node's parent. -/
def State.parentDim (s : State) (i : Nat) : Option Nat :=
  (List.range 14).find? fun b => (s.nid i ^^^ s.master).testBit b && (s.link i b).state == .active

/-- The picoseconds of a time stamp. -/
def stampPs (b : List Byte) (at_ : Nat) : Nat := field b at_ 8 * 1000 + field b (at_ + 8) 2

/-- FTC_SYNC_PERIOD of die `unit`: every 100 µs a node other than the master sends TSYNC to its parent. -/
def execFtcSyncPeriod (s : State) : Host.Outcome State Fault Refusal :=
  dieEvent s <|
    let i := s.unit
    let f := (s.die i).fab
    let s' := s.again i .ftcSyncPeriod
    if s.nid i = s.master ∨ s.ftc i < f.syncAt + 100000 then s'
    else
      let late := f.lastSample + 10000000 < s.ftc i
      let s' := if late then s'.again i .ftcSampleTimeout else s'
      match s.parentDim i with
      | none => s'.onDie i fun d => d.onFab fun f => { f with unsync := true, good := 0, syncAt := f.ftc.toNat, sample := none }
      | some b =>
        -- a sample that never came ends the run of valid ones (R80)
        (s'.onDie i fun d => d.onFab fun f =>
          { f with parent := BitVec.ofNat 4 b, sample := some (f.picos, (s.link i b).remapping.isSome), syncAt := f.ftc.toNat
                   good := if f.sample.isSome then 0 else f.good }).originate
          i 2 { dst := BitVec.ofNat 14 (s.nid i ^^^ 2 ^ b), type := 0x16, payload := f.stamp }

/-- FTC_SAMPLE_TIMEOUT of die `unit`: no valid sample for 10 ms. -/
def execFtcSampleTimeout (s : State) : Host.Outcome State Fault Refusal :=
  dieEvent s <|
    let i := s.unit
    if s.nid i = s.master ∨ s.ftc i ≤ (s.die i).fab.lastSample + 10000000 then s
    else s.onDie i fun d => d.onFab fun f => { f with unsync := true, good := 0 }

/-- TSYNC: the parent answers with t1, its FTC at reception and at transmission. -/
def execTsync (die : Nat) (p : Packet) (s : State) : Host.Outcome State Fault Refusal :=
  event (.tsync die p) s <|
    let f := (s.die die).fab
    if p.payload.length ≠ 10 then s.countBad die
    else s.originate die 2 { dst := p.src, type := 0x17, payload := f.stamp ++ f.stamp }

/-- A node takes an offset, in picoseconds. STEPS counts modulo its 16 bits (DESIGN CHOICE, assumption 47). -/
def Fabric.adjust (f : Fabric) (offset : Int) : Fabric :=
  let f := { f with offset := BitVec.ofInt 32 offset, lastSample := f.ftc.toNat, good := f.good + 1, unsync := f.unsync && decide (f.good = 0) }
  if 1000000 < offset then
    let t := f.picos + offset.toNat
    { f with lastSample := t / 1000, ftc := BitVec.ofNat 64 (t / 1000), ps := t % 1000, steps := f.steps + 1, slewUp := 0, slewDown := 0 }
  else if offset < -1000000 then { f with hold := (-offset).toNat, slewUp := 0, slewDown := 0 }
  else { f with slewUp := offset.toNat, slewDown := (-offset).toNat }

/-- TSYNCR: the child takes its sample, unless a packet of it was replayed, detoured or delayed; a detour leaves DDIM or EDIM set. -/
def execTsyncr (die : Nat) (p : Packet) (clean : Bool) (s : State) : Host.Outcome State Fault Refusal :=
  event (.tsyncr die p clean) s <|
    let f := (s.die die).fab
    let b := p.payload
    match f.sample with
    | none => s
    | some (t1, spoiled) =>
      if b.length ≠ 20 then s.countBad die
      else if p.src.toNat ≠ s.nid die ^^^ 2 ^ f.parent.toNat then s
      else
        let s := s.onDie die fun d => d.onFab fun f => { f with sample := none }
        if !clean || spoiled || p.retx || p.ddim != 0 || p.edim != 0 then s.onDie die fun d => d.onFab fun f => { f with good := 0 }
        else
          let t2 : Int := stampPs b 0
          let t3 : Int := stampPs b 10
          let t4 : Int := f.picos
          let offset := ((t2 - t1) - (t4 - t3)) / 2
          s.onDie die fun d => d.onFab fun f => f.adjust offset

end Sys2Proof.Machine
end

