-- ==== Sys2Proof/Machine/Save.lean ====
section
/-! DEFINITION. Context save and restore (10 R264 to R270): the slot's areas as they are written and read back, live rows,
what a log must be able to hold. -/

namespace Sys2Proof.Machine

/-! ## Slots (R264, Table 10.7) -/

/-- 128 MiB. -/
def slotBytes : Nat := 2 ^ 27
/-- Virtual address of a save slot. -/
def Context.slotVa (c : Context) (k : Nat) : Nat := (c.savebase.toNat + k * slotBytes) % 2 ^ 72
/-- Offset of the arrival log. -/
def logOffset : Nat := 0x6100000
/-- A free slot of a context. -/
def State.freeSlot (s : State) (ctx : Nat) (c : Context) : Option Nat := (List.range c.saven).find? fun k => !s.slotsUsed.contains (ctx, k)

/-- Bytes the spec gives no layout for: free values. -/
def freeBytes (at_ n : Nat) : List Byte := (List.range n).map fun k => Config.freeByte (at_ + k)

/-- A list of n entries of a map. -/
def listed {α : Type} (n : Nat) (f : Nat → α) : List α := (List.range n).map f
/-- The map with n entries. -/
def mapOf {α : Type} [DecidableEq α] (d : α) (n : Nat) (f : Nat → α) : FMap α := (List.range n).foldl (fun m k => m.put d k (f k)) []

/-- One 32-byte binding (09 Table 9.2). -/
def Binding.image (b : Binding) : List Byte :=
  toLE 32 (b.obj.toNat + b.base.toNat * 2 ^ 72 + b.len.toNat * 2 ^ 144 + b2n b.v * 2 ^ 184)
/-- Read one back. -/
def bindingOf (x : Nat) : Binding :=
  { obj := BitVec.ofNat 72 x, base := BitVec.ofNat 72 (x / 2 ^ 72), len := BitVec.ofNat 40 (x / 2 ^ 144), v := x.testBit 184 }

/-- The system registers of the words from 0x538 on. -/
def Ctxt.savedWords (c : Ctxt) : List Nat :=
  [c.rmode.toNat, c.vstat.toNat, c.chksb.toNat, c.lim, c.tvec.toNat, c.trecbase.toNat % 2 ^ 64, c.tdepth, c.tstatus.toNat, c.cmdix.toNat,
   c.xwait.toNat, c.scm.toNat, c.lxor.toNat, c.lperm.toNat]

/-- The registers' areas below the alcove's row map (Table 10.7); `fr` counts free values. -/
def Ctxt.registerImage (c : Ctxt) (fr : Nat) : List Byte :=
  listed 64 (fun i => toLE 8 (c.s.get 0 i).toNat) |>.flatten
    |> (· ++ (listed 32 fun i => toLE 16 (c.a.get 0 i).toNat).flatten)
    |> (· ++ padTo 256 (toLE 8 (1 + ((listed 15 fun i => b2n (c.p.get false (i + 1)) * 2 ^ (i + 1)).sum))
          ++ (listed 6 fun i => toLE 8 (c.j.get 0 i).toNat).flatten ++ (c.savedWords.map (toLE 8)).flatten))
    |> (· ++ (listed 8 fun i => toLE 64 (c.k.get 0 i).toNat).flatten)
    |> (· ++ (listed 8 fun i => toLE 8 (c.h.get {} i).req.toNat).flatten ++ (listed 8 fun i => toLE 8 (c.h.get {} i).grant.toNat).flatten)
    |> (· ++ (listed 16 fun i => toLE 32 (c.cb.get 0 i).toNat).flatten)
    |> (· ++ freeBytes fr 384 ++ (listed 64 fun i => (c.bindings.get {} i).image).flatten ++ freeBytes (fr + 384) 3072)
    |> (· ++ (listed 32 fun i => toLE 256 (c.v.get 0 i).toNat).flatten)

/-- Rows a save keeps (R265): those of tiles and their status lines. -/
def Ctxt.tileRows (c : Ctxt) : List Nat :=
  distinct ((c.tiles.filter fun t => t.2.state != .empty).flatMap fun t =>
    t.2.footprint ++ (match t.2.status? with | some a => [a / 256] | none => []))
/-- Those of them that have not expired. -/
def Die.liveRows (d : Die) (t : Nat) : List Nat := d.c.tileRows.filter fun r => !d.expired t r

/-- Panels in use. -/
def Ctxt.panelsUsed (c : Ctxt) : List Nat := (List.range 64).filter fun n => c.yUsed.get false n

/-- The header (Table 10.7). -/
def saveHeader (kind rowLim colLim resume ftc : Nat) (panels : List Nat) : List Byte :=
  padTo 256 ([1, BitVec.ofNat 8 kind, BitVec.ofNat 8 (rowLim / 8), BitVec.ofNat 8 (colLim / 8), 0, 0, 0, 0] ++ toLE 8 resume ++ toLE 8 ftc
    ++ toLE 8 ((panels.map fun n => 2 ^ n).sum))

/-- A write of an area of a slot: its offset, its bytes, and whether its lines are marked poisoned. -/
structure AreaWrite where
  off : Nat
  bytes : List Byte
  bad : Bool := false

/-- Writes of step 4 (Table 10.8): the row map and the live rows, a poisoned one with POISON set (R265). -/
def Die.rowWrites (d : Die) (t : Nat) (c : Ctxt) : List AreaWrite :=
  let live := c.tileRows.filter fun r => !d.expired t r
  { off := 0x8000, bytes := listed 0x8000 fun k => BitVec.ofNat 8 ((live.filter fun r => r / 8 == k).map fun r => 2 ^ (r % 8)).sum }
    :: live.map fun r =>
      { off := 0x100000 + 256 * r, bytes := listed 256 fun k => d.gbyte (256 * r + k), bad := (d.tags.get {} r).poison }
/-- Writes of step 6: panels. -/
def Ctxt.panelWrites (c : Ctxt) : List AreaWrite :=
  c.panelsUsed.map fun n => { off := 0x4100000 + 0x80000 * n, bytes := listed 0x80000 fun k => c.y.get 0 (0x80000 * n + k) }

/-- Writes of a save in the order of Table 10.8, the header last. -/
def Die.saveWrites (d : Die) (t fr : Nat) (full : Bool) (header : List Byte) : List AreaWrite :=
  let c := d.c
  [{ off := 0x100, bytes := c.registerImage fr }, { off := 0x4000, bytes := listed 0x4000 c.alcoveByte },
   { off := 0x10000, bytes := (listed 4096 fun k => d.tileImage t (c.tile k)).flatten }]
    ++ (if full then d.rowWrites t c else [])
    ++ [{ off := 0x20000, bytes := (listed 0x10000 fun k => toLE 8 (c.z.get 0 k).toNat).flatten }]
    ++ (if full then c.panelWrites else [])
    ++ [{ off := logOffset, bytes := List.replicate 64 0 }, { off := 0, bytes := header }]

/-- Make writes of a slot at a virtual address. -/
def State.writeAreas (s : State) (ctx va : Nat) : List AreaWrite → Got State
  | [] => .ok s
  | w :: r =>
    match s.devWrite ctx ((va + w.off) % 2 ^ 72) w.bytes w.bad with
    | .ok s => s.writeAreas ctx va r
    | x => x

/-! ## What an arrival log must be able to hold (R270) -/

/-- Bytes that may still arrive for exchanges of a context. -/
def Ctxt.mayArrive (c : Ctxt) : Nat :=
  ((c.xchQ0 ++ c.xchQ1).flatMap fun k => (k.roles.filter fun r => r.begun && !r.finished).map fun r =>
    let left := k.tile2.imageBytes k.wire - r.got
    (if r.recv.isSome && !r.lastIn then left + 64 * ((left + 1023) / 1024) else 0)
      + (if (r.send.isSome && r.token.isNone) || k.isBarrier then 64 else 0)).sum
/-- Whether a full save may be made. -/
def Ctxt.logFits (c : Ctxt) : Bool := decide (c.mayArrive ≤ 1048512)

/-! ## Reading a slot back (R266) -/

/-- Words of 2^n bytes of a list. -/
def wordAt (b : List Byte) (lo n i : Nat) : Nat := field b (lo + n * i) n

/-- The state a tile table entry's bits give. -/
def tileStateOf : Nat → TileState
  | 1 => .filling
  | 2 => .ready
  | 3 => .draining
  | _ => .empty
/-- A tile table entry read back (08 Table 8.3). -/
def tileOf (x : Nat) : Tile :=
  { base := BitVec.ofNat 18 x, rows := BitVec.ofNat 16 (x / 2 ^ 18), cols := BitVec.ofNat 16 (x / 2 ^ 34), type := BitVec.ofNat 4 (x / 2 ^ 50)
    cb := BitVec.ofNat 4 (x / 2 ^ 54), state := tileStateOf (x / 2 ^ 58 % 4) }

/-- Registers read back from the areas from 0x100 to 0x8000. -/
def Ctxt.loadRegisters (c : Ctxt) (b : List Byte) : Ctxt :=
  let at_ (o n i : Nat) : Nat := wordAt b (o - 0x100) n i
  let word (k : Nat) : W64 := BitVec.ofNat 64 (at_ 0x538 8 k)
  let status := word 7
  { c with
    s := mapOf 0 64 fun i => if i = 0 then 0 else BitVec.ofNat 64 (at_ 0x100 8 i)
    a := mapOf 0 32 fun i => BitVec.ofNat 72 (at_ 0x300 16 i)
    p := mapOf false 16 fun i => i != 0 && (at_ 0x500 8 0).testBit i
    j := mapOf 0 6 fun i => BitVec.ofNat 32 (at_ 0x508 8 i)
    rmode := word 0 &&& 0xFFFFFFFF00000007
    vstat := word 1 &&& vstatMask
    chksb := word 2 &&& 7
    lim := (word 3).toNat % 2 ^ 17
    tvec := word 4 &&& 0x1FFFFFFFF
    trecbase := (c.trecbase.extractLsb' 64 8 ++ word 5) &&& ~~~0xFF
    tdepth := (word 6).toNat % 8
    inHandler := status.getLsbD 0
    cmdix := (word 8).setWidth 32
    xwait := word 9 &&& 0xFFFFF
    scm := word 10 &&& 0x3FFF
    lxor := word 11 &&& 0x3FFF
    lperm := word 12 &&& 0xFFFFFFFFFFFFFF
    k := mapOf 0 8 fun i => if i = 0 then 0 else BitVec.ofNat 512 (at_ 0x600 64 i)
    h := mapOf {} 8 fun i => { req := BitVec.ofNat 64 (at_ 0x800 8 i), grant := BitVec.ofNat 64 (at_ 0x840 8 i) }
    cb := mapOf 0 16 fun i => BitVec.ofNat 256 (at_ 0x880 32 i)
    bindings := mapOf {} 64 fun i => bindingOf (at_ 0xC00 32 i)
    v := mapOf 0 32 fun i => BitVec.ofNat 2048 (at_ 0x2000 256 i)
    alcove := (List.range 0x4000).foldl (fun m i => m.set i (b.getD (0x3F00 + i) 0)) []
    alcoveFree := none }

/-- Tile table and accumulators read back from the areas from 0x10000 to 0xA0000. -/
def Ctxt.loadTables (c : Ctxt) (b : List Byte) : Ctxt :=
  { c with
    tiles := mapOf {} 4096 fun i => tileOf (wordAt b 0 16 i)
    z := mapOf 0 0x10000 fun i => BitVec.ofNat 64 (wordAt b 0x10000 8 i) }

/-- Panels of a mask read back. -/
def State.loadPanels (s : State) (ctx va : Nat) (c : Ctxt) : List Nat → Got (State × Ctxt)
  | [] => .ok (s, c)
  | n :: r =>
    match s.devRead ctx ((va + 0x4100000 + 0x80000 * n) % 2 ^ 72) 0x80000 with
    | .wait s => .wait s
    | .fault x a => .fault x a
    | .ok (s, b) =>
      let y := b.zipIdx.foldl (fun (y : FMap Byte) x => y.put 0 (0x80000 * n + x.2) x.1) c.y
      s.loadPanels ctx va { c with y, yUsed := c.yUsed.put false n true } r

/-- A saved gallery row as it is read back: its number, its bytes, and whether its lines are poisoned. -/
structure RowImage where
  row : Nat
  bytes : List Byte
  poison : Bool
  deriving DecidableEq, Repr

/-- Saved rows read back, those of another package fetched first; poison does not fault (R266). -/
def State.readRows (s : State) (ctx va : Nat) : List Nat → Got (State × List RowImage)
  | [] => .ok (s, [])
  | r :: rs =>
    match s.devAddrs ctx ((va + 0x100000 + 256 * r) % 2 ^ 72) 256 1 with
    | .wait pa => .wait (s.fetchRemote 0 pa)
    | .fault c a => .fault c a
    | .ok pas =>
      match pas.find? fun x => s.absent x.1 with
      | some x => if s.lineLost x.1 then .fault .noreach (BitVec.ofNat 72 va) else .wait (s.fetchRemote 0 x.1)
      | none =>
        match s.readRows ctx va rs with
        | .ok (s, out) => .ok (s, { row := r, bytes := pas.map fun x => s.homeByte x.1, poison := pas.any fun x => s.poisoned x.1 } :: out)
        | x => x

/-- What a slot gives back. -/
structure SlotImage where
  ctxt : Ctxt
  /-- resume address, bytes 15:8 of the header -/
  pc : Nat
  rows : List RowImage

/-- What a slot gives back, its version checked: the context, its resume address and the rows that were saved. -/
def State.loadSlot (s : State) (ctx va : Nat) (v : Saved) : Got (State × SlotImage) :=
  let read (s : State) (o n : Nat) : Got (State × List Byte) := s.devRead ctx ((va + o) % 2 ^ 72) n
  match read s 0 256 with
  | .wait s => .wait s
  | .fault x a => .fault x a
  | .ok (s, head) =>
    if field head 0 1 ≠ 1 then .fault .recFault (BitVec.ofNat 72 va)
    else
      match read s 0x100 0x7F00 with
      | .wait s => .wait s
      | .fault x a => .fault x a
      | .ok (s, regs) =>
        match read s 0x8000 0x98000 with
        | .wait s => .wait s
        | .fault x a => .fault x a
        | .ok (s, b) =>
          let c := (v.ctxt.loadRegisters regs).loadTables (b.drop 0x8000)
          let rows := if v.kind = .full then (List.range (2 ^ 18)).filter fun r => (b.getD (r / 8) 0).getLsbD (r % 8) else []
          let mask := field head 24 8
          let panels := if v.kind = .full then (List.range 64).filter fun n => mask.testBit n else []
          -- pushes made a resident context's tiles READY in place (R267)
          let c := if v.kind = .full then { c with y := [], yUsed := [], yBad := [] }
            else { c with tiles := c.tiles.map fun e => if (v.ctxt.tile e.1).state = .ready then (e.1, { e.2 with state := .ready }) else e }
          match s.loadPanels ctx va c panels with
          | .wait s => .wait s
          | .fault x a => .fault x a
          | .ok (s, c) =>
            match s.readRows ctx va rows with
            | .wait s => .wait s
            | .fault x a => .fault x a
            | .ok (s, rows) => .ok (s, { ctxt := c, pc := field head 8 8, rows })

/-- Restore saved rows into the gallery of die y, fresh, poisoned where their lines were (R266). -/
def State.loadRows (s : State) (y : Nat) (rows : List RowImage) : State :=
  rows.foldl (fun s r => s.onDie y fun d =>
    let d := d.gwrite (s.us y) (placeAt (256 * r.row) r.bytes)
    if r.poison then d.poisonRows [r.row] else d) s

end Sys2Proof.Machine
end

