-- ==== Sys2Proof/Machine/Tasks.lean ====
section
/-! DEFINITION. Tasks on dies (06 R140 to R153): candidates, gangs, the loader and the state of a task's start, preloads,
ends of tasks, budgets, pre-emption, save and restore (10 R260 to R270). -/

namespace Sys2Proof.Machine

/-! ## Candidates (R140, R141) -/

/-- A task a die may take: its effective priority, whether the die holds its preload, its replay's number. -/
structure Cand where
  task : Task
  prio : Nat
  held : Bool
  number : Nat
  deriving DecidableEq, Repr

/-- The order of R141, smallest first. -/
def Cand.key (c : Cand) : List Nat := [7 - c.prio, 1 - b2n c.held, c.task.ready, c.number, c.task.node, c.task.ordinal]

/-- Lexicographic order. -/
def keyLt : List Nat → List Nat → Bool
  | x :: a, y :: b => decide (x < y) || (x == y && keyLt a b)
  | _, _ => false

/-- Effective priority (R140). -/
def Task.effective (t : Task) (now : Nat) : Nat := min 7 (t.base + (now - t.ready) / 4000)

/-- A fresh task of a flight. -/
def Replay.taskOf (r : Replay) (fl : Flight) (n ord : Nat) : Task :=
  { rid := r.rid, node := n, ordinal := ord, tuple := fl.node.tuple ord, ready := fl.ready
    base := if fl.node.prioset then fl.node.prio else r.prio }

/-- Open flights of replays that dispatch. -/
def State.openFlights (s : State) : List (Replay × Nat × Flight × Context) :=
  s.replays.flatMap fun r =>
    match (if r.aborted.isSome then none else s.contexts.get? r.ctx) with
    | none => []
    | some c => (r.flights.filter fun f => f.2.node.kind == 0).map fun f => (r, f.1, f.2, c)

/-- Column limit the die's next context will have (07 R188). -/
def Die.nextColLim (d : Die) : Nat := if d.half then 64 else 128

/-- Contexts saved resident on a die whose banks meet some (10 R267). -/
def State.residents (s : State) (y : Nat) (banks : BitVec 16) : List Saved :=
  s.saved.filter fun v => v.kind == .resident y && v.task.banks &&& banks != 0

/-- Whether the object of a replay lets its tasks run on die y's cluster (08 R208). -/
def State.modeOk (s : State) (y : Nat) (r : Replay) : Bool :=
  match s.objects.get? r.handle with
  | none => false
  | some o => o.fusel1 == s.fused.get false (y / 4) || (List.range 4).all fun k => (s.die (4 * (y / 4) + k)).task.isNone

/-- An unended pinned task of the same key that a die holds (18 R457). -/
def State.keyHeld (s : State) (y : Nat) (key : Byte) (t : Task) : Bool :=
  (match (s.die y).task with | some x => x.pinned && x.xkey == key && !x.task.same t | none => false)
    || s.saved.any fun v => v.die == y && v.task.pinned && v.task.xkey == key && !v.task.task.same t

/-- Whether a die may take a task of a flight, as far as slots, limits, banks and modes go (R144, R189, R264, R267). -/
def State.mayTake (s : State) (y : Nat) (r : Replay) (fl : Flight) (c : Context) (t : Task) : Bool :=
  (match t.saved.bind fun id => s.saved.find? fun v => v.id == id with
   | some v =>
     (match v.kind with | .resident d => d == y | .full => true)
       && (fl.node.migr || v.colLim == (s.die y).nextColLim)
       && (v.ctxt.matQ.all fun k => !(k.begun && multiplies k.op) || k.shape.cols ≤ (s.die y).nextColLim)
   | none => (s.freeSlot r.ctx c).isSome)
    && ((s.residents y fl.node.banks).all fun v => t.saved == some v.id || v.ctxt.logFits)
    && s.modeOk y r && !(fl.node.pinned && s.keyHeld y c.xkey t)

/-- The next iteration of die y's pinned queue (R146). -/
def State.pinnedNext (s : State) (y : Nat) (r : Replay) (n : Nat) (fl : Flight) (c : Context) : Option Task :=
  let w := widthOf c.scm.toNat
  let l := s.lidIn c y
  if !s.eligible c y then none
  else
    match fl.requeued.find? fun t => fl.node.combined t.ordinal % 2 ^ w == l with
    | some t => some t
    | none =>
      if fl.node.combinations ≤ l then none
      else (fl.node.nextPinned w l fl.node.total (fl.pinNext.get 0 l)).map fun ord => r.taskOf fl n ord

/-- The dies of a flight's gang: those with a pinned queue that is not empty (R147). -/
def State.gangDies (s : State) (r : Replay) (n : Nat) (fl : Flight) (c : Context) : List Nat :=
  (List.range 16).filter fun y => (s.pinnedNext y r n fl c).isSome

/-- The first of some candidates. -/
def firstCand (cs : List Cand) : Option Cand :=
  cs.foldl (fun m c => match m with | some b => if keyLt c.key b.key then some c else m | none => some c) none

/-- The rank of a pinned flight that waits for its gang: that of the first of the iterations its dies would take; one that was pre-empted
ranks by the time of its pre-emption (R140). -/
def State.flightCand (s : State) (r : Replay) (n : Nat) (fl : Flight) (c : Context) : Cand :=
  let cand (t : Task) : Cand := { task := t, prio := t.effective (s.ftc 0), held := false, number := r.number }
  (firstCand (((List.range 16).filterMap fun y => s.pinnedNext y r n fl c).map cand)).getD (cand (r.taskOf fl n 0))

/-- Pinned flights that wait for their gangs, first in the order of R141 first. -/
def State.waitingGangs (s : State) : List (Replay × Nat × Flight × Context) :=
  let all := s.openFlights.filter fun (_, _, fl, _) => fl.node.pinned && !fl.ganged
  let lt (a b : Replay × Nat × Flight × Context) : Bool := keyLt (s.flightCand a.1 a.2.1 a.2.2.1 a.2.2.2).key (s.flightCand b.1 b.2.1 b.2.2.1 b.2.2.2).key
  all.foldl (fun l x => (l.takeWhile fun y => !lt x y) ++ x :: l.dropWhile fun y => !lt x y) []

/-- The flight a die is held for, of those that wait. -/
def State.heldFor (s : State) (y : Nat) : Option (Replay × Nat × Flight × Context) :=
  s.waitingGangs.find? fun (r, n, fl, c) => (s.pinnedNext y r n fl c).isSome

/-- Free iterations a die could take of a flight: those to run again, and the next of the walk (R144). -/
def State.freeTasks (s : State) (r : Replay) (n : Nat) (fl : Flight) (c : Context) : List Task :=
  let (p, P) := s.packageIndex c
  fl.requeued ++ (match fl.node.nextFree p P fl.nextN with | some ord => [r.taskOf fl n ord] | none => [])

/-- Candidates of free flights for a die (R141). -/
def State.freeCands (s : State) (y : Nat) : List Cand :=
  let now := s.ftc 0
  s.openFlights.flatMap fun (r, n, fl, c) =>
    if fl.node.pinned || !s.eligible c y then []
    else ((s.freeTasks r n fl c).filter fun t => s.mayTake y r fl c t).map fun t =>
      { task := t, prio := t.effective now, number := r.number
        held := match (s.die y).preload with | some p => p.task.same t | none => false }

/-- The open flight of a replay's node. -/
def State.flight? (s : State) (rid n : Nat) : Option (Replay × Flight × Context) := do
  let r ← s.replay? rid
  let fl ← r.flights.get? n
  let c ← s.contexts.get? r.ctx
  pure (r, fl, c)

/-- The iteration a free die takes. -/
def State.pick (s : State) (y : Nat) : Option Task :=
  match (s.die y).gang with
  | some (rid, n) =>
    (s.flight? rid n).bind fun (r, fl, c) =>
      if r.aborted.isSome then none else (s.pinnedNext y r n fl c).filter fun t => s.mayTake y r fl c t
  | none => if (s.heldFor y).isSome then none else (firstCand (s.freeCands y)).map (·.task)

/-- Whether a die is free. -/
def State.dieFree (s : State) (y : Nat) : Bool :=
  let d := s.die y
  d.powered && s.trust.ps == 0 && d.task.isNone && d.seq.run == .idle && !d.dbgBlock.halted && d.seq.haltReq.isNone

/-! ## The loader (R143, Table 6.5) -/

/-- WHEEL from a context's template (09 R236). -/
def State.wheelOf (s : State) (c : Context) (y : Nat) : W64 :=
  packBits [(0, 8, c.wbase.toNat + s.lidIn c y % 2 ^ widthIn c.scm.toNat), (8, 8, c.wstep.toNat), (16, 9, min 256 c.wcount.toNat)]

/-- Rows of the gallery of a die that outlive a task's start: of a preload kept, and of resident contexts. -/
def State.keptRows (s : State) (y : Nat) (own : Nat → Bool) : Nat → Bool := fun r =>
  own r || (s.die y).reserved r || s.saved.any fun v => v.kind == .resident y && v.ctxt.tileRows.contains r

/-- A sequencer that has no task, its clock going on. -/
def Seq.cleared (q : Seq) : Seq :=
  { cycle := q.cycle, decideAt := q.cycle, schedAt := q.schedAt, window := q.window, nextId := q.nextId, haltReq := q.haltReq }

/-- A cluster takes the mode a task's object asks for (08 R208). -/
def State.setFused (s : State) (y : Nat) (want : Bool) : State :=
  if s.fused.get false (y / 4) = want then s
  else
    let s := (List.range 4).foldl (fun s k => (s.l1WriteBack (4 * (y / 4) + k) fun _ => true).l1Drop (4 * (y / 4) + k) fun _ _ => true) s
    { s with fused := s.fused.put false (y / 4) want }

/-- The die takes the mode that HALF asks for at a start or a resume (07 R188): groups 4 to 7 lose power at once, or gain it in ascending
order, 1 µs apart over the whole package (01 R22, R23), the start waiting for the last of them (DEDUCED, assumption 40). The answer is whether it may go on. -/
def State.takeMode (s : State) (y : Nat) : State × Bool :=
  let d := s.die y
  if d.half then (s.onDie y fun d => { d with halfOn := true, groups := 4 }, true)
  else if 8 ≤ d.groups then (s.onDie y fun d => { d with halfOn := false }, true)
  else if (List.range 16).any fun z => match (s.die z).groupAt with | some t => decide (s.wc < t + 2000) | none => false then (s, false)
  else (s.onDie y fun d => { d with halfOn := false, groups := d.groups + 1, groupAt := some s.wc }, d.groups == 7)

/-- The state of the die at a task's first bundle. -/
def State.beginTask (s : State) (y : Nat) : State :=
  match (s.die y).task with
  | none => s
  | some dt =>
    match s.flight? dt.task.rid dt.task.node, (s.replay? dt.task.rid).bind fun r => s.objects.get? r.handle with
    | some (r, fl, c), some o =>
      let nd := fl.node
      let d := s.die y
      let base := s.objBase o
      let va := c.arenava.toNat + o.off * 2 ^ 16
      let lo := nd.pbank * 2 ^ 14
      let rows := (nd.plen + 255) / 256
      let own (row : Nat) : Bool := nd.pre && decide (lo ≤ row ∧ row < lo + rows)
      let req : W64 := packBits [(0, 16, nd.prows), (16, 16, nd.pcols), (56, 4, nd.pfmt), (60, 1, 1)]
      let mine (p : Option Preload) : Option Preload := p.filter fun p => p.task.same dt.task
      let seg := ((mine d.load).or (mine d.preload)).bind (·.seg)
      let d := { d with load := none, preload := if (mine d.preload).isSome then none else d.preload }
      let s := s.setDie y d
      let kept := s.keptRows y own
      let ctxt : Ctxt :=
        { s := mapOf 0 4 fun i => BitVec.ofNat 64 (match i with | 1 => r.number | 2 => dt.task.node | 3 => dt.task.ordinal | _ => 0)
          a := mapOf 0 1 fun _ => BitVec.ofNat 72 (r.slotVa + nd.param)
          j := mapOf 0 6 fun l => BitVec.ofNat 32 (dt.task.tuple.getD l 0)
          h := if nd.pre then [(0, { req, grant := grantOf req 128 d.nextColLim })] else []
          tiles := if nd.pre then [(nd.ptile, { base := BitVec.ofNat 18 lo, rows := BitVec.ofNat 16 nd.prows, cols := BitVec.ofNat 16 nd.pcols
                                                type := BitVec.ofNat 4 nd.pfmt, state := .ready })] else []
          alcoveFree := if d.lastCtx = some dt.ctx then some s.free else none
          scm := c.scm.setWidth 64, lxor := c.lxor.setWidth 64, lperm := c.lperm.setWidth 64
          ctxbase := BitVec.ofNat 64 base, ctxbound := BitVec.ofNat 64 (base + (o.hotUnits + o.coldUnits) * 2 ^ 16)
          cbase := BitVec.ofNat 64 (va + o.constOff), gotbase := BitVec.ofNat 64 (va + o.gotOff)
          logbase := BitVec.ofNat 72 (c.slotVa dt.slot + logOffset)
          rmode := seedOf dt.task.ordinal dt.task.node ++ (0 : BitVec 32)
          wheel := s.wheelOf c y, lim := d.cap }
      let s := { s with free := s.free + 0x4000 }.l1DropWt y
      let s := s.onDie y fun d =>
        let d := d.mapTags fun r t => if kept r then t else { t with exp := true }
        { d with
          c := ctxt, lastCtx := some dt.ctx, peak := 0
          dbgBlock := { d.dbgBlock with pass := none }
          seq := { d.seq.cleared with
                   run := .running, pc := base + nd.entry, preempt := d.seq.preempt
                   halfCur := match seg with | some h => if h.seg = segOf (base + nd.entry) then h else {} | none => {} } }
      let s := if dt.budget = 0 then s else s.again y .budgetOverrun
      let s := if (s.die y).seq.preempt then s.again y .preemptionPoint else s
      s.again y .taskDispatch
    | _, _ => s

/-- Start the task, or wait for the mode it starts in. -/
def State.startTask (s : State) (y : Nat) : State :=
  let (s, ready) := s.takeMode y
  if ready then s.beginTask y else s.again y .taskDispatch

/-! ## Preloads (R148 to R150) -/

/-- How a preload's copy goes on. -/
inductive PreEnd where
  | done | wait | parked | fault (c : Cause)
  deriving DecidableEq, Repr

/-- A preload that has data is looked at for renewal from row `lo` on, by one event (R149). -/
def State.renewing (s : State) (y lo : Nat) : State :=
  if s.agenda.any fun e => match e.instr with | .preloadRenewal d _ => d == y | _ => false then s else s.later y (.preloadRenewal y lo)

/-- Bytes of a preload up to the next 64 KiB boundary of its source. -/
def Preload.chunk (p : Preload) : Nat := min (p.len - p.done) (2 ^ 16 - (p.src.toNat + p.done) % 2 ^ 16)

/-- The preload of another task that a die keeps, or the one that the loader makes for the die's own. -/
def Die.slotOf (d : Die) (own : Bool) : Option Preload := if own then d.load else d.preload
/-- Replace it. -/
def Die.putSlot (d : Die) (own : Bool) (p : Preload) : Die := if own then { d with load := some p } else { d with preload := some p }

/-- Write bytes of a preload: its rows hold nothing older, and take their lifetime tags as they are written (R148). -/
def Die.preloadWrite (d : Die) (t : Nat) (own : Bool) (p : Preload) (bytes : List Byte) : Die :=
  let ws := placeAt (p.bank * 2 ^ 22 + p.done) bytes
  let d := if p.done = 0 then d.expireRows (p.bank * 2 ^ 14) p.rows else d
  let kept := d.preload
  let d : Die := ((({ d with preload := none } : Die).moves (rowsOf (ws.map fun w => w.1))).gwrite t ws)
  ({ d with preload := kept } : Die).putSlot own { p with done := p.done + bytes.length }

/-- Copy a preload's bytes, a chunk of its source at a time. -/
def State.preloadRun (y : Nat) (own : Bool) : Nat → State → State × PreEnd
  | 0, s => (s, .wait)
  | fuel + 1, s =>
    match (s.die y).slotOf own with
    | none => (s, .done)
    | some p =>
      if p.parked.isSome then (s, .parked)
      else if p.len ≤ p.done then (s, .done)
      else
        let va := (p.src.toNat + p.done) % 2 ^ 72
        match s.devAddrs p.ctx va p.chunk 1 with
        | .wait pa => (s.fetchRemote 0 pa, .wait)
        | .fault c a =>
          if c = .page then
            let (s, ix) := s.ringAdd (faultRecord p.ctx 2 0 a (s.nid y) 0 0)
            (s.onDie y fun d => d.putSlot own { p with parked := some ix }, .parked)
          else (s, .fault c)
        | .ok pas =>
          if pas.any fun x => x.2 == 3 then (s, .fault .attr)
          else
            match s.devRead p.ctx va p.chunk with
            | .wait s => (s, .wait)
            | .fault c _ => (s, .fault c)
            | .ok (s, bytes) =>
              State.preloadRun y own fuel ((s.onDie y fun d => d.preloadWrite (s.us y) own p bytes).renewing y (p.bank * 2 ^ 14))

/-- Chunks a preload may take. -/
def preloadFuel : Nat := 130

/-- The first segment of an iteration, expanded (R148). -/
def State.firstSegment (s : State) (at_ : Nat) : Half :=
  let h := s.newHalf (segOf at_) (lineIn at_)
  h.order.foldl (fun h k => h.expand k (s.textLine h.seg k)) h

/-- A preload for an iteration, its data to be copied where `data`. -/
def State.newPreload (s : State) (r : Replay) (nd : Node) (t : Task) (data : Bool) : Preload :=
  let at_ := match s.objects.get? r.handle with | some o => s.objBase o + nd.entry | none => 0
  { task := t, ctx := r.ctx, bank := nd.pbank, rows := if data then (nd.plen + 255) / 256 else 0, len := if data then nd.plen else 0
    done := 0, src := BitVec.ofNat 72 nd.psrc, seg := some (s.firstSegment at_), hasData := data }

/-- The task on a die that has not begun: make its preload, then begin it. -/
def State.continueLoad (s : State) (y : Nat) : State :=
  match (s.die y).task with
  | none => s
  | some dt =>
    match s.flight? dt.task.rid dt.task.node with
    | none => s
    | some (r, fl, _) =>
      if !fl.node.pre then s.startTask y
      else
        let s := if (s.die y).load.isSome then s else s.onDie y fun d =>
          match d.preload with
          | some p =>
            if !p.task.same dt.task then { d with load := some (s.newPreload r fl.node dt.task true) }
            else if p.hasData then { d with preload := none, load := some p }
            else { d.dropPreload with load := some (s.newPreload r fl.node dt.task true) }
          | none => { d with load := some (s.newPreload r fl.node dt.task true) }
        match State.preloadRun y true preloadFuel s with
        | (s, .done) => s.startTask y
        | (s, .wait) => s.again y .taskDispatch
        | (s, .parked) => s
        | (s, .fault c) => (s.onDie y Die.dropLoad).failContext y c

/-- The dependence count of a node that is not ready, where it can be read (R137, R138). -/
def State.countOf (s : State) (r : Replay) (m : Nat) (nd : Node) : Option Nat :=
  match r.hw.get? m with
  | some k => some k
  | none =>
    match s.devRead r.ctx (r.spillVa m) 8 with
    | .ok (_, b) => some (nd.npred + nd.extra - (if field b 4 4 = r.number then field b 0 4 else 0))
    | _ => none

/-- Nodes whose count is 1 and whose last decrement the task on die y will give (R148): with the rank of their base. -/
def State.comingCands (s : State) (y : Nat) : List (Cand × Node) :=
  match (s.die y).task with
  | none => []
  | some dt =>
    match s.flight? dt.task.rid dt.task.node with
    | none => []
    | some (r, fl, c) =>
      if fl.left ≠ 1 ∨ r.aborted.isSome then []
      else
        match s.devRead r.ctx ((r.desc.succBase + 4 * fl.node.succ) % 2 ^ 72) (4 * fl.node.nsucc) with
        | .ok (_, b) =>
          ((List.range fl.node.nsucc).map fun k => field b (4 * k) 4).filterMap fun m =>
            if !r.hw.any (·.1 == m) && !r.spilled.contains m then none
            else
              match s.nodeBytes r m with
              | .ok (_, nb) =>
                let nd := nodeOf nb
                let (p, P) := s.packageIndex c
                let w := widthOf c.scm.toNat
                if nodeBad nb || nd.kind != 0 || s.countOf r m nd != some 1 then none
                else (if nd.pinned then (if s.eligible c y then nd.nextPinned w (s.lidIn c y) nd.total 0 else none) else nd.nextFree p P 0).map fun ord =>
                  let t : Task := { rid := r.rid, node := m, ordinal := ord, tuple := nd.tuple ord, ready := s.ftc 0
                                    base := if nd.prioset then nd.prio else r.prio }
                  ({ task := t, prio := t.base, held := false, number := r.number }, nd)
              | _ => none
        | _ => []

/-- The preload candidate of a busy die (R148). -/
def State.nextFor (s : State) (y : Nat) : Option (Replay × Node × Task) :=
  let pinned (x : Replay × Nat × Flight × Context) : Option (Replay × Node × Task) :=
    (s.pinnedNext y x.1 x.2.1 x.2.2.1 x.2.2.2).map fun t => (x.1, x.2.2.1.node, t)
  let fresh (x : Replay × Node × Task) : Bool := x.2.2.saved.isNone
  match (s.die y).gang with
  | some (rid, n) => ((s.flight? rid n).bind fun (r, fl, c) => pinned (r, n, fl, c)).filter fresh
  | none =>
    match s.heldFor y with
    | some x => (pinned x).filter fresh
    | none =>
      -- what the die could take next: its own task's slot is free then
      let free : State := match (s.die y).task with
        | some dt => { s.onDie y fun d => { d with task := none } with slotsUsed := s.slotsUsed.filter fun u => u != (dt.ctx, dt.slot) }
        | none => s
      let ready := (free.freeCands y).filterMap fun k => (s.flight? k.task.rid k.task.node).map fun x => (k, x.2.1.node)
      let all := (ready ++ s.comingCands y).filter fun k => k.1.task.saved.isNone
      (firstCand (all.map (·.1))).bind fun k =>
        (all.find? fun x => x.1 == k).bind fun x => (s.replay? k.task.rid).map fun r => (r, x.2, k.task)

/-- A preload whose copy ends with a fault that is not replayable is discarded. -/
def State.preloadOn (s : State) (y : Nat) : State :=
  match State.preloadRun y false preloadFuel s with
  | (s, .done) => s
  | (s, .wait) => s.again y .taskDispatch
  | (s, .parked) => s
  | (s, .fault _) => s.onDie y Die.dropPreload

/-- Choose a preload candidate for a die that runs a task, or carry on with one. -/
def State.preloadFor (s : State) (y : Nat) : State :=
  match (s.die y).preload, (s.die y).task with
  | some _, _ => s.preloadOn y
  | none, some dt =>
    (match s.nextFor y with
     | none => s
     | some (r, nd, t) =>
       -- a resident context's rows stay where they are (10 R267)
       let data := nd.pre && !dt.banks.getLsbD nd.pbank && (s.residents y (BitVec.ofNat 16 (2 ^ nd.pbank))).isEmpty
       (s.onDie y fun d => { d with preload := some (s.newPreload r nd t data) }).preloadOn y)
  | none, none => s

/-- Half of a row's guaranteed retention has passed (08 R200). -/
def Die.dueRenewal (d : Die) (t row : Nat) : Bool :=
  !d.expired t row && decide (retention (d.worst t row) ≤ 2 * rowAge t (d.tags.get {} row))

/-- Rows of the preloads on a die. -/
def Die.preloadRows (d : Die) : List Nat :=
  ([d.preload, d.load].filterMap fun p => p.filter (·.hasData)).flatMap fun p => (List.range p.rows).map fun k => p.bank * 2 ^ 14 + k

/-- PRELOAD_RENEWAL (R149): a row is renewed where it is due; the next row follows. -/
def execPreloadRenewal (die row : Nat) (s : State) : Host.Outcome State Fault Refusal :=
  event (.preloadRenewal die row) s <|
    let rows := (s.die die).preloadRows
    if !rows.contains row then (match rows with | r :: _ => s.again die (.preloadRenewal die r) | [] => s)
    else
      let s := if (s.die die).dueRenewal (s.us die) row then s.onDie die fun d => (d.moves [row]).renewRow (s.us die) row else s
      s.again die (.preloadRenewal die (rows.getD ((rows.idxOf row + 1) % rows.length) row))

/-- Live rows of contexts resident on a die. -/
def State.residentRows (s : State) (y : Nat) : List Nat := (s.saved.filter fun v => v.kind == .resident y).flatMap fun v => v.ctxt.tileRows

/-- RESIDENT_RENEWAL (10 R267). -/
def execResidentRenewal (die row : Nat) (s : State) : Host.Outcome State Fault Refusal :=
  event (.residentRenewal die row) s <|
    let rows := s.residentRows die
    if !rows.contains row then s
    else
      let s := if (s.die die).dueRenewal (s.us die) row then s.onDie die fun d => (d.moves [row]).renewRow (s.us die) row else s
      let next := rows.getD ((rows.idxOf row + 1) % rows.length) row
      s.again die (.residentRenewal die next)

/-! ## Giving a die a task (R141, R147) -/

/-- Turn a resident save into a full one (10 R267): rows and panels are written to its slot. -/
def State.makeFull (s : State) (y : Nat) (v : Saved) : Got State :=
  match s.contexts.get? v.task.ctx with
  | none => .ok s
  | some c =>
    let d := s.die y
    let va := c.slotVa v.task.slot
    let head := saveHeader 1 v.rowLim v.colLim v.pc (s.ftc y) v.ctxt.panelsUsed
    match s.writeAreas v.task.ctx va (d.rowWrites (s.us y) v.ctxt ++ v.ctxt.panelWrites ++ [{ off := 0, bytes := head }]) with
    | .ok s => .ok { s with saved := s.saved.map fun x => if x.id = v.id then { x with kind := .full } else x }
    | x => x

/-- The panels of a context resident on die y are written to its slot, once, before another task runs there (10 R267). -/
def State.savePanels (s : State) (v : Saved) : Got State :=
  match s.contexts.get? v.task.ctx with
  | none => .ok s
  | some c =>
    if v.panelsOut then .ok s
    else
      match s.writeAreas v.task.ctx (c.slotVa v.task.slot) v.ctxt.panelWrites with
      | .ok s => .ok { s with saved := s.saved.map fun x => if x.id = v.id then { x with panelsOut := true } else x }
      | x => x

/-- The contexts resident on die y make way for a task of some banks, other than `keep` (10 R267): those whose banks meet them are saved in
full, the others' panels are written. One whose slot cannot be written fails with REC_FAULT (10 R265), its replay aborted. -/
def State.evict (s : State) (y : Nat) (banks : BitVec 16) (keep : Option Nat) : Got State :=
  (s.saved.filter fun v => v.kind == .resident y && keep != some v.id).foldl (fun (g : Got State) v =>
    match g with
    | .ok s =>
      (match (if v.task.banks &&& banks != 0 then s.makeFull y v else s.savePanels v) with
       | .fault _ _ => .ok (s.abort v.task.task.rid { xstat := 1, cause := Cause.recFault.code, node := v.task.task.node })
       | x => x)
    | x => x) (.ok s)

/-- The flight's books once an iteration has been given out. -/
def Flight.without (fl : Flight) (t : Task) (w : Nat) : Flight :=
  if fl.requeued.any fun x => x.same t then { fl with requeued := fl.requeued.filter fun x => !x.same t }
  else if fl.node.pinned then { fl with pinNext := fl.pinNext.set (fl.node.combined t.ordinal % 2 ^ w) (t.ordinal + 1) }
  else { fl with nextN := t.ordinal + 1 }

/-- Give die y a task, its resident contexts having made way. -/
def State.put (s : State) (y : Nat) (t : Task) : State :=
  match s.flight? t.rid t.node, (s.replay? t.rid).bind fun r => s.objects.get? r.handle with
  | some (r, fl, c), some o =>
    let s := s.onReplay t.rid fun r => { r with flights := r.flights.set t.node (fl.without t (widthOf c.scm.toNat)) }
    let old := t.saved.bind fun id => s.saved.find? fun v => v.id == id
    let slot := match old with | some v => v.task.slot | none => (s.freeSlot r.ctx c).getD 0
    let s := if s.slotsUsed.contains (r.ctx, slot) then s else { s with slotsUsed := s.slotsUsed ++ [(r.ctx, slot)] }
    -- the preload of the task elsewhere, and one of this die that the task's banks meet
    let s := (List.range 16).foldl (fun s z =>
      if z ≠ y ∧ ((s.die z).preload.map fun p => p.task.same t) = some true then s.onDie z Die.dropPreload else s) s
    let s := match (s.die y).preload with
      | some p => if !p.task.same t && p.hasData && fl.node.banks.getLsbD p.bank then s.onDie y Die.dropPreload else s
      | none => s
    let dt : DieTask :=
      { task := t, ctx := r.ctx, slot, pinned := fl.node.pinned, xkey := c.xkey, budget := fl.node.budget * 1000
        banks := fl.node.banks, stepping := o.stepping }
    let s := (s.onDie y fun d => { d with task := some dt }).setFused y o.fusel1
    if t.saved.isSome then s.later y .restoreComplete else s.continueLoad y
  | _, _ => s

/-- Tasks are given to dies once the contexts resident there have made way for all of them; a slot that cannot be reached yet makes them
wait, and a replay that was aborted meanwhile takes its task back. -/
def State.give (s : State) (ts : List (Nat × Task)) (f : State → State) : State :=
  let room := ts.foldl (fun (g : Got State) x =>
    match g with
    | .ok s => (match s.flight? x.2.rid x.2.node with
      | some (_, fl, _) => s.evict x.1 fl.node.banks x.2.saved
      | none => .ok s)
    | g => g) (.ok s)
  match room with
  | .wait s => (ts.head?.map fun x => s.again x.1 .taskDispatch).getD s
  | .fault _ _ => s
  | .ok s => if ts.any fun x => s.replayDead x.2.rid then s else ts.foldl (fun s x => s.put x.1 x.2) (f s)

/-- Start the first gang whose dies are all free (R147). -/
def State.startGang (s : State) : State :=
  let ready := s.waitingGangs.find? fun (r, n, fl, c) =>
    let dies := s.gangDies r n fl c
    -- a die that still saves its last iteration belongs to the gang (R151)
    let leaving : Bool := (List.range 16).any fun y => match (s.die y).task with | some t => t.task.rid == r.rid && t.task.node == n | none => false
    let first := dies.filterMap fun y => s.pinnedNext y r n fl c
    let fresh := (first.filter fun t => t.saved.isNone).length
    let slots := ((List.range c.saven).filter fun k => !s.slotsUsed.contains (r.ctx, k)).length
    !leaving && !dies.isEmpty && dies.all (fun y => s.dieFree y && (s.die y).gang.isNone
        && ((s.heldFor y).map fun x => (x.1.rid, x.2.1)) == some (r.rid, n)
        && (match s.pinnedNext y r n fl c with | some t => s.mayTake y r fl c t | none => false))
      && decide (fresh ≤ slots)
  match ready with
  | none => s
  | some (r, n, fl, c) =>
    let first := (s.gangDies r n fl c).filterMap fun y => (s.pinnedNext y r n fl c).map fun t => (y, t)
    s.give first fun s =>
      let s := s.onReplay r.rid fun r => { r with flights := r.flights.set n { fl with ganged := true } }
      first.foldl (fun s x => s.onDie x.1 fun d => { d with gang := some (r.rid, n) }) s

/-- TASK_DISPATCH of die `unit` (R141): pool entries are opened, gangs start, a free die takes its first task, a busy one its
preload. -/
def execTaskDispatch (s : State) : Host.Outcome State Fault Refusal :=
  dieEvent s <|
    let y := s.unit
    let s := State.openAll (1 + (s.replays.map fun r => r.desc.nodes).sum) s.listAgain
    let s := if s.unopened.isSome || (s.replays.any fun r => !r.listing.isEmpty || !r.overflow.isEmpty) then s.again y .taskDispatch else s
    let s := s.startGang
    match (s.die y).task with
    | some dt =>
      if dt.task.saved.isSome then s
      else if (s.die y).seq.run = .idle then s.continueLoad y
      else if (s.die y).seq.run = .running then s.preloadFor y
      else s
    | none =>
      if !s.dieFree y then s
      else match s.pick y with
        | some t => s.give [(y, t)] id
        | none => s

/-! ## Ends of tasks (R152, R153) -/

/-- Stores of a task that ended, not performed, are performed: they have issued. -/
def State.flushStores (s : State) (y : Nat) : State :=
  (s.die y).seq.stores.foldl (fun s w =>
    let (s, w) := if w.vbytes.isEmpty then (s, w) else s.resolveStore y w fun _ => false
    if w.fault.isSome || w.sent then s
    else
      let (far, near) := w.bytes.partition fun x => paClass x.1 == 4
      let s := s.homeWrite near
      if far.isEmpty then s else s.sendWrites y (.store 0) far 0 0) s

/-- What awaits a reply for a context that has failed: nothing does, and the scheduler counts its writes (06 R135). A request that has not
been sent and writes nothing is dropped. -/
def Request.forgotten (r : Request) : Option Request :=
  match r.waiter with
  | .fill _ | .done _ | .spill _ _ | .host _ | .gone _ | .store 0 => some r
  | .store _ | .atomic _ | .tile _ => some { r with waiter := .gone true }
  | .load _ | .record => if r.unsent.isSome then none else some { r with waiter := .gone false }

/-- A context that fails leaves its die: its begun exchanges are cancelled (18 R471), and nothing awaits replies for it. -/
def State.clearFailed (s : State) (y : Nat) : State :=
  let s := s.flushStores y
  let c := (s.die y).c
  let s := (c.xchQ0 ++ c.xchQ1).foldl (fun s k => if k.begun then k.roles.foldl (fun s r => s.cancelRole y k r) s else s) s
  s.onDie y fun d => d.onFab fun f => { f with requests := f.requests.filterMap Request.forgotten }

/-- The die is free: its task is gone. -/
def Die.vacate (d : Die) : Die :=
  { d with
    task := none, load := none, seq := d.seq.cleared, lastCtx := (d.task.map (·.ctx)).or d.lastCtx
    c := { d.c with matQ := [], copyQ0 := [], copyQ1 := [], xchQ0 := [], xchQ1 := [], pendTraps := [], loop := none } }

/-- The gang of a flight that has ended, or whose replay is aborted, is released. -/
def State.releaseGangs (s : State) : State :=
  (List.range 16).foldl (fun s y =>
    match (s.die y).gang with
    | some (rid, n) =>
      let ended : Bool := match s.flight? rid n with | some (r, fl, _) => r.aborted.isSome || !fl.ganged | none => true
      if ended && (s.die y).task.isNone then s.onDie y fun d => { d with gang := none } else s
    | none => s) s

/-- An iteration of an aborted replay ended by FEND: its flight completes with the last, and gives its kernel boundary (09 R234). -/
def State.deadEnd (s : State) (rid n : Nat) : State :=
  match s.flight? rid n with
  | some (_, fl, _) =>
    let s := if fl.left ≤ 1 then s.kernelBoundary else s
    s.onReplay rid fun r => { r with flights := if fl.left ≤ 1 then r.flights.erase n else r.flights.set n { fl with left := fl.left - 1 } }
  | none => s

/-- Causes that let a task run again (R152). -/
def rerunnable (c : Cause) (engine : Nat) : Bool :=
  c == .stale || c == .coldFault || (c == .noreach && engine != 0)

/-- TASK_END of die `unit` (R152). -/
def execTaskEnd (s : State) : Host.Outcome State Fault Refusal :=
  dieEvent s <|
    let y := s.unit
    let d := s.die y
    match d.task, (if d.seq.run = .ended then d.seq.endCause else none) with
    | some dt, some cause =>
      let rid := dt.task.rid
      let n := dt.task.node
      let out (s : State) : State :=
        let s := s.onDie y Die.vacate
        { s with slotsUsed := s.slotsUsed.filter fun u => u != (dt.ctx, dt.slot) }
      let last (s : State) : State := (s.releaseGangs.checkRetire rid).settle
      match cause with
      | .overran => s
      | .fend =>
        if s.replayDead rid then last (out (s.deadEnd rid n))
        else
          match s.flight? rid n with
          | none => last (out s)
          | some (_, fl, _) =>
            if fl.left ≤ 1 then
              match s.completeNode rid n fl.node with
              | .ok s => last (out s)
              | .wait s => s.again y .taskEnd
              | .fault _ _ => last (out s)
            else
              last ((out s).onReplay rid fun r => { r with flights := r.flights.set n { fl with left := fl.left - 1 } })
      | .failed c engine =>
        let s := s.clearFailed y
        match s.flight? rid n with
        | some (r, fl, _) =>
          if r.aborted.isSome then last (out s)
          else if !fl.node.pinned && decide (dt.task.reruns < fl.node.retry) && rerunnable c engine then
            let again := { dt.task with reruns := dt.task.reruns + 1, saved := none, ready := fl.ready }
            let s := (out s).onReplay rid fun r => { r with flights := r.flights.set n { fl with requeued := fl.requeued ++ [again] } }
            last (s.onDie y Die.dropPreload)
          else last ((out s).abort rid { xstat := 1, cause := c.code, node := n })
        | none => last (out s)
    | _, _ => s

/-! ## Budgets and pre-emption (R151, 10 R260) -/

/-- Whether the sequencer stalls on a tile that a parked command holds (10 R258). -/
def State.stallsParked (s : State) (y : Nat) : Bool :=
  let d := s.die y
  let tiles := ((d.c.copyQ0 ++ d.c.copyQ1).filter fun k => k.parked.isSome).flatMap (·.moved)
  match d.seq.held, d.heldBundle with
  | some h, some b =>
    h.wait == 0 && (match opsOf b h.guards with
      | some (_, live) => live.any fun o => (useOf o.2).tiles.any tiles.contains
      | none => false)
  | _, _ => false

/-- Ask a die to pre-empt its task, one that has not begun or is still being restored among them (R151). -/
def State.preempt (s : State) (y : Nat) : State :=
  let run := (s.die y).seq.run
  if (s.die y).task.isSome && run != .ended then
    (s.onDie y fun d => d.onSeq fun q => { q with preempt := true }).again y .preemptionPoint
  else s

/-- BUDGET_OVERRUN of die `unit`: its budget runs while it is neither parked nor halted; past it, the die is asked to pre-empt,
and with a pinned flight every die of the gang. -/
def execBudgetOverrun (s : State) : Host.Outcome State Fault Refusal :=
  dieEvent s <|
    let y := s.unit
    match (s.die y).task with
    | none => s
    | some dt =>
      let now := s.ftc y
      let run := (s.die y).seq.run
      if dt.budget = 0 ∨ (run ≠ .running ∧ run ≠ .ending) then s
      else
        let still := s.halted y || s.stallsParked y
        let dt := if !dt.started then dt else if still then dt.pause now else dt.run now
        let s := s.onDie y fun d => { d with task := some dt }
        let used := dt.used + (match dt.since with | some t => now - t | none => 0)
        if used < dt.budget then s.again y .budgetOverrun
        else if dt.pinned then
          let s := s.onReplay dt.task.rid fun r =>
            { r with flights := match r.flights.get? dt.task.node with | some fl => r.flights.set dt.task.node { fl with ganged := false } | none => r.flights }
          ((List.range 16).foldl (fun s z =>
            if (s.die z).gang = some (dt.task.rid, dt.task.node) then s.preempt z else s) s).releaseGangs
        else s.preempt y

/-- What the engines must finish before a save (10 R263): atomics and tile stores sent, stores not performed, whole-tile accesses that hold
their locks, and a matrix command short of a retirement (R260). -/
def State.settledFor (s : State) (y : Nat) : Bool :=
  let d := s.die y
  d.seq.pend.isEmpty && d.seq.landings == d.parkedLandings && d.seq.stores.isEmpty
    && (d.fab.requests.all fun r => match r.waiter with | .fill _ | .gone _ => true | .store id => id == 0 | _ => false)
    && ([d.c.copyQ0.head?, d.c.copyQ1.head?].all fun k => match k with | some k => !k.performed && !k.locked | none => true)
    && (match d.c.matQ with | k :: _ => k.canStop | [] => true)

/-- PREEMPTION_POINT of die `unit` (10 R260). A fault held back until a handler returns is not pending there (R254; DEDUCED, assumption 49),
and the landing buffer entries behind a parked copy go with the context (R263). -/
def execPreemptionPoint (s : State) : Host.Outcome State Fault Refusal :=
  dieEvent s <|
    let y := s.unit
    let d := s.die y
    if !d.seq.preempt || d.task.isNone || (d.seq.run != .running && d.seq.run != .ending) then s
    else if d.dbgBlock.halted || d.seq.haltReq.isSome || d.seq.taking.isSome || d.dueFaults.nextEvent.isSome || s.coldWait y
        || s.wouldTrap y || !s.settledFor y then s.again y .preemptionPoint
    else
      let now := s.ftc y
      let ready := s.ftc 0
      (s.onDie y fun d =>
        { d with c := d.c.turnTimers now, task := d.task.map fun t => { t.pause now with task := { t.task with ready } }
                 seq := { d.seq with run := .ended, endCause := some .overran, held := none, preempt := false } }).later y .saveComplete

/-- A wait as it is saved: every access made before has been performed. -/
def MemWait.saved : MemWait → MemWait
  | .fence _ cmds scope acquire => .fence [] cmds scope acquire
  | w => w

/-- A saved task leaves its die: it waits to be dispatched again, its node fails, or, where it has nothing to go on to, it is dropped. -/
def State.leaveSaved (s : State) (y : Nat) (dt : DieTask) (c : Context) : State :=
  let d := s.die y
  let full := d.c.logFits
  let id := s.nextSave
  let v : Saved := { id, task := { dt with used := 0, since := none }, kind := if full then .full else .resident y
                     ctxt := d.c, pc := d.seq.pc, die := y, rowLim := 128, colLim := d.colLim
                     memWait := d.seq.memWait.map MemWait.saved, landings := d.seq.landings.map fun l => { l with due := l.due - d.seq.cycle } }
  let s := { s with nextSave := id + 1, saved := s.saved ++ [v] }.onDie y Die.vacate
  let s :=
    if s.replayDead dt.task.rid then s.dropSaved id
    else
      match s.flight? dt.task.rid dt.task.node with
      | none => s.dropSaved id
      | some (_, fl, _) =>
        if fl.node.ovrabort then (s.dropSaved id).abort dt.task.rid { xstat := 5, cause := 0, node := dt.task.node }
        else
          let t := { dt.task with saved := some id }
          let s := s.onReplay dt.task.rid fun r => { r with flights := r.flights.set dt.task.node { fl with requeued := fl.requeued ++ [t] } }
          if full then s
          else match s.residentRows y with | r :: _ => s.again y (.residentRenewal y r) | [] => s
  (s.releaseGangs.checkRetire dt.task.rid).settle

/-- Whether a saved task has nothing to go on to: its replay is aborted, or its node aborts when it overruns (06 R153). -/
def State.endsSaved (s : State) (t : Task) : Bool :=
  s.replayDead t.rid || (match s.flight? t.rid t.node with | some (_, fl, _) => fl.node.ovrabort | none => true)

/-- SAVE_COMPLETE of die `unit` (10 R265, R267): the slot is written and the die is free; the task waits to be dispatched
again, or its node fails. A slot that cannot be written fails a context that is to resume with REC_FAULT (DEDUCED, assumption 39). -/
def execSaveComplete (s : State) : Host.Outcome State Fault Refusal :=
  dieEvent s <|
    let y := s.unit
    let d := s.die y
    match d.task, (if d.seq.run = .ended then d.seq.endCause else none) with
    | some dt, some .overran =>
      (match s.contexts.get? dt.ctx with
       | none => s
       | some c =>
         let s := (s.l1Dies y).foldl (fun s z => s.l1WriteBack z fun _ => true) s
         let full := d.c.logFits
         let head := saveHeader (if full then 1 else 2) 128 d.colLim d.seq.pc (s.ftc y) d.c.panelsUsed
         let writes := d.saveWrites (s.us y) s.free full head
         let s := { s with free := s.free + 3456 }
         match s.writeAreas dt.ctx (c.slotVa dt.slot) writes with
         | .wait s => s.again y .saveComplete
         | .fault _ _ => if s.endsSaved dt.task then s.leaveSaved y dt c else s.failContext y .recFault
         | .ok s => s.leaveSaved y dt c)
    | _, _ => s

/-- Events for the commands a restored context holds. -/
def State.rouse (s : State) (y : Nat) : State :=
  let c := (s.die y).c
  let s := c.matQ.foldl (fun s _ => s.later y .matrixCommandComplete) s
  let s := (s.rouseStream y 0).rouseStream y 1
  let s := c.xchQ0.foldl (fun s _ => s.later y (.exchangeComplete y 0)) s
  c.xchQ1.foldl (fun s _ => s.later y (.exchangeComplete y 1)) s

/-- RESTORE_COMPLETE of die `unit` (10 R266): the context is on the die again; a task whose replay was aborted meanwhile is dropped (06
R153). -/
def execRestoreComplete (s : State) : Host.Outcome State Fault Refusal :=
  dieEvent s <|
    let y := s.unit
    match (s.die y).task with
    | none => s
    | some dt =>
      if s.replayDead dt.task.rid then
        let s := match dt.task.saved with | some id => s.dropSaved id | none => s
        ((s.onDie y Die.vacate).releaseGangs.checkRetire dt.task.rid).settle
      else
      match dt.task.saved.bind fun id => s.saved.find? fun v => v.id == id, s.contexts.get? dt.ctx with
      | some v, some c =>
        let (s, ready) := s.takeMode y
        if !ready then s.again y .restoreComplete else
        (match s.loadSlot dt.ctx (c.slotVa dt.slot) v with
         | .wait s => s.again y .restoreComplete
         | .fault _ _ => ({ s with saved := s.saved.filter fun x => x.id != v.id }).failContext y .recFault
         | .ok (s, img) =>
           let ctxt := img.ctxt
           let d := s.die y
           let now := s.ftc y
           let regrant (h : Shape) : Shape := if h.valid then { h with grant := grantOf h.req 128 d.nextColLim } else h
           let old := ctxt.h
           let h := old.map fun x => (x.1, regrant x.2)
           let ctxt := { ctxt with h, wheel := s.wheelOf c y, lim := max 4096 (min ctxt.lim d.cap) }.turnTimers now
           let ids := (ctxt.matQ ++ ctxt.copyQ0 ++ ctxt.copyQ1 ++ ctxt.xchQ0 ++ ctxt.xchQ1).map fun k => k.id + 1
           let full : Bool := v.kind == .full
           let log := (s.saved.find? fun x => x.id == v.id).map (·.log)
           let s := { s with saved := s.saved.filter fun x => x.id != v.id }.l1DropWt y
           let kept := s.keptRows y fun r => !full && v.ctxt.tileRows.contains r
           let t : DieTask := { dt with task := { dt.task with saved := none }, used := 0, since := some now, started := true }
           let s := s.onDie y fun d =>
             let d := d.mapTags fun r t => if kept r then t else { t with exp := true }
             { d with
               c := ctxt, task := some t, lastCtx := some dt.ctx
               dbgBlock := { d.dbgBlock with pass := none }
               seq := { d.seq.cleared with run := .running, pc := img.pc, nextId := ids.foldl max d.seq.nextId, preempt := d.seq.preempt, memWait := v.memWait
                                           landings := v.landings.map fun l => { l with due := l.due + d.seq.cycle } } }
           let s := s.loadRows y img.rows
           let s := s.writeIf dt.ctx (BitVec.ofNat 72 (c.slotVa dt.slot + logOffset)) (List.replicate 8 0)
           let s := (s.replayLog y (log.getD [])).rouse y
           let s := if t.budget = 0 then s else s.again y .budgetOverrun
           let s := s.again y .taskDispatch
           let s := if (s.die y).seq.preempt then s.again y .preemptionPoint else s
           if h = old then s else s.beginTrap y { cause := .shapeRegrant, faddr := img.pc })
      | _, _ => s

/-! ## Replays (R136, R138) -/

/-- REPLAY_TIMEOUT (R136). -/
def execReplayTimeout (replay : Nat) (s : State) : Host.Outcome State Fault Refusal :=
  event (.replayTimeout replay) s <|
    match s.replay? replay with
    | none => s
    | some r =>
      if r.desc.tmo = 0 ∨ r.aborted.isSome then s
      else if s.ftc 0 < r.accepted + 1000000 * r.desc.tmo then s.again 0 (.replayTimeout replay)
      else s.abort replay { xstat := 4, cause := 0, node := 0xFFFF }

/-- SPILL_DECREMENT (R138): an atomic at the spill word's home. -/
def execSpillDecrement (replay node : Nat) (s : State) : Host.Outcome State Fault Refusal :=
  event (.spillDecrement replay node) s <|
    match s.replay? replay with
    | none => s
    | some r =>
      if r.aborted.isSome then s
      else
        let va := r.spillVa node
        let far : Bool := match s.devAddrs r.ctx va 8 3 with | .ok pas => pas.any fun x => paClass x.1 == 4 | _ => false
        let fails (s : State) : State := s.abort replay { xstat := 6, cause := 0, node }
        let again (s : State) : State := s.later 0 (.spillDecrement replay node)
        let ready (s : State) : State :=
          ((s.onReplay replay fun r => { r with spilled := r.spilled.filter (· != node) }).nodeReady replay node).settle
        if far && !r.spillRead.contains node then
          -- the atomic travels to the word's home (08 Table 8.11), the word is read there once it is acknowledged
          if !r.spilled.contains node then s.abort replay { xstat := 3, cause := 0, node }
          else match s.devAddrs r.ctx va 8 3 with
            | .ok ((pa, _) :: _) =>
              s.sendRequest 0 pa (.spill replay node) 4 (toLE 8 (pa % 2 ^ 42) ++ [4] ++ toLE 7 0 ++ toLE 8 r.number) (some replay)
            | _ => s
        else
          match s.devAddrs r.ctx va 8 3, s.devRead r.ctx va 8, s.nodeBytes r node with
          | .wait pa, _, _ => again (s.fetchRemote 0 pa)
          | .fault _ _, _, _ => fails s
          | _, .wait s, _ => again s
          | _, _, .wait s => again s
          | _, .fault _ _, _ => fails s
          | _, _, .fault _ _ => fails s
          | .ok pas, .ok (_, b), .ok (_, nb) =>
            let total := (nodeOf nb).npred + (nodeOf nb).extra
            if far then
              let s := s.onReplay replay fun r => { r with spillRead := r.spillRead.erase node }
              if !r.spilled.contains node then s
              else if total < field b 0 4 then s.abort replay { xstat := 3, cause := 0, node }
              else if field b 0 4 = total then ready s
              else s
            else if !r.spilled.contains node then s.abort replay { xstat := 3, cause := 0, node }
            else
              let word := spillWord r.number (ofLE b)
              let s := s.homeWrite ((pas.map (·.1)).zip (toLE 8 word))
              if word % 2 ^ 32 = total then ready s else s

end Sys2Proof.Machine
end

