-- ==== Sys2Proof/Machine/Queues.lean ====
section
/-! DEFINITION. Command queues (04 R87 to R94): doorbells, configuration, selection, the form of entries, completions, and the
NOP, SIGNAL and WAIT commands. A command's row acts on the command in progress of the queue it names; where that queue holds no
such command, nothing happens. -/

namespace Sys2Proof.Machine

/-! ## Rings -/

/-- Physical base of queue memory (Table 4.1). -/
def State.queueMem (s : State) : Nat := 2 ^ 52 + (s.pwin.get {} 1).base.toNat * 2 ^ 26
/-- Bytes of queue memory. -/
def queueBytes : Nat := 2 ^ 28
/-- Entries of a queue's rings. -/
def Queue.size (x : Queue) : Nat := 2 ^ max 6 x.log2n.toNat
/-- Whether the ring fits queue memory. -/
def Queue.fits (x : Queue) : Bool := x.off.toNat * 4096 + 64 * x.size ≤ queueBytes
/-- IDLE of QSTAT. -/
def Queue.idle (x : Queue) : Bool := x.head == x.tail && x.cmd.isNone && x.async == 0

/-- The entry at QHEAD. -/
def State.entryAt (s : State) (x : Queue) : List Byte :=
  let at_ := s.queueMem + x.off.toNat * 4096 + 64 * x.head.toNat
  (List.range 64).map fun k => s.homeByte (at_ + k)

/-- Whether the entry at QHEAD is ready to read (R90): its queue may begin its next command by R93, and the completion ring has an
entry for it beside those of the commands outstanding (R92). -/
def State.entryReady (s : State) (q : Nat) : Bool :=
  let x := s.queue q
  x.en && !x.disabling && x.cmd.isNone && x.head != x.tail
    && (x.async == 0 || (s.entryAt x).getD 0 0 != 2) && decide (x.async < x.size)

/-- Note when the entry at QHEAD became ready to read, and look for a queue to serve. -/
def State.queueNews (s : State) (q : Nat) : State :=
  if s.entryReady q then
    (s.onQueue q fun x => { x with readyAt := x.readyAt.or (some (s.ftc 0)) }).again 0 .queueSelect
  else s.onQueue q fun x => { x with readyAt := none }

/-! ## Completions (R92) -/

/-- Write a completion entry; a failed command with HALTERR halts its queue (R91). -/
def State.complete (s : State) (q : Nat) (cid : BitVec 16) (flags : Byte) (status value : Nat) : State :=
  let x := s.queue q
  let entry := toLE 2 cid.toNat ++ toLE 1 status ++ toLE 1 (b2n x.phase) ++ toLE 2 x.head.toNat ++ [0, 0] ++ toLE 8 value
  let s := s.homeWrite (placeAt (3 * 2 ^ 52 + (16 * x.cpl.toNat + 16 * x.cplIdx) % 2 ^ 52) entry)
  let s := s.onQueue q fun x =>
    let wraps : Bool := x.cplIdx + 1 == x.size
    let halts : Bool := flags.getLsbD 3 && decide (16 ≤ status)
    { x with cplIdx := if wraps then 0 else x.cplIdx + 1, phase := if wraps then !x.phase else x.phase
             halted := x.halted || halts
             haltedAt := if halts && !x.halted then some (s.ftc 0) else x.haltedAt }
  if flags.getLsbD 0 then s.raise q else s

/-- The command in progress of queue q no longer holds it: its next may begin, or the queue is disabled. -/
def State.release (s : State) (q : Nat) : State :=
  (s.onQueue q fun x => { x with cmd := none, blocked := false, en := x.en && !x.disabling, disabling := false }).queueNews q

/-- The command in progress of queue q ends with a status and a value. -/
def State.finish (s : State) (q status value : Nat) : State :=
  match (s.queue q).cmd with
  | none => s
  | some c => (s.complete q c.cid c.flags status value).release q

/-- n free bytes, and the state with them drawn. -/
def State.drawBytes (s : State) (n : Nat) : List Byte × State :=
  ((List.range n).map fun k => Config.freeByte (s.free + k), { s with free := s.free + n })

/-- The command in progress of queue q ends with a status for which the spec states no value. -/
def State.fails (s : State) (q status : Nat) : State :=
  let (v, s) := s.drawBytes 8
  s.finish q status (ofLE v)

/-- The command in progress of queue q, where it has an OP. -/
def State.command? (s : State) (q op : Nat) : Option Command := (s.queue q).cmd.filter fun c => c.op.toNat == op

/-- An operand of a command. -/
def Command.arg (c : Command) (lo n : Nat) : Nat := field c.bytes lo n
/-- NOBLOCK and ASYNC. -/
def Command.noBlock (c : Command) : Bool := c.flags.getLsbD 2
def Command.isAsync (c : Command) : Bool := c.flags.getLsbD 1

/-- The command waits, to be tried again by its row. -/
def State.retry (s : State) (q : Nat) (row : Instr) : State := s.again q row

/-- The command blocks its queue (R87 BLOCKED). -/
def State.block (s : State) (q : Nat) : State := s.onQueue q fun x => { x with blocked := true }

/-! ## Entries (R91, Tables 4.6, 4.7) -/

/-- Byte ranges, first and last, of the operands of an OP; none for an OP that is not listed. MGMT's A and B count as operands of
every sub-operation: one that takes none ignores them (DESIGN CHOICE, assumption 58). -/
def operandsOf (op : Nat) : Option (List (Nat × Nat)) :=
  match op with
  | 0 => some []
  | 1 => some [(8, 19)]
  | 2 => some [(8, 23)]
  | 3 => some [(8, 27)]
  | 4 => some [(8, 27)]
  | 5 => some [(8, 11)]
  | 6 => some [(8, 25)]
  | 7 => some [(8, 30)]
  | 8 => some [(8, 8), (16, 31)]
  | 9 => some [(8, 27)]
  | 10 => some [(8, 16), (24, 31)]
  | _ => none

/-- Whether an entry has a reserved bit set, a flag its command does not take, or an unused byte that is not zero. -/
def entryBad (b : List Byte) (used : List (Nat × Nat)) : Bool :=
  let op := field b 0 1
  let flags := field b 1 1
  decide (16 ≤ flags) || ((b.getD 1 0).getLsbD 1 && !(op == 1 || op == 7)) || decide (1024 ≤ field b 4 2) || field b 6 2 != 0
    || ((List.range 56).any fun k => !(used.any fun r => r.1 ≤ k + 8 && k + 8 ≤ r.2) && b.getD (k + 8) 0 != 0)
    || (op == 7 && decide (2 ≤ field b 30 1)) || (op == 10 && decide (2 ≤ field b 16 1))

/-- The row of an entry's command; none where a sub-operation of MGMT or a power state is not listed (05 R118). -/
def commandRow (b : List Byte) : Option Instr :=
  match field b 0 1 with
  | 0 => some .cmdNop
  | 1 => some .launch
  | 2 => some .signal
  | 3 => some .wait
  | 4 => some .loadco
  | 5 => some .freeco
  | 6 => some .patch
  | 7 => some .copy
  | 8 =>
    match field b 8 1 with
    | 1 => some .keyreg
    | 2 => some .keylock
    | 3 => some .codefloor
    | 4 => some .fwupdate
    | 5 => some .svncommit
    | 6 => match field b 24 8 with
      | 1 => some .setpsPs1
      | 2 => some .setpsPs2
      | 3 => some .setpsPs3
      | _ => none
    | 7 => some .mgmtWarmstart
    | 8 => some .mgmtColdstart
    | 9 => some .mgmtNonce
    | 10 => some .mgmtUnlock
    | 11 => some .mgmtLock
    | 12 => some .mgmtFaenter
    | _ => none
  | 9 => some .attest
  | 10 => if (b.getD 16 0).getLsbD 0 then some .ctxsetCreate else some .ctxsetDestroy
  | _ => none

/-- Read the entry at QHEAD of queue q and begin its command. -/
def State.takeEntry (s : State) (q : Nat) : State :=
  let x := s.queue q
  let b := s.entryAt x
  let c : Command := { op := b.getD 0 0, flags := b.getD 1 0, cid := BitVec.ofNat 16 (field b 2 2), ctx := BitVec.ofNat 16 (field b 4 2), bytes := b }
  let s := { s with lastServed := q }.onQueue q fun x =>
    { x with head := BitVec.ofNat 15 ((x.head.toNat + 1) % x.size), readyAt := none, cmd := some c }
  match operandsOf (field b 0 1) with
  | none => s.fails q 0x10
  | some used =>
    match if entryBad b used then none else commandRow b with
    | none => s.fails q 0x11
    | some row => s.later q row

/-! ## Selection (R90) -/

/-- Effective priority of a queue whose entry is ready. -/
def State.queuePrio (s : State) (q : Nat) : Nat :=
  let x := s.queue q
  min 7 (x.prio.toNat + (s.ftc 0 - x.readyAt.getD (s.ftc 0)) / 4000)

/-- QUEUE_SELECT: the highest effective priority, round-robin among equals. -/
def State.queueSelect (s : State) : State :=
  if s.trust.ps ≠ 0 ∨ s.trust.start ≠ 0 then s
  else
    let order := (List.range 64).map fun k => (s.lastServed + 1 + k) % 64
    let ready := order.filter fun q => s.entryReady q && !(s.queue q).halted
    let best := (ready.map s.queuePrio).foldl max 0
    match ready.find? fun q => s.queuePrio q == best with
    | none => s
    | some q => (s.takeEntry q).again 0 .queueSelect

def execQueueSelect (s : State) : Host.Outcome State Fault Refusal := event .queueSelect s s.queueSelect

/-! ## Doorbells and QCTL (R88, R89) -/

/-- Column of units of a power-up (01 Table 1.4): sixteen dies with eight column groups each, the board ports, the lasers. -/
def staggerBoard : Nat := 144
/-- One past the last unit. -/
def staggerEnd : Nat := 257

/-- A doorbell to an enabled queue begins the exit from PS1 or PS2 (05 Table 5.7). -/
def State.beginExit (s : State) : State :=
  if (s.trust.ps = 1 ∨ s.trust.ps = 2) ∧ !s.trust.psExit then
    s.onTrust fun t => { t with psExit := true, stagger := if t.ps = 2 then some 0 else t.stagger }
  else s

/-- DOORBELL. -/
def execDoorbell (q : Nat) (v : BitVec 32) (s : State) : Host.Outcome State Fault Refusal :=
  event (.doorbell q v) s <|
    let x := s.queue q
    if !x.en then s.onQueue q fun x => { x with dberr := true }
    else
      let s := s.beginExit
      if x.size ≤ v.toNat then s.onQueue q fun x => { x with dberr := true }
      else (s.onQueue q fun x => { x with tail := v.setWidth 15 }).queueNews q

/-- QCTL_WRITE. A write of EN = 1 while a disable still waits for the command in progress leaves the disable pending (DESIGN CHOICE,
assumption 58). -/
def execQctlWrite (q : Nat) (v : W64) (s : State) : Host.Outcome State Fault Refusal :=
  event (.qctlWrite q v) s <|
    let x := s.queue q
    let en := v.getLsbD 0
    let prio := v.extractLsb' 1 3
    let log2n := v.extractLsb' 4 4
    if x.en then
      let x := { x with cfgrej := x.cfgrej || prio != x.prio || log2n != x.log2n }
      let x := if en then x else if x.cmd.isSome then { x with disabling := true } else { x with en := false }
      (s.onQueue q fun _ => x).queueNews q
    else
      let x := { x with prio, log2n }
      if !en then s.onQueue q fun _ => x
      else if !x.fits || x.cpl == 0 then s.onQueue q fun _ => { x with cfgrej := true }
      else s.onQueue q fun _ => { x with en := true, head := 0, tail := 0, phase := true, cplIdx := 0 }

/-- QSTAT_HALTED_RESUME: time it was halted does not count as waiting (R90). -/
def execQstatHaltedResume (s : State) : Host.Outcome State Fault Refusal :=
  queueEvent s <|
    (s.onQueue s.unit fun x =>
      if x.halted then
        { x with halted := false, haltedAt := none
                 readyAt := match x.readyAt, x.haltedAt with
                            | some r, some h => some (r + (s.ftc 0 - max r h))
                            | r, _ => r }
      else x).queueNews s.unit

/-! ## NOP, SIGNAL and WAIT (R91, R94) -/

/-- CMD_NOP. -/
def execCmdNop (s : State) : Host.Outcome State Fault Refusal :=
  queueEvent s <| if (s.command? s.unit 0).isSome then s.finish s.unit 0 0 else s

/-- The checks of a sync word's command that come before its access: the status that ends it. -/
def State.syncBad (s : State) (c : Command) : Option Nat :=
  if (s.contexts.get? c.ctx.toNat).isNone then some 0x12
  else if c.arg 8 8 % 8 ≠ 0 then some 0x11
  else none

/-- SIGNAL: a SYSTEM-scope release at the word's home; it orders what came before it because it began after it (R93). -/
def execSignal (s : State) : Host.Outcome State Fault Refusal :=
  queueEvent s <|
    match s.command? s.unit 2 with
    | none => s
    | some c =>
      match s.syncBad c with
      | some st => s.finish s.unit st 0
      | none =>
        match s.devWrite c.ctx.toNat (c.arg 8 8) (toLE 8 (c.arg 16 8)) with
        | .wait s => s.retry s.unit .signal
        | .fault _ _ => s.finish s.unit 0x11 0
        | .ok s => s.finish s.unit 0 0

/-- Read a sync word afresh: a remote line's copy serves one reading. -/
def State.syncRead (s : State) (c : Command) : Got (State × Nat) :=
  match s.devRead c.ctx.toNat (c.arg 8 8) 8 with
  | .wait s => .wait s
  | .fault x a => .fault x a
  | .ok (s, b) =>
    let s := match s.devAddrs c.ctx.toNat (c.arg 8 8) 1 1 with
      | .ok ((pa, _) :: _) => if paClass pa = 4 then s.dropCopies (· == lineOf pa) else s
      | _ => s
    .ok (s, ofLE b)

/-- WAIT: it reads the word until it is large enough, then acts as a SYSTEM-scope acquire. -/
def execWait (s : State) : Host.Outcome State Fault Refusal :=
  queueEvent s <|
    match s.command? s.unit 3 with
    | none => s
    | some c =>
      match s.syncBad c with
      | some st => s.fails s.unit st
      | none =>
        match s.syncRead c with
        | .wait s => s.retry s.unit .wait
        | .fault _ _ => s.fails s.unit 0x11
        | .ok (s, v) =>
          if c.arg 16 8 ≤ v then (s.dropCopies fun _ => true).finish s.unit 0 v
          else if c.noBlock then s.finish s.unit 2 v
          else
            let begins : Bool := c.since.isNone
            let s := (s.block s.unit).onQueue s.unit fun x => { x with cmd := some { c with since := c.since.or (some (s.ftc 0)) } }
            let s := if begins && c.arg 24 4 != 0 then s.later s.unit .waitTimeout else s
            s.retry s.unit .wait

/-- WAIT_TIMEOUT. -/
def execWaitTimeout (s : State) : Host.Outcome State Fault Refusal :=
  queueEvent s <|
    match s.command? s.unit 3 with
    | none => s
    | some c =>
      match c.since with
      | none => s
      | some t =>
        if c.arg 24 4 = 0 then s
        else if s.ftc 0 < t + 1000 * c.arg 24 4 then s.again s.unit .waitTimeout
        else
          match s.syncRead c with
          | .ok (s, v) => s.finish s.unit 3 v
          | .wait s => s.fails s.unit 3
          | .fault _ _ => s.fails s.unit 3

end Sys2Proof.Machine
end

