-- ==== Sys2Proof/Machine/Launch.lean ====
section
/-! DEFINITION. Contexts, launches, replays and parameter versions (04 R95, R104, R105, 06 R131 to R137). -/

namespace Sys2Proof.Machine

/-! ## Contexts (04 R95) -/

/-- A binding block (Table 4.13) with its page table root. -/
def contextOf (root : Nat) (b : List Byte) : Context :=
  { root, scm := BitVec.ofNat 14 (field b 0 2), lxor := BitVec.ofNat 14 (field b 2 2), lperm := BitVec.ofNat 56 (field b 4 7)
    anchor := BitVec.ofNat 14 (field b 12 2), wbase := b.getD 16 0, wstep := b.getD 17 0, wcount := BitVec.ofNat 16 (field b 18 2)
    savebase := BitVec.ofNat 64 (field b 40 8), saven := field b 48 2, xkey := b.getD 50 0, arenava := BitVec.ofNat 64 (field b 56 8) }

/-- Whether CTXSET refuses a binding block. -/
def State.bindingBad (s : State) (b : List Byte) : Bool :=
  let c := contextOf 0 b
  let zero (at_ n : Nat) : Bool := field b at_ n == 0
  decide (2 ^ 14 ≤ field b 0 2) || decide (2 ^ 14 ≤ field b 2 2) || decide (2 ^ 14 ≤ field b 12 2) || !zero 11 1 || !zero 14 2
    || !zero 20 20 || !zero 51 5
    || !subcubeValid c.scm.toNat c.lxor.toNat c.lperm.toNat || (s.eligibleDies c).isEmpty
    || c.savebase.toNat % 2 ^ 27 != 0 || decide (c.saven = 0 ∨ 256 < c.saven) || c.arenava.toNat % 2 ^ 26 != 0

/-- CTXSET_CREATE. A block that cannot be read completes BADARG. The numbers of a key that no other context holds restart
(18 R459). -/
def execCtxsetCreate (s : State) : Host.Outcome State Fault Refusal :=
  queueEvent s <|
    match s.command? s.unit 10 with
    | none => s
    | some c =>
      let n := c.ctx.toNat
      let at_ := c.arg 24 8
      let pas := (List.range 64).map (at_ + ·)
      if (s.contexts.get? n).isSome then s.finish s.unit 0x12 0
      else if 4 ≤ at_ / 2 ^ 52 ∨ at_ % 64 ≠ 0 ∨ !(pas.all s.mapped) ∨ s.poisoned at_ then s.finish s.unit 0x11 0
      else
        let b := pas.map s.homeByte
        if s.bindingBad b then s.finish s.unit 0x12 0
        else
          let x := contextOf (c.arg 8 8) b
          let held : Bool := s.contexts.any fun y => y.2.xkey == x.xkey
          if !held && 16 ≤ (distinct (s.contexts.map fun y => y.2.xkey.toNat)).length then s.finish s.unit 0x17 0
          else
          let s := { s with contexts := s.contexts.set n x }
          let s := if held then s else (List.range 16).foldl (fun s y => s.onDie y fun d => d.onFab fun f =>
              let other (k : Nat) : Bool := k / 32 != x.xkey.toNat
              { f with sseq := f.sseq.keep other, rseq := f.rseq.keep other }) s
          s.finish s.unit 0 0

/-- CTXSET_DESTROY: its translations are no longer held. -/
def execCtxsetDestroy (s : State) : Host.Outcome State Fault Refusal :=
  queueEvent s <|
    match s.command? s.unit 10 with
    | none => s
    | some c =>
      let n := c.ctx.toNat
      if (s.contexts.get? n).isNone then s.finish s.unit 0x12 0
      else if s.replays.any fun r => r.ctx == n then s.finish s.unit 0x19 0
      else
        let s := { s with contexts := s.contexts.erase n, graphs := s.graphs.filter fun g => g.ctx != n }
        let s := (List.range 16).foldl (fun s y => s.onDie y fun d =>
          { d with tlb := d.tlb.filter fun e => e.ctx != n, lastCtx := if d.lastCtx = some n then none else d.lastCtx }) s
        s.finish s.unit 0 0

/-! ## Graph state (06 Table 6.1, bytes 127:64) -/

/-- The state of the graph at an address. -/
def State.graph (s : State) (ctx va : Nat) : GraphState := (s.graphs.find? fun g => g.ctx == ctx && g.va == va).getD { ctx, va }
/-- Give a graph its state. -/
def State.setGraph (s : State) (g : GraphState) : State :=
  { s with graphs := s.graphs.filter (fun x => !(x.ctx == g.ctx && x.va == g.va)) ++ [g] }

/-- The device's half of a descriptor, as the scheduler's own access to it finds it. -/
def State.graphOpen (s : State) (ctx va : Nat) : Addrs := s.devAddrs ctx (va + 64) 64 2

/-- Abort a replay for a fault of the scheduler's own access to the graph descriptor (06 R136). No node is at fault: XNODE is 0xFFFF
(DESIGN CHOICE, assumption 49). -/
def State.descFault (s : State) (rid : Nat) : State := s.abort rid { xstat := 6, cause := 0, node := 0xFFFF }

/-- Give a graph its state, and write what the device keeps of it in the descriptor: free values, since the spec gives them no
layout. -/
def State.keepGraph (s : State) (g : GraphState) : State :=
  let g := { g with image := some s.free }
  let (b, s) := s.drawBytes 64
  let s := s.setGraph g
  match s.devWrite g.ctx (g.va + 64) b with
  | .ok s => s
  | _ => s

/-- Whether the host has zeroed the device's bytes since the device wrote them, with no replay of the graph unretired (R131). -/
def State.graphZeroed (s : State) (g : GraphState) (b : List Byte) : Bool :=
  match g.image with
  | none => false
  | some k => !(s.replays.any fun r => r.ctx == g.ctx && r.graph == g.va)
      && b.all (· == 0) && b != (List.range 64).map fun j => Config.freeByte (k + j)

/-- Read a descriptor: its host half, and the graph's state as it stands. -/
def State.descRead (s : State) (ctx va : Nat) : Got (State × List Byte × GraphState) :=
  match s.devRead ctx va 128 with
  | .wait s => .wait s
  | .fault c a => .fault c a
  | .ok (s, b) =>
    let g := s.graph ctx va
    .ok (s, b.take 64, if s.graphZeroed g (b.drop 64) then { ctx, va } else g)

/-- The version slot a graph's current version stands in, and the other. -/
def GraphState.slot (g : GraphState) (d : GraphDesc) : Nat := if g.cur = 0 then d.ver0 else d.ver1
def GraphState.other (g : GraphState) (d : GraphDesc) : Nat := if g.cur = 0 then d.ver1 else d.ver0

/-! ## LAUNCH (R133, R134) -/

/-- LAUNCH: the checks; acceptance follows. -/
def execLaunch (s : State) : Host.Outcome State Fault Refusal :=
  queueEvent s <|
    match s.command? s.unit 1 with
    | none => s
    | some c =>
      if (s.contexts.get? c.ctx.toNat).isNone then s.fails s.unit 0x12
      else if (s.objects.get? (c.arg 16 4)).isNone ∨ c.arg 8 8 % 128 ≠ 0 then s.fails s.unit 0x11
      else
        match s.descRead c.ctx.toNat (c.arg 8 8) with
        | .wait s => s.retry s.unit .launch
        | .fault _ _ => s.fails s.unit 0x11
        | .ok (s, b, _) => if descBad b then s.fails s.unit 0x11 else s.later s.unit .replayAccept

/-- NPRED + EXTRA of each node, or the node whose record cannot be read (R137). -/
def State.startCounts (ctx base : Nat) : Nat → Nat → State → List Nat → Got (State × List Nat × Option Nat)
  | 0, _, s, acc => .ok (s, acc.reverse, none)
  | fuel + 1, n, s, acc =>
    match s.devRead ctx ((base + 128 * n) % 2 ^ 72) 128 with
    | .wait s => .wait s
    | .fault _ _ => .ok (s, acc.reverse, some n)
    | .ok (s, b) => State.startCounts ctx base fuel (n + 1) s ((field b 8 2 + field b 7 1) :: acc)

/-- The nodes of a count list that take a hardware counter, with their counts, and those that use spill words (R138). -/
def counters (free : Nat) (counts : List Nat) : FMap Nat × List Nat :=
  let waiting := counts.zipIdx.filter fun x => x.1 != 0
  ((waiting.take free).map fun x => (x.2, x.1), (waiting.drop free).map (·.2))

/-- REPLAY_ACCEPT: with a replay slot and a spill region free, the replay begins; else its queue is held. -/
def execReplayAccept (s : State) : Host.Outcome State Fault Refusal :=
  queueEvent s <|
    match s.command? s.unit 1 with
    | none => s
    | some c =>
      let ctx := c.ctx.toNat
      let va := c.arg 8 8
      -- what its LAUNCH checked may have gone while it was held (04 R103)
      if (s.contexts.get? ctx).isNone then s.fails s.unit 0x12
      else if (s.objects.get? (c.arg 16 4)).isNone then s.fails s.unit 0x11
      else
        match s.descRead ctx va with
        | .wait s => s.retry s.unit .replayAccept
        | .fault _ _ => s.fails s.unit 0x11
        | .ok (s, b, g) =>
          let d := descOf b
          match if s.replays.length < 256 then (List.range d.rslots).find? fun k => !g.regions.contains k else none with
          | none => s.block s.unit
          | some region =>
            match State.startCounts ctx d.nodeBase d.nodes 0 s [] with
            | .wait s => s.retry s.unit .replayAccept
            | .fault _ _ => s.fails s.unit 0x11
            | .ok (s, counts, bad) =>
            match s.graphOpen ctx va with
            | .wait pa => (s.fetchRemote 0 pa).retry s.unit .replayAccept
            | kept =>
              let (hw, spilled) := counters (4096 - s.countersUsed) counts
              let rid := s.nextRid
              let r : Replay :=
                { rid, ctx, graph := va, number := g.nextReplay, slotVa := g.slot d, region
                  handle := c.arg 16 4, prio := (s.queue s.unit).prio.toNat, queue := s.unit, cid := c.cid, flags := c.flags
                  accepted := s.ftc 0, desc := d, hw, spilled }
              let q := s.unit
              let s := { s with nextRid := rid + 1, replays := s.replays ++ [r] }
              let s := s.keepGraph { g with nextReplay := (g.nextReplay + 1) % 2 ^ 32, regions := region :: g.regions }
              let s := if d.tmo = 0 then s else s.later 0 (.replayTimeout rid)
              let s := (counts.zipIdx.filter fun x => x.1 == 0).foldl (fun s x => s.nodeReady rid x.2) s
              let s := match bad with
                | some n => s.abort rid { xstat := 6, cause := 0, node := n }
                | none => s
              let s := match kept with | .fault _ _ => s.descFault rid | _ => s
              let s := if c.isAsync then s.finish q 0 r.number else s.onQueue q fun x => { x with blocked := false }
              s.settle

/-! ## Retirement (R135) -/

/-- Commands held for a replay to retire are tried again. -/
def State.retryHeld (s : State) : State :=
  (List.range 64).foldl (fun s q =>
    let x := s.queue q
    match x.blocked, x.cmd with
    | true, some c => match c.op.toNat with
      | 1 => s.again q .replayAccept
      | 6 => s.again q .patch
      | _ => s
    | _, _ => s) s

/-- The done area's bytes (Table 6.4). -/
def GraphState.doneBytes (g : GraphState) : List Byte :=
  toLE 8 g.retired ++ toLE 8 g.abortedN ++ toLE 4 g.xrep ++ toLE 1 g.xstat ++ toLE 1 g.xcause ++ toLE 2 g.xnode ++ toLE 8 0

/-- The graph's counts with one more replay retired. -/
def GraphState.count (g : GraphState) (r : Replay) : GraphState :=
  match r.aborted with
  | none => { g with retired := g.retired + 1 }
  | some x => { g with retired := g.retired + 1, abortedN := g.abortedN + 1, xrep := r.number, xstat := x.xstat, xcause := x.cause, xnode := x.node }

/-- Write the done area of a replay that retires: counted once, and whether it could be written. -/
def State.writeDone (s : State) (r : Replay) : Got State :=
  let g := (s.graph r.ctx r.graph).count r
  match s.devAddrs r.ctx r.desc.doneVa 32 2 with
  | .wait pa => .wait (s.fetchRemote 0 pa)
  | .fault _ _ => .ok ((s.keepGraph g).onReplay r.rid fun r => { r with doneOk := some false })
  | .ok pas =>
    let bad : Bool := pas.any fun x => s.poisoned x.1
    let s := s.keepGraph g
    if bad then .ok (s.onReplay r.rid fun r => { r with doneOk := some false })
    else
      let (far, near) := ((pas.map (·.1)).zip g.doneBytes).partition fun w => paClass w.1 == 4
      let s := s.homeWrite near
      let s := if far.isEmpty then s else s.sendWrites 0 (.done r.rid) far 0 0
      .ok (s.onReplay r.rid fun r => { r with doneOk := some true })

/-- The replay is gone: its region, counters and version are free, and its launch completes. -/
def State.dropReplay (s : State) (r : Replay) : State :=
  let s := { s with replays := s.replays.filter fun x => x.rid != r.rid }
  let g := s.graph r.ctx r.graph
  let s := s.setGraph { g with regions := g.regions.filter (· != r.region) }
  let s := if r.flags.getLsbD 1 then s else s.finish r.queue (if r.doneOk = some true then 0 else 0x18) r.number
  s.retryHeld.settle

/-- Whether a write the replay's tasks made to another package, or one of its done area, is not acknowledged; bytes an L1 writes back
there carry no task's name, and all of them count (R135, 09 R235). -/
def State.writesOut (s : State) (rid : Nat) : Bool :=
  (List.range 16).any fun y => (s.die y).fab.requests.any fun r =>
    match r.waiter with
    | .store id => id == 0 || r.rid == some rid
    | .tile _ | .atomic _ => r.rid == some rid
    | .gone writes => writes && r.rid == some rid
    | .done x => x == rid
    | _ => false

/-- Whether a replay is to retire (R135): every node has completed, or it is aborted and drained. -/
def State.retires (s : State) (r : Replay) : Bool := r.completed = r.desc.nodes || (r.aborted.isSome && !s.draining r.rid)

/-- REPLAY_RETIRE: the done area is written, a release at SYSTEM scope. -/
def execReplayRetire (replay : Nat) (s : State) : Host.Outcome State Fault Refusal :=
  event (.replayRetire replay) s <|
    let again (s : State) : State := s.again 0 (.replayRetire replay)
    match s.replay? replay with
    | none => s
    | some r =>
      if !s.retires r then s
      else
        match s.graphOpen r.ctx r.graph with
        | .wait pa => again (s.fetchRemote 0 pa)
        | kept =>
          let s := match kept with | .fault _ _ => if r.doneOk.isNone && r.aborted.isNone then s.descFault replay else s | _ => s
          let r := (s.replay? replay).getD r
          match if r.doneOk.isSome then Got.ok s else s.writeDone r with
          | .wait s => again s
          | .fault _ _ => s
          | .ok s =>
            if s.writesOut replay then again s
            else match s.replay? replay with
              | some r => s.dropReplay r
              | none => s

/-! ## PATCH (04 R104, R105) -/

/-- The entries of a patch list as (offset in the parameter area, value); none where one is out of range. -/
def State.patchesOf (ctx : Nat) (d : GraphDesc) : List (List Byte) → State → Got (State × Option (List (Nat × Nat)))
  | [], s => .ok (s, some [])
  | e :: r, s =>
    let n := field e 0 2
    let off := field e 2 2
    if d.nodes ≤ n ∨ off % 8 ≠ 0 ∨ field e 4 4 ≠ 0 then .ok (s, none)
    else
      match s.devRead ctx ((d.nodeBase + 128 * n) % 2 ^ 72) 128 with
      | .wait s => .wait s
      | .fault _ _ => .ok (s, none)
      | .ok (s, b) =>
        let at_ := (nodeOf b).param + off
        if d.psize < at_ + 8 then .ok (s, none)
        else
          match State.patchesOf ctx d r s with
          | .wait s => .wait s
          | .fault c a => .fault c a
          | .ok (s, none) => .ok (s, none)
          | .ok (s, some ps) => .ok (s, some ((at_, field e 8 8) :: ps))

/-- Cut a list into pieces of 16 bytes. -/
def sixteens : Nat → List Byte → List (List Byte)
  | 0, _ => []
  | n + 1, b => b.take 16 :: sixteens n (b.drop 16)

/-- A version's bytes with a list of patches applied in order. -/
def patched (b : List Byte) (ps : List (Nat × Nat)) : List Byte :=
  ps.foldl (fun b p => b.take p.1 ++ toLE 8 p.2 ++ b.drop (p.1 + 8)) b

/-- Apply a patch list: in place, in a new version, or not now (none). -/
def State.applyPatch (s : State) (d : GraphDesc) (g : GraphState) (ps : List (Nat × Nat)) : Got (State × Option Nat) :=
  let bound (slot : Nat) : Bool := s.replays.any fun r => r.ctx == g.ctx && r.graph == g.va && r.slotVa == slot
  let slot := if !bound (g.slot d) then some (g.slot d, g.cur) else if !bound (g.other d) then some (g.other d, 1 - g.cur) else none
  match slot with
  | none => .ok (s, none)
  | some (slot, cur) =>
    match s.graphOpen g.ctx g.va with
    | .wait pa => .wait (s.fetchRemote 0 pa)
    | .fault c a => .fault c a
    | .ok _ =>
    match if d.psize = 0 then Got.ok (s, []) else s.devRead g.ctx (g.slot d) d.psize with
    | .wait s => .wait s
    | .fault c a => .fault c a
    | .ok (s, b) =>
      match if d.psize = 0 then Got.ok s else s.devWrite g.ctx slot (patched b ps) with
      | .wait s => .wait s
      | .fault c a => .fault c a
      | .ok s => .ok (s.keepGraph { g with cur, number := g.next, next := g.next + 1 }, some g.next)

/-- PATCH. -/
def execPatch (s : State) : Host.Outcome State Fault Refusal :=
  queueEvent s <|
    match s.command? s.unit 6 with
    | none => s
    | some c =>
      let ctx := c.ctx.toNat
      let n := c.arg 24 2
      if (s.contexts.get? ctx).isNone then s.fails s.unit 0x12
      else if n = 0 ∨ 4096 < n ∨ c.arg 8 8 % 128 ≠ 0 then s.fails s.unit 0x11
      else
        match s.descRead ctx (c.arg 8 8), s.devRead ctx (c.arg 16 8) (16 * n) with
        | .wait s, _ => s.retry s.unit .patch
        | _, .wait s => s.retry s.unit .patch
        | .fault _ _, _ => s.fails s.unit 0x11
        | _, .fault _ _ => s.fails s.unit 0x11
        | .ok (_, b, g), .ok (s, list) =>
          let d := descOf b
          if descBad b then s.fails s.unit 0x11
          else
            match State.patchesOf ctx d (sixteens n list) s with
            | .wait s => s.retry s.unit .patch
            | .fault _ _ => s.fails s.unit 0x11
            | .ok (s, none) => s.fails s.unit 0x11
            | .ok (s, some ps) =>
              match s.applyPatch d g ps with
              | .wait s => s.retry s.unit .patch
              | .fault _ _ => s.fails s.unit 0x11
              | .ok (s, some v) => s.finish s.unit 0 v
              | .ok (s, none) => if c.noBlock then s.fails s.unit 2 else s.block s.unit

end Sys2Proof.Machine
end

