-- ==== Sys2Proof/Machine/HostCopy.lean ====
section
/-! DEFINITION. Host copies (04 R96, R97, 06 R141): COPY commands and COPY nodes, run by base die 0's copy engine a 64 KiB chunk
at a time; the fault ring's resumes (04 Table 4.9, 10 R258, R259). -/

namespace Sys2Proof.Machine

/-! ## COPY (R96) -/

/-- COPY: accepted into its class. -/
def execCopy (s : State) : Host.Outcome State Fault Refusal :=
  queueEvent s <|
    match s.command? s.unit 7 with
    | none => s
    | some c =>
      if s.hostCopies.any fun x => x.queue == some (s.unit, c.cid, c.flags) && !c.isAsync then s
      else
        let phys : Bool := c.arg 30 1 == 1
        let src := c.arg 8 8
        let dst := c.arg 16 8
        let len := c.arg 24 6
        let named (a : Nat) : Bool := decide (a < 15 * 2 ^ 52) && decide (a + len ≤ 15 * 2 ^ 52)
        if !phys && (s.contexts.get? c.ctx.toNat).isNone then s.fails s.unit 0x12
        else if len = 0 ∨ 2 ^ 40 < len ∨ (phys ∧ !(named src && named dst)) then s.fails s.unit 0x11
        else
          match s.copyIsPool c.ctx.toNat phys src with
          | .wait s => s.retry s.unit .copy
          | .fault _ _ => s.fails s.unit 0x11
          | .ok pool =>
            let s := s.addCopy { ctx := c.ctx.toNat, phys, src, dst, len, pool, queue := some (s.unit, c.cid, c.flags), node := none }
            if c.isAsync then (s.onQueue s.unit fun q => { q with async := q.async + 1 }).release s.unit else s

/-! ## The engine (R96, R97) -/

/-- Physical addresses of n bytes of a copy. -/
def State.hostAddrs (s : State) (c : HostCopy) (a n need : Nat) : Addrs :=
  if c.phys then
    let pas := (List.range n).map (a + ·)
    if pas.all s.mapped then .ok (pas.map fun pa => (pa, 0)) else .fault .badAddr (BitVec.ofNat 72 a)
  else s.devAddrs c.ctx (a % 2 ^ 72) n need

/-- What a try at a copy's next chunk comes to. -/
inductive ChunkEnd where
  | wait (s : State)
  | wrote (s : State) (n far : Nat)
  | park (s : State) (va : W72) (w : Nat)
  | fail (s : State) (c : Cause)

/-- The next chunk of a copy: up to the next 64 KiB boundary of its source or its destination. A chunk that faults writes
nothing. -/
def State.hostChunk (s : State) (c : HostCopy) : ChunkEnd :=
  let a := c.src + c.done
  let b := c.dst + c.done
  let n := min (c.len - c.done) (min (2 ^ 16 - a % 2 ^ 16) (2 ^ 16 - b % 2 ^ 16))
  match s.hostAddrs c a n 1, s.hostAddrs c b n 2 with
  | .wait pa, _ => .wait (s.fetchRemote 0 pa)
  | .fault x va, _ => if x = .page then .park s va 0 else .fail s x
  | _, .wait pa => .wait (s.fetchRemote 0 pa)
  | _, .fault x va => if x = .page then .park s va 1 else .fail s x
  | .ok from_, .ok dest =>
    match from_.find? fun x => s.poisoned x.1, from_.find? fun x => s.absent x.1 with
    | some _, _ => .fail s .poison
    | none, some x => if s.lineLost x.1 then .fail s .noreach else .wait (s.fetchRemote 0 x.1)
    | none, none =>
      let ws := (dest.map (·.1)).zip (from_.map fun x => s.homeByte x.1)
      let (far, near) := ws.partition fun w => paClass w.1 == 4
      let s := s.homeWrite near
      .wrote (if far.isEmpty then s else s.sendWrites 0 (.host c.pool) far 0 0) n far.length

/-- Rank of a COPY node among its class (06 R141). -/
def State.copyRank (s : State) (c : HostCopy) : List Nat :=
  match c.node with
  | some (rid, n) =>
    match s.replay? rid with
    | some r =>
      let base := match r.flights.get? n with | some fl => if fl.node.prioset then fl.node.prio else r.prio | none => r.prio
      [7 - min 7 (base + (s.ftc 0 - c.ready) / 4000), c.ready, r.number, n]
    | none => []
  | none => []

/-- The copy of a class that has the engine, or takes it next; behind the fetch of a cold page of the class none does (R101). -/
def State.headCopy (s : State) (pool : Bool) : Option HostCopy :=
  let mine := s.hostCopies.filter fun c => c.pool == pool
  match mine.find? fun c => c.begun with
  | some c => some c
  | none =>
    match mine.filter fun c => s.coldFetches.all fun f => f.pool != pool || decide (c.id < f.place) with
    | [] => none
    | c :: _ =>
      if c.node.isNone then some c
      else (mine.filter fun x => x.node.isSome && s.coldFetches.all fun f => f.pool != pool || decide (x.id < f.place)).foldl (fun m x =>
        match m with
        | some y => if keyLt (s.copyRank x) (s.copyRank y) then some x else m
        | none => some x) none

/-- Replace a copy. -/
def State.putCopy (s : State) (c d : HostCopy) : State := { s with hostCopies := s.hostCopies.map fun x => if x.id = c.id then d else x }
/-- Remove a copy. -/
def State.dropCopy (s : State) (c : HostCopy) : State := { s with hostCopies := s.hostCopies.filter fun x => x.id != c.id }

/-- A copy ends: with all its bytes, or with a fault that ends it with XFAULT. -/
def State.endCopy (s : State) (c : HostCopy) (cause : Option Cause) : State :=
  let st := match cause with | none => 0 | some _ => 0x18
  match c.queue, c.node with
  | some (q, cid, flags), _ =>
    let s := s.dropCopy c
    if flags.getLsbD 1 then
      ((s.complete q cid flags st c.done).onQueue q fun x => { x with async := x.async - 1 }).queueNews q
    else s.finish q st c.done
  | none, some (rid, n) =>
    match s.replay? rid with
    | none => s.dropCopy c
    | some r =>
      if r.aborted.isSome then
        -- one that ends without a fault completes, and gives its kernel boundary (06 R152, 09 R234)
        let s := if cause.isNone then s.kernelBoundary else s
        (s.dropCopy c).checkRetire rid
      else
        match cause, r.flights.get? n with
        | none, some fl =>
          match s.completeNode rid n fl.node with
          | .ok s => (s.dropCopy c).settle
          | .wait s => s
          | .fault _ _ => s.dropCopy c
        | some x, some fl =>
          if c.reruns < fl.node.retry ∧ rerunnable x 2 then
            s.putCopy c { c with reruns := c.reruns + 1, done := 0, sent := 0, begun := false, lost := false }
          else ((s.dropCopy c).abort rid { xstat := 1, cause := x.code, node := n }).checkRetire rid
        | _, none => s.dropCopy c
  | none, none => s.dropCopy c

/-- A replayable fault parks a copy (R97). -/
def State.parkHost (s : State) (c : HostCopy) (va : W72) (w : Nat) : State :=
  let (src, id) := match c.queue, c.node with
    | some (q, cid, _), _ => (q, cid.toNat)
    | none, some (rid, _) => (match s.replay? rid with | some r => (r.queue, r.cid.toNat) | none => (0, 0))
    | none, none => (0, 0)
  let (s, ix) := s.ringAdd (faultRecord c.ctx 0 w va src id 0)
  s.putCopy c { c with parked := some ix, begun := true }

/-- Carry a class's copy on by a chunk. -/
def State.hostStep (s : State) (pool : Bool) : State :=
  let s := s.dropDead
  match s.headCopy pool with
  | none => s
  | some c =>
    if c.parked.isSome then s
    else
      let again (s : State) : State := if (s.headCopy pool).isSome then s.again 0 (.hostCopyComplete pool) else s
      if c.lost then again (s.endCopy c (some .noreach))
      else if (s.die 0).fab.requests.any fun r => r.waiter == .host pool then again s
      else
        let d := { c with done := c.done + c.sent, sent := 0, begun := true }
        let s := s.putCopy c d
        if d.len ≤ d.done then again (s.endCopy d none)
        else
          match s.hostChunk d with
          | .wait s => again s
          | .park s va w => s.parkHost d va w
          | .fail s x => again (s.endCopy d (some x))
          | .wrote s n far =>
            if far = 0 then
              let e := { d with done := d.done + n }
              let s := s.putCopy d e
              again (if e.len ≤ e.done then s.endCopy e none else s)
            else again (s.putCopy d { d with sent := n })

/-- HOST_COPY_COMPLETE. -/
def execHostCopyComplete (pool : Bool) (s : State) : Host.Outcome State Fault Refusal :=
  event (.hostCopyComplete pool) s (s.hostStep pool)

/-! ## Resumes (R97, 10 R258, R259) -/

/-- Whether a RESUME of an index names a record that is in the ring, not one that waits for room there. -/
def State.resumes (s : State) (ix : Nat) (parked : Option Nat) : Bool :=
  match parked with
  | some k => k % 4096 == ix && decide (k < s.fqCount)
  | none => false

/-- Commands parked with a record go on. -/
def Ctxt.resume (c : Ctxt) (hit : Option Nat → Bool) : Ctxt :=
  let f (k : Cmd) : Cmd := if hit k.parked then { k with parked := none } else k
  { c with copyQ0 := c.copyQ0.map f, copyQ1 := c.copyQ1.map f }

/-- The task on die y goes on after a record was resumed; one of an aborted replay is dropped (06 R153). -/
def State.resumeDie (s : State) (y ix : Nat) : State :=
  let d := s.die y
  let hit (p : Option Nat) : Bool := s.resumes ix p
  let on0 := d.c.copyQ0.any fun k => hit k.parked
  let on1 := d.c.copyQ1.any fun k => hit k.parked
  let dead : Bool := match d.task with
    | some t => s.replayDead t.task.rid
    | none => false
  let s := if (on0 || on1) && dead && s.stallsParked y then s.failContext y .page else s
  let s := if on0 || on1 then s.onDie y fun d => d.onC fun c => c.resume hit else s
  let s := if on0 then s.rouseStream y 0 else s
  let s := if on1 then s.rouseStream y 1 else s
  let mine (p : Option Preload) : Bool := match p with | some p => hit p.parked | none => false
  let free (p : Preload) : Preload := if hit p.parked then { p with parked := none } else p
  if mine d.load && dead then (s.onDie y Die.dropLoad).failContext y .page
  else if mine d.load || mine d.preload then
    (s.onDie y fun d => { d with preload := d.preload.map free, load := d.load.map free }).again y .taskDispatch
  else s

/-- What is parked with the record of index `ix` retries. -/
def State.resumeRecord (s : State) (ix : Nat) : State :=
  let hit (p : Option Nat) : Bool := s.resumes ix p
  let classes := (s.hostCopies.filter fun c => hit c.parked).map (·.pool)
  let t := { s with
    hostCopies := s.hostCopies.map fun (c : HostCopy) => if hit c.parked then { c with parked := none, begun := !s.copyDead c } else c
    saved := s.saved.map fun (v : Saved) => { v with ctxt := v.ctxt.resume hit } }
  let t := classes.foldl (fun s p => s.again 0 (.hostCopyComplete p)) t
  (List.range 16).foldl (fun s y => s.resumeDie y ix) t

/-- FQCTL_RESUME. -/
def execFqctlResume (index : BitVec 16) (s : State) : Host.Outcome State Fault Refusal :=
  event (.fqctlResume index) s (s.resumeRecord index.toNat)

end Sys2Proof.Machine
end

