-- ==== Sys2Proof/Machine/LoadCode.lean ====
section
/-! DEFINITION. Trust in code and its loading: the measurement log and the verified-image cache (05 R110 to R112), the GXO
image, its checks and its placement (04 R102, R103, 12 R323 to R329, 13 R338 to R340). -/

namespace Sys2Proof.Machine

/-! ## The measurement log (05 R112) -/

/-- An entry of 80 bytes. -/
def logEntry (type : Nat) (data digest : List Byte) : List Byte :=
  toLE 1 type ++ List.replicate 7 0 ++ padTo 8 data ++ padTo 64 digest

/-- Append an entry. -/
def State.measure (s : State) (type : Nat) (data digest : List Byte) : State :=
  s.onTrust fun t => { t with mlog := t.mlog ++ [logEntry type data digest] }

/-- The running measurement. -/
def Trust.running (t : Trust) : List Byte := t.mlog.foldl (fun m e => Config.shake256 (m ++ e)) (List.replicate 64 0)

/-! ## The verified-image cache (05 R110, R111) -/

/-- The floor of an entry's kind. -/
def Trust.floor (t : Trust) (firmware : Bool) : Nat := if firmware then t.fuseSvn else t.codefloor

/-- Make an entry, the most recently used; of 65 the least recently used goes. -/
def Trust.addEntry (t : Trust) (e : CacheEntry) : Trust :=
  let c := t.cache.filter (fun x => !(x.firmware == e.firmware && x.hash == e.hash && x.key == e.key)) ++ [e]
  { t with cache := c.drop (c.length - 64) }

/-- Purge stale entries of a kind. -/
def Trust.purge (t : Trust) (firmware : Bool) : Trust :=
  { t with cache := t.cache.filter fun e => !(e.firmware == firmware && decide (e.svn < t.floor firmware)) }

/-- What a lookup finds. -/
inductive Lookup where
  | none | stale (t : Trust) | found (t : Trust)

/-- Look an image up under keys that are still good; a stale entry is purged. -/
def Trust.lookup (t : Trust) (firmware : Bool) (hash : List Byte) (good : List Byte → Bool) : Lookup :=
  match t.cache.find? fun e => e.firmware == firmware && e.hash == hash && good e.key with
  | none => .none
  | some e =>
    if e.svn < t.floor firmware then .stale { t with cache := t.cache.filter (· != e) }
    else .found { t with cache := t.cache.filter (· != e) ++ [e] }

/-! ## Lifetime classes (13 Tables 13.1 to 13.5, R338) -/

/-- The numbers lo to hi. -/
def span (lo hi : Nat) : List Nat := (List.range (hi + 1 - lo)).map (lo + ·)

/-- Assigned opcodes of a slot class: 0 S, 1 V, 2 M, 3 C. -/
def assigned : Nat → List Nat
  | 0 => span 0x00 0x0A ++ span 0x10 0x15 ++ span 0x18 0x1D ++ span 0x20 0x2E ++ span 0x30 0x33 ++ span 0x38 0x3C ++ span 0x40 0x46
         ++ span 0x48 0x4D ++ span 0x50 0x56 ++ span 0x58 0x5B ++ span 0x60 0x66 ++ span 0x68 0x6B ++ span 0x70 0x76 ++ span 0x78 0x7F
  | 1 => span 0x01 0x12 ++ span 0x20 0x2C ++ [0x30, 0x31] ++ span 0x38 0x3C ++ [0x40, 0x41] ++ span 0x48 0x4D
  | 2 => span 0x01 0x06 ++ span 0x10 0x16 ++ [0x20, 0x21, 0x28, 0x29]
  | 3 => span 0x01 0x08 ++ span 0x10 0x15 ++ span 0x20 0x22 ++ span 0x28 0x2D ++ [0x30, 0x31]
  | _ => []

/-- Deprecated: ALIT, VNARROW. -/
def deprecatedOp (cls op : Nat) : Bool := (cls == 0 && op == 0x3A) || (cls == 1 && op == 0x11)
/-- Experimental: VLOG2, TRED. -/
def experimentalOp (cls op : Nat) : Bool := (cls == 1 && op == 0x2A) || (cls == 3 && op == 0x22)

/-! ## The image (12 Tables 12.9, 12.10) -/

/-- The next multiple of 64. -/
def up64 (n : Nat) : Nat := (n + 63) / 64 * 64

/-- A GXO image: its bytes, and where its parts begin. -/
structure Gxo where
  b : List Byte
  hotLen : Nat
  coldLen : Nat
  constLen : Nat
  gotLen : Nat
  nReloc : Nat
  nLife : Nat
  hot : Nat
  cold : Nat
  const : Nat
  got : Nat
  reloc : Nat
  life : Nat
  sig : Nat

/-- The parts of an image, from its header. -/
def gxoOf (b : List Byte) : Gxo :=
  let f (at_ : Nat) : Nat := field b at_ 4
  let hot := up64 (256 + 16 * f 40)
  let cold := up64 (hot + f 16)
  let const := up64 (cold + f 20)
  let got := up64 (const + f 24)
  let reloc := up64 (got + f 28)
  let life := up64 (reloc + 24 * f 32)
  { b, hotLen := f 16, coldLen := f 20, constLen := f 24, gotLen := f 28, nReloc := f 32, nLife := f 36
    hot, cold, const, got, reloc, life, sig := up64 (life + 4 * f 36) }

/-- Bytes of an image from an offset on. -/
def Gxo.part (g : Gxo) (at_ n : Nat) : List Byte := (g.b.drop at_).take n

/-- Length and offset in the image of section s (R328). -/
def Gxo.section_ (g : Gxo) (s : Nat) : Nat × Nat :=
  match s with
  | 1 => (g.hotLen, g.hot)
  | 2 => (g.coldLen, g.cold)
  | 3 => (g.constLen, g.const)
  | 4 => (g.gotLen, g.got)
  | _ => (0, 0)

/-- A relocation record (Table 12.11). -/
structure Reloc where
  type : Nat
  lsec : Nat
  tsec : Nat
  word : Nat
  loff : Nat
  toff : Nat
  addend : Nat

/-- Record k. -/
def Gxo.record (g : Gxo) (k : Nat) : Reloc × Bool :=
  let b := g.part (g.reloc + 24 * k) 24
  ({ type := field b 0 1, lsec := field b 1 1, tsec := field b 2 1, word := field b 3 1, loff := field b 4 4, toff := field b 8 4
     addend := field b 12 8 }, field b 20 4 == 0)

/-- The records of an image. -/
def Gxo.records (g : Gxo) : List Reloc := (List.range g.nReloc).map fun k => (g.record k).1

/-- The bundle header at a record's location. -/
def Gxo.header (g : Gxo) (r : Reloc) : Byte := (g.part ((g.section_ r.lsec).2 + r.loff) 1).headD 0

/-- Where in its section a record writes, and how many bytes (Table 12.12). -/
def Gxo.writes (g : Gxo) (r : Reloc) : Nat × Nat :=
  match r.type with
  | 2 => (r.loff + 1 + ((presentSlots (g.header r)).map Slot.size).sum + 4 * r.word, 8)
  | 3 => (r.loff + 3, 3)
  | _ => (r.loff, 8)

/-- Whether a record is reserved, out of range, or fails its check, a DISP24 distance apart (R328). -/
def Gxo.recordBad (g : Gxo) (k : Nat) : Bool :=
  let (r, clean) := g.record k
  let len := (g.section_ r.lsec).1
  let h := g.header r
  let bundle : Bool := decide (r.loff + bundleLen h ≤ len) && !(presentSlots h).isEmpty
  !clean || decide (r.tsec < 1 ∨ 4 < r.tsec) || decide ((g.section_ r.tsec).1 ≤ r.toff) || (r.type != 2 && r.word != 0)
    || !(match r.type with
         | 1 => (r.lsec == 3 || r.lsec == 4) && decide (r.tsec ≤ 2) && r.loff % 8 == 0 && decide (r.loff + 8 ≤ len)
         | 2 => (r.lsec == 1 || r.lsec == 2) && bundle && decide (r.word + 2 ≤ litCount h)
         | 3 => (r.lsec == 1 || r.lsec == 2) && bundle && h.getLsbD 0
                && (let op := field (g.part ((g.section_ r.lsec).2 + r.loff + 2) 1) 0 1; op == 0x70 || op == 0x71)
         | _ => false)

/-- Whether an image's form is bad, a DISP24 distance and the lifetime table apart (R329). -/
def gxoBad (b : List Byte) : Bool :=
  let g := gxoOf b
  let zero (lo hi : Nat) : Bool := (g.part lo (hi - lo)).all (· == 0)
  decide (b.length < 256) || field b 0 4 != 0x314F5847 || field b 4 2 != 1 || decide (2 ≤ field b 8 4)
    || decide (g.hotLen < 2048) || g.hotLen % 2048 != 0 || g.coldLen % 65536 != 0 || g.constLen % 64 != 0 || g.gotLen % 8 != 0
    || !zero 44 48 || !zero 112 256
    || b.length != g.sig + 1280
    || !zero (256 + 16 * field b 40 4) g.hot || !zero (g.hot + g.hotLen) g.cold || !zero (g.cold + g.coldLen) g.const
    || !zero (g.const + g.constLen) g.got || !zero (g.got + g.gotLen) g.reloc || !zero (g.reloc + 24 * g.nReloc) g.life
    || !zero (g.life + 4 * g.nLife) g.sig
    || (List.range g.nReloc).any g.recordBad

/-- Check 3 (13 R340): the status that ends the load, or the count of deprecated opcodes. The die's stepping is A0. -/
def Gxo.lifetimes (g : Gxo) : Except Nat Nat :=
  let es := (List.range g.nLife).map fun k => g.part (g.life + 4 * k) 4
  let key (e : List Byte) : Nat := field e 0 1 * 256 + field e 1 1
  let rising : Bool := (es.zip (es.drop 1)).all fun p => decide (key p.1 < key p.2)
  if !rising || es.any fun e => decide (3 < field e 0 1 ∨ 2 < field e 2 1) || field e 3 1 != 0 then .error 0x11
  else
    es.foldl (fun acc e =>
      match acc with
      | .error x => .error x
      | .ok n =>
        let cls := field e 0 1
        let op := field e 1 1
        if !(assigned cls).contains op then .error 0x16
        else if experimentalOp cls op && field g.b 6 1 != 0 then .error 0x15
        else .ok (if deprecatedOp cls op then n + 1 else n)) (.ok 0)

/-! ## Placement (12 R327, R328, 04 R101) -/

/-- Units of the arena. -/
def State.arenaUnits (s : State) : Nat := (s.pwin.get {} 0).size.toNat * 1024

/-- Whether units o to o + n − 1 are free. -/
def State.unitsFree (s : State) (o n : Nat) : Bool :=
  decide (o + n ≤ s.arenaUnits) && s.objects.all fun x => decide (o + n ≤ x.2.off ∨ x.2.off + x.2.units ≤ o)

/-- Records whose location lies in cold text. -/
def Gxo.coldRecords (g : Gxo) : List Reloc := g.records.filter fun r => r.lsec == 2

/-- The layout of an image in the arena, at offset o. -/
def Gxo.layout (g : Gxo) (o : Nat) : Obj :=
  let hotUnits := (g.hotLen + 65535) / 65536
  let coldUnits := g.coldLen / 65536
  let constOff := (hotUnits + coldUnits) * 65536
  let gotOff := up64 (constOff + g.constLen)
  let ptOff := up64 (gotOff + g.gotLen)
  let patchOff := up64 (ptOff + 64 * coldUnits)
  { off := o, units := (patchOff + 16 * g.coldRecords.length + 65535) / 65536, hotUnits, coldUnits, constLen := g.constLen
    gotLen := g.gotLen, coldLen := g.coldLen, constOff, gotOff, ptOff, patchOff, stepping := g.b.getD 6 0, svn := field g.b 7 1
    fusel1 := (g.b.getD 8 0).getLsbD 0, measurement := Config.shake256 (g.b.take g.sig) }

/-- Offset of section s from the object's base. -/
def Obj.sectionOff (o : Obj) (s : Nat) : Nat :=
  match s with
  | 1 => 0
  | 2 => o.hotUnits * 65536
  | 3 => o.constOff
  | _ => o.gotOff

/-- The value a record writes; none where a DISP24 distance does not fit. -/
def Obj.relocValue (o : Obj) (base : Nat) (r : Reloc) : Option Nat :=
  let t := (base + o.sectionOff r.tsec + r.toff + r.addend) % 2 ^ 64
  if r.type = 3 then
    let x : Int := (BitVec.ofNat 64 (t + 2 ^ 64 - (base + o.sectionOff r.lsec + r.loff) % 2 ^ 64)).toInt
    if x < -2 ^ 23 ∨ 2 ^ 23 ≤ x then none else some (x % 2 ^ 24).toNat
  else some t

/-- The values of all records in order; none where one does not fit. -/
def Gxo.values (o : Obj) (base : Nat) : List Reloc → Option (List (Reloc × Nat))
  | [] => some []
  | r :: rs => match o.relocValue base r, Gxo.values o base rs with
    | some v, some vs => some ((r, v) :: vs)
    | _, _ => none

/-- Insert a cold patch in ascending order of offset. -/
def insertPatch (x : Nat × Nat × Nat) : List (Nat × Nat × Nat) → List (Nat × Nat × Nat)
  | [] => [x]
  | y :: r => if x.1 < y.1 then x :: y :: r else y :: insertPatch x r

/-- The cold patch list: offset, bytes, value (04 R101). -/
def Gxo.patches (g : Gxo) (vs : List (Reloc × Nat)) : List (Nat × Nat × Nat) :=
  (vs.filter fun x => x.1.lsec == 2).foldl (fun l x => insertPatch ((g.writes x.1).1, (g.writes x.1).2, x.2) l) []

/-- The bytes placement writes at offsets from the object's base, in order. -/
def Gxo.image (g : Gxo) (o : Obj) (src : Nat) (vs : List (Reloc × Nat)) : List (Nat × List Byte) :=
  let ps := g.patches vs
  let pages := (List.range o.coldUnits).map fun k =>
    let mine (p : Nat × Nat × Nat) : Bool := p.1 / 65536 == k
    let first := (ps.filter fun p => decide (p.1 / 65536 < k)).length
    (o.ptOff + 64 * k, List.replicate 8 0 ++ toLE 8 (src + g.cold + 65536 * k)
      ++ (Config.shake256 (g.part (g.cold + 65536 * k) 65536)).take 32 ++ toLE 4 first ++ toLE 4 (ps.filter mine).length ++ List.replicate 8 0)
  [(0, g.part g.hot g.hotLen), (o.constOff, g.part g.const g.constLen), (o.gotOff, g.part g.got g.gotLen)]
    ++ ((vs.filter fun x => x.1.lsec != 2).map fun x =>
          (o.sectionOff x.1.lsec + (g.writes x.1).1, toLE (g.writes x.1).2 x.2))
    ++ pages
    ++ ps.zipIdx.map fun x => (o.patchOff + 16 * x.2, toLE 4 x.1.1 ++ toLE 1 x.1.2.1 ++ [0, 0, 0] ++ toLE 8 x.1.2.2)

/-! ## LOADCO and FREECO (04 R102, R103) -/

/-- Check 1: a signature under a registered key, unless the cache vouches for the image. -/
def State.checkSignature (s : State) (g : Gxo) : Except (Nat × State) State :=
  let hash := Config.shake256 (g.b.take g.sig)
  let keyHash := g.part 48 64
  let held (h : List Byte) : Bool := s.trust.keys.any fun k => Config.shake256 k.2 == h
  match s.trust.lookup false hash held with
  | .stale t => .error (0x14, { s with trust := t })
  | .found t => .ok { s with trust := t }
  | .none =>
    match s.trust.keys.find? fun k => Config.shake256 k.2 == keyHash with
    | none => .error (0x13, s)
    | some k =>
      if Config.falconVerify k.2 hash (g.part g.sig 1280) then
        .ok (s.onTrust fun t => t.addEntry { firmware := false, hash, svn := field g.b 7 1, key := keyHash })
      else .error (0x13, s)

/-- The offset a load takes (R327). -/
def State.chooseOffset (s : State) (wanted prefers units : Nat) : Option Nat :=
  if wanted ≠ 0xFFFFFFFF then (if s.unitsFree wanted units then some wanted else none)
  else if prefers ≠ 0xFFFFFFFF ∧ s.unitsFree prefers units then some prefers
  else (List.range s.arenaUnits).find? fun o => s.unitsFree o units

/-- LOADCO on an image's bytes: the checks of R102 in order, then placement. -/
def State.loadImage (s : State) (q src wanted : Nat) (b : List Byte) : State :=
  if gxoBad b then s.fails q 0x11
  else
    let g := gxoOf b
    match s.checkSignature g with
    | .error (st, s) => s.fails q st
    | .ok s =>
      if field b 7 1 < s.trust.codefloor then s.fails q 0x14
      else
        match g.lifetimes with
        | .error st => s.fails q st
        | .ok old =>
          match s.chooseOffset wanted (field b 12 4) (g.layout 0).units with
          | none => s.fails q 0x17
          | some off =>
            let o := g.layout off
            let base := s.objBase o
            match Gxo.values o base g.records with
            | none => s.fails q 0x11
            | some vs =>
              let h := s.nextHandle
              let s := (g.image o src vs).foldl (fun s x => s.homeWrite (placeAt (base + x.1) x.2)) s
              let s := { s with objects := s.objects.set h o, nextHandle := h + 1 }
              let s := s.measure 3 (toLE 4 h ++ toLE 1 o.svn) o.measurement
              s.finish q (if old = 0 then 0 else 1) (h % 2 ^ 32 + off * 2 ^ 32 + old % 2 ^ 16 * 2 ^ 48)

/-- Bytes at physical addresses of class 0x2 or 0x3; none where one cannot be read: unmapped or poisoned, it completes the command
BADARG (DESIGN CHOICE, assumption 58). -/
def State.outside (s : State) (a n : Nat) : Option (List Byte) :=
  let pas := (List.range n).map (a + ·)
  if pas.all (fun p => (p / 2 ^ 52 == 2 || p / 2 ^ 52 == 3) && s.mapped p && !s.poisoned p) then some (pas.map s.homeByte) else none

/-- LOADCO. -/
def execLoadco (s : State) : Host.Outcome State Fault Refusal :=
  queueEvent s <|
    match s.command? s.unit 4 with
    | none => s
    | some c =>
      match s.outside (c.arg 8 8) (c.arg 16 8) with
      | none => s.fails s.unit 0x11
      | some b => s.loadImage s.unit (c.arg 8 8) (c.arg 24 4) b

/-- FREECO. -/
def execFreeco (s : State) : Host.Outcome State Fault Refusal :=
  queueEvent s <|
    match s.command? s.unit 5 with
    | none => s
    | some c =>
      let h := c.arg 8 4
      if (s.objects.get? h).isNone then s.finish s.unit 0x11 0
      else if s.replays.any fun r => r.handle == h then s.finish s.unit 0x19 0
      else { s with objects := s.objects.erase h, coldFetches := s.coldFetches.filter fun x => x.handle != h }.finish s.unit 0 0

end Sys2Proof.Machine
end

