-- ==== Sys2Proof/Machine/Assemble.lean ====
section
/-! DEFINITION. The assembler (12 R316, R318 to R326, R479, 14 R352, 13 R341): what a source file, its lines already read into
operations and directives, becomes: literal bits, pools, bundles, segments, sections, relocation records and the GXO image that LOADCO
takes. The machine never runs it; characters, comments and the spelling of mnemonics and operands are left to its reader. -/

namespace Sys2Proof.Machine

/-! ## Literal values (R479, R352) -/

/-- What a name of a source file stands for. -/
inductive Sym where
  /-- a label of hot (section 1) or cold (2) text -/
  | code (sec off : Nat)
  /-- a label of the constant block -/
  | const (off : Nat)
  | got (off : Nat)
  | shape (word : Nat)
  deriving DecidableEq, Repr

/-- A literal value as written (Table 12.7). -/
inductive LitForm where
  /-- 0x, 0b -/
  | bits (v : Nat)
  /-- a decimal: ± num / den -/
  | dec (neg : Bool) (num den : Nat)
  /-- a name, with what is added to it -/
  | name (n : String) (plus : Int)
  /-- TSTB's word: the mask, and the bundle it branches to (14 R365) -/
  | test (mask : Nat) (label : String)
  deriving DecidableEq, Repr

/-- Where a literal goes: its bits, the integers that fit, the format of a floating type, and whether its word must be word 0. -/
structure LitField where
  bits : Nat
  lo : Int
  hi : Int
  float : Option Fmt := none
  first : Bool := false

/-- What an s source reads (R314): 32 bits, sign-extended. -/
def LitField.s : LitField := { bits := 32, lo := -2 ^ 31, hi := 2 ^ 31 - 1 }
/-- What an a source reads: 72 bits in words 0 to 2. -/
def LitField.a : LitField := { bits := 72, lo := -2 ^ 71, hi := 2 ^ 72 - 1, first := true }
/-- What a value of a type reads, `u` for the suffixes .b16, .b32, .b64; codes of 4-bit and block types are raw. -/
def LitField.ofType (t : BitVec 4) (u : Bool) : LitField :=
  let w := typeWidth t
  match fmtOf t with
  | some F => { bits := w, lo := 0, hi := 0, float := some F }
  | none =>
    if 11 ≤ t.toNat then { bits := w, lo := 0, hi := 2 ^ w - 1 }
    else { bits := w, lo := (intRange t u).1, hi := (intRange t u).2 }

/-- What an operation knows of where it stands: its section and offset, and the names. -/
structure Env where
  sec : Nat
  off : Nat
  syms : List (String × Sym)
  /-- an early pass: the names may lie elsewhere yet, and what does not fit is no error -/
  draft : Bool := false

/-- What a name stands for. -/
def Env.sym (e : Env) (n : String) : Option Sym := (e.syms.find? fun x => x.1 == n).map (·.2)

/-- A number into a field it fits. -/
def LitField.int (f : LitField) (v : Int) : Option Nat := if f.lo ≤ v ∧ v ≤ f.hi then some (bitsOf f.bits v) else none
/-- A name's value into a field. -/
def LitField.named (f : LitField) (e : Env) (v : Int) : Option (Nat × Option (Nat × Nat × Int)) :=
  if e.draft then some (bitsOf f.bits v, none) else (f.int v).map fun v => (v, none)

/-- A literal's bits, and the code address that a record writes there: section, offset and addend (R479). -/
def LitField.value (f : LitField) (e : Env) : LitForm → Option (Nat × Option (Nat × Nat × Int))
  | .bits v => if v < 2 ^ f.bits then some (v, none) else none
  | .dec neg num den =>
    match f.float with
    | some F =>
      let (r, g) := F.round .rne 0 (if num = 0 then .zero neg else .rat neg num den)
      if (g &&& (fOF ||| fSAT)) ≠ 0 then none else some (r, none)
    | none =>
      if den = 0 ∨ num % den ≠ 0 then none
      else (f.int (if neg then -((num / den : Nat) : Int) else (num / den : Nat))).map fun v => (v, none)
  | .name n plus =>
    match e.sym n with
    | some (.code sec off) => if f.bits = 64 then some (0, some (sec, off, plus)) else none
    | some (.const off) => f.named e (off + plus)
    | some (.got off) => f.named e (off + plus)
    | some (.shape w) => f.named e (w + plus)
    | none => none
  | .test mask label =>
    match e.sym label with
    | some (.code sec off) =>
      let d : Int := (off : Int) - e.off
      if 2 ^ 9 ≤ mask ∨ (!e.draft && (sec ≠ e.sec ∨ d < -2 ^ 22 ∨ 2 ^ 22 ≤ d)) then none else some (mask + 2 ^ 9 * bitsOf 23 d, none)
    | _ => none

/-- The width code MOVL takes without a suffix; code labels and shapes take 2 (R352). -/
def movlWidth (v : Int) : Option Nat :=
  if 0 ≤ v ∧ v < 2 ^ 32 then some 0
  else if -2 ^ 31 ≤ v ∧ v < 0 then some 1
  else if -2 ^ 63 ≤ v ∧ v < 2 ^ 64 then some 2
  else none

/-- The width code ALIT takes without a suffix: code 2 is sign-extended (R352). -/
def alitWidth (v : Int) : Option Nat :=
  if 0 ≤ v ∧ v < 2 ^ 32 then some 0
  else if -2 ^ 31 ≤ v ∧ v < 0 then some 1
  else if -2 ^ 63 ≤ v ∧ v < 2 ^ 63 then some 2
  else if -2 ^ 71 ≤ v ∧ v < 2 ^ 72 then some 3
  else none

/-! ## The pool (R320) -/

/-- A literal of a line. -/
inductive Lit where
  | w32 (v : BitVec 32)
  /-- two consecutive words, and the code address a record writes there -/
  | w64 (v : BitVec 64) (code : Option (Nat × Nat × Int))
  | w72 (v : BitVec 72)
  deriving DecidableEq, Repr

/-- The low n words of a number. -/
def wordsOf (n v : Nat) : List (BitVec 32) := (List.range n).map fun k => BitVec.ofNat 32 (v / 2 ^ (32 * k))

/-- The words of a pool; none where a record writes, which nothing shares. -/
abbrev Pool := List (Option (BitVec 32))

/-- A literal takes its words: the pool after it, and its first word. A 32-bit word that stands there is shared. -/
def addLit (pool : Pool) : Lit → Option (Pool × Nat)
  | .w32 v =>
    match pool.findIdx? (· == some v) with
    | some k => some (pool, k)
    | none => if pool.length < 3 then some (pool ++ [some v], pool.length) else none
  | .w64 v code =>
    let words : Pool := if code.isSome then [none, none] else (wordsOf 2 v.toNat).map some
    if pool.length ≤ 1 then some (pool ++ words, pool.length) else none
  | .w72 v => if pool.isEmpty ∨ pool = (wordsOf 3 v.toNat).map some then some ((wordsOf 3 v.toNat).map some, 0) else none

/-- Literals in order; a 72-bit one takes words 0 to 2 before the others. -/
def addLits : Pool → List Lit → Option (Pool × List Nat)
  | pool, [] => some (pool, [])
  | pool, l :: r => do
    let (pool, k) ← addLit pool l
    let (pool, ks) ← addLits pool r
    pure (pool, k :: ks)

/-- The pool of a line, and the word of each of its literals. -/
def buildPool (ls : List Lit) : Option (Pool × List Nat) :=
  match ls.find? fun l => match l with | .w72 _ => true | _ => false with
  | some (.w72 v) => addLits ((wordsOf 3 v.toNat).map some) ls
  | _ => addLits [] ls

/-! ## A line (R318, R319, 12 R308) -/

/-- An operation of a source line: its slot, guard and hold; its literals in field order; a follow-on; a branch target; and the
instruction, once the words of its literals, its follow-on's word and its displacement are known. -/
structure SrcOp where
  slot : Slot
  pfx : Pfx := {}
  lits : List (LitField × LitForm) := []
  follow : Option Instr := none
  target : Option String := none
  build : List Nat → Nat → BitVec 24 → Instr

/-- A literal of a width. -/
def litOf (bits v : Nat) (code : Option (Nat × Nat × Int)) : Lit :=
  if bits ≤ 32 then .w32 (BitVec.ofNat 32 v) else if bits ≤ 64 then .w64 (BitVec.ofNat 64 v) code else .w72 (BitVec.ofNat 72 v)

/-- The literals of an operation, its follow-on's two words last. -/
def SrcOp.literals (o : SrcOp) (e : Env) : Option (List Lit) := do
  let ls ← o.lits.mapM fun x => (x.1.value e x.2).map fun v => litOf x.1.bits v.1 v.2
  match o.follow with
  | none => pure ls
  | some i => (encodeSlot .m {} i).map fun b => ls ++ [.w64 (BitVec.ofNat 64 (ofLE b)) none]

/-- The displacement of a branch, and the record of one into the other section (R310, R328). -/
def SrcOp.branch (o : SrcOp) (e : Env) : Option (BitVec 24 × Option (Nat × Nat)) :=
  match o.target with
  | none => some (0, none)
  | some l =>
    match e.sym l with
    | some (.code sec off) =>
      let d : Int := (off : Int) - e.off
      if sec ≠ e.sec then some (0, some (sec, off))
      else if !e.draft && (d < -2 ^ 23 ∨ 2 ^ 23 ≤ d) then none
      else some (BitVec.ofInt 24 d, none)
    | _ => none

/-- The slots in the order of R308. -/
def slotOrder : List Slot := [.s, .v0, .v1, .m, .c0, .c1]

/-- The operations of a line in slot order; none where two take one slot. -/
def inOrder (ops : List SrcOp) : Option (List SrcOp) :=
  let r := slotOrder.flatMap fun s => ops.filter (·.slot == s)
  if slotOrder.any fun s => 1 < ops.countP (·.slot == s) then none else some r

/-- Give each operation the words of its literals, in order. -/
def shareOut : List (SrcOp × Nat) → List Nat → List (SrcOp × List Nat)
  | [], _ => []
  | (o, n) :: r, ks => (o, ks.take n) :: shareOut r (ks.drop n)

/-- A bundle's bytes, its records (LOFF its offset), and the slot classes and opcodes it uses (R318, R320, R341). -/
structure Line where
  bytes : List Byte
  relocs : List Reloc
  uses : List (Nat × Nat)

/-- The slot class and opcode of an instruction. -/
def Instr.classOp (i : Instr) : List (Nat × Nat) :=
  ((bodyS i).map fun x => (0, x.1.toNat)).toList ++ ((bodyV i).map fun x => (1, x.1.toNat)).toList
    ++ ((bodyM i).map fun x => (2, x.1.toNat)).toList ++ ((bodyC i).map fun x => (3, x.1.toNat)).toList

/-- A line with at least one operation, as the assembler writes it. -/
def assembleLine (e : Env) (ops : List SrcOp) : Option Line := do
  let ops ← inOrder ops
  let lits ← ops.mapM fun o => o.literals e
  let (pool, ks) ← buildPool lits.flatten
  let parts ← (shareOut (ops.zip (lits.map List.length)) ks).mapM fun (o, ks) => do
    let (disp, far) ← o.branch e
    let i := o.build (ks.take o.lits.length) (ks.getD o.lits.length 0) disp
    let b ← encodeSlot o.slot o.pfx i
    let placed := (o.lits.zip ks).all fun x => !x.1.1.first || x.2 == 0
    if !placed || i.problem.isSome then none
    else
      let to3 : List Reloc := far.toList.map fun t =>
        { type := 3, lsec := e.sec, tsec := t.1, word := 0, loff := e.off, toff := t.2, addend := 0 }
      pure (b, to3, Instr.classOp i ++ (o.follow.map Instr.classOp).getD [])
  let head := (ops.map fun o => 2 ^ slotOrder.idxOf o.slot).sum + 64 * pool.length
  let codes : List Reloc := (lits.flatten.zip ks).filterMap fun x =>
    match x.1 with
    | .w64 _ (some (sec, off, plus)) =>
      some { type := 2, lsec := e.sec, tsec := sec, word := x.2, loff := e.off, toff := off, addend := bitsOf 64 plus }
    | _ => none
  pure { bytes := BitVec.ofNat 8 head :: (parts.map (·.1)).flatten ++ (pool.map fun w => toLE 4 (w.getD 0).toNat).flatten
         relocs := codes ++ (parts.map (·.2.1)).flatten, uses := (parts.map (·.2.2)).flatten }

/-- MOVI (R316): ADDI from s0 where the value fits, else MOVL of the smallest width. -/
def movi (d : BitVec 6) (v : Int) : Option SrcOp :=
  if -2048 ≤ v ∧ v < 2048 then some { slot := .s, build := fun _ _ _ => .addi { d, a := 0, imm := BitVec.ofInt 12 v } }
  else (movlWidth v).map fun w =>
    let bits := if w = 2 then 64 else 32
    { slot := .s, lits := [({ bits, lo := 0, hi := 0 }, .bits (bitsOf bits v))]
      build := fun ks _ _ => .movl { d, word := BitVec.ofNat 2 (ks.headD 0), width := BitVec.ofNat 2 w } }

/-- PMOV (R316). -/
def pmov (pd pa : BitVec 4) : SrcOp := { slot := .s, build := fun _ _ _ => .por { pd, pa, pb := pa, fn := 0 } }

/-! ## Segments (R321, 07 Table 7.6) -/

/-- A segment as it fills: bundles at their offsets, and where the next goes. -/
structure Seg where
  parts : List (Nat × List Byte) := []
  line : Nat := 0
  off : Nat := 0
  noFall : Bool := false
  pick1 : Bool := false
  next1 : Option String := none
  deriving DecidableEq, Repr

/-- A section of text: its closed segments, and the one that fills. -/
structure Text where
  closed : List Seg := []
  seg : Seg := {}
  deriving DecidableEq, Repr

/-- Close the segment and open the next slot. -/
def Text.close (t : Text) (next : Seg := {}) : Text := { closed := t.closed ++ [t.seg], seg := next }

/-- Go on at the next line; behind line 31 in the next segment. What is left of the line reads as padding: 0x00. -/
def Text.nextLine (t : Text) : Text :=
  if t.seg.line = 31 then t.close else { t with seg := { t.seg with line := t.seg.line + 1, off := 0 } }

/-- Whether n bytes fit in the rest of the line. -/
def Text.fits (t : Text) (n : Nat) : Bool := decide (t.seg.off + n ≤ lineLimit t.seg.line)

/-- The place of a bundle of n bytes: this line, the next, or the next segment. -/
def Text.room (t : Text) (n : Nat) : Text :=
  let t := if t.seg.parts.length = 128 then t.close else t
  let t := if t.fits n then t else t.nextLine
  if t.fits n then t else t.close

/-- Offset in the section of the next byte. -/
def Text.here (t : Text) : Nat := 2048 * t.closed.length + 64 * t.seg.line + t.seg.off

/-- Place a bundle where room has been made. -/
def Text.put (t : Text) (b : List Byte) : Text :=
  { t with seg := { t.seg with parts := t.seg.parts ++ [(64 * t.seg.line + t.seg.off, b)], off := t.seg.off + b.length } }

/-- `.align` (Table 12.8). -/
def Text.align (t : Text) (n : Nat) : Text := if t.here % n = 0 then t else t.nextLine

/-- `.segment`: an empty segment is not closed, it takes the options. -/
def Text.segment (t : Text) (s : Seg) : Text := if t.seg.parts.isEmpty then { t with seg := s } else t.close s

/-- The segments of a section, the last with NOFALL. -/
def Text.segs (t : Text) : List Seg :=
  let all := if t.seg.parts.isEmpty then t.closed else t.closed ++ [t.seg]
  all.zipIdx.map fun s => if s.2 + 1 = all.length then { s.1 with noFall := true } else s.1

/-- Bytes with the parts given, zero elsewhere. -/
def filled (n : Nat) (parts : List (Nat × List Byte)) : List Byte :=
  let m : FMap Byte := parts.foldl (fun m p => (placeAt p.1 p.2).foldl (fun m w => FMap.set m w.1 w.2) m) []
  (List.range n).map fun k => m.get 0 k

/-- A segment's 2,048 bytes in slot k of section sec: its bundles and its trailer with NEXT0 = 1. -/
def Seg.image (s : Seg) (e : Env) (k : Nat) : Option (List Byte) := do
  let next1 ← match s.next1 with
    | none => some 0
    | some l => match e.sym l with
      | some (.code sec off) => if sec = e.sec then some (((off / 2048 : Nat) : Int) - k) else none
      | _ => none
  let last := ((s.parts.map fun p => p.1 / 64).foldl max 0)
  let trailer := [0] ++ toLE 1 last ++ toLE 1 (s.parts.length - 1) ++ toLE 1 (b2n s.noFall + 2 * b2n s.pick1) ++ toLE 4 1
    ++ toLE 4 (bitsOf 32 next1) ++ [0, 0, 0, 0]
  pure (filled 2048 (s.parts ++ [(0x7F0, trailer)]))

/-! ## A source file (R322) -/

/-- A directive, or a line of operations; an optional label before it. -/
inductive Item where
  | hot | cold
  | segment (noFall : Bool) (next1 : Option String) (pick1 : Bool)
  | align (n : Nat)
  | kernel (name : String)
  | flight (pinned : Bool) (levels : Nat)
  | const (t : BitVec 4) (u : Bool) (vs : List LitForm)
  | got (name sym : String)
  | shape (name : String) (rows cols depth : Nat) (t : BitVec 4)
  | stepping (letter digit : Nat)
  | svn (n : Nat)
  | line (ops : List SrcOp)

/-- A kernel table entry before its hash (R325). -/
structure Kernel where
  name : String
  off : Nat
  pinned : Bool := false
  levels : Nat := 0
  deriving DecidableEq, Repr

/-- What has been assembled. -/
structure Asm where
  cold : Bool := false
  hotText : Text := {}
  coldText : Text := {}
  const : List Byte := []
  got : List Byte := []
  syms : List (String × Sym) := []
  /-- labels that wait for what they name, and kernels that wait for their first bundle -/
  labels : List String := []
  opens : List String := []
  kernels : List Kernel := []
  relocs : List Reloc := []
  uses : List (Nat × Nat) := []
  stepping : Nat := 0
  svn : Nat := 0
  draft : Bool := false

/-- The section that fills. -/
def Asm.text (a : Asm) : Text := if a.cold then a.coldText else a.hotText
/-- The number of the section that fills (R328). -/
def Asm.sec (a : Asm) : Nat := if a.cold then 2 else 1
/-- Change the section that fills. -/
def Asm.onText (a : Asm) (f : Text → Text) : Asm := if a.cold then { a with coldText := f a.coldText } else { a with hotText := f a.hotText }
/-- The waiting labels name this. -/
def Asm.name (a : Asm) (y : Sym) : Asm := { a with labels := [], syms := a.syms ++ a.labels.map fun n => (n, y) }
/-- The names known: those of `known` first, the labels of an earlier pass. -/
def Asm.env (a : Asm) (known : List (String × Sym)) : Env :=
  { sec := a.sec, off := a.text.here, syms := known ++ a.syms, draft := a.draft }

/-- The record that puts a code address into a word of the constant block or the GOT (R328). -/
def code64 (lsec loff : Nat) (t : Nat × Nat × Int) : Reloc :=
  { type := 1, lsec, tsec := t.1, word := 0, loff, toff := t.2.1, addend := bitsOf 64 t.2.2 }

/-- Append a value to the constant block, naturally aligned. -/
def Asm.constant (a : Asm) (known : List (String × Sym)) (f : LitField) (v : LitForm) : Option Asm := do
  let n := max 1 (f.bits / 8)
  let (x, code) ← f.value (a.env known) v
  let at_ := (a.const.length + n - 1) / n * n
  pure { a with const := padTo at_ a.const ++ toLE n x, relocs := a.relocs ++ code.toList.map (code64 3 at_) }

/-- A bundle: it takes its place, its labels and kernels name it, and it is assembled there. -/
def Asm.bundle (a : Asm) (known : List (String × Sym)) (ops : List SrcOp) : Option Asm := do
  let size ← assembleLine (a.env known) ops
  let a := a.onText fun t => t.room size.bytes.length
  if a.cold && !a.opens.isEmpty then none
  else
    let l ← assembleLine (a.env known) ops
    let at_ := a.text.here
    let ks := a.kernels.map fun k => if a.opens.contains k.name then { k with off := at_ } else k
    let a := { a.name (.code a.sec at_) with opens := [], kernels := ks, relocs := a.relocs ++ l.relocs, uses := a.uses ++ l.uses }
    pure (a.onText fun t => t.put l.bytes)

/-- One item, with the names an earlier pass has found (Table 12.8). -/
def Asm.item (known : List (String × Sym)) (a : Asm) (x : Option String × Item) : Option Asm :=
  let a := { a with labels := a.labels ++ x.1.toList }
  match x.2 with
  | .hot => some { a with cold := false }
  | .cold => some { a with cold := true }
  | .segment noFall next1 pick1 => some (a.onText fun t => t.segment { noFall, next1, pick1 })
  | .align n => if [8, 16, 32, 64].contains n then some (a.onText fun t => t.align n) else none
  | .kernel n => some { a with opens := a.opens ++ [n], kernels := a.kernels ++ [{ name := n, off := 0 }] }
  | .flight pinned levels =>
    match a.kernels.reverse with
    | k :: r => if 1 ≤ levels ∧ levels ≤ 6 then some { a with kernels := r.reverse ++ [{ k with pinned, levels }] } else none
    | [] => none
  | .const t u vs =>
    let f := LitField.ofType t u
    let n := max 1 (f.bits / 8)
    let a := { a with const := padTo ((a.const.length + n - 1) / n * n) a.const }
    vs.foldlM (fun (a : Asm) v => a.constant known f v) (a.name (.const a.const.length))
  | .got n y =>
    let at_ := a.got.length
    match (a.env known).sym y with
    | some (.code sec off) =>
      some { a with got := a.got ++ toLE 8 0, relocs := a.relocs ++ [code64 4 at_ (sec, off, 0)], syms := a.syms ++ [(n, .got at_)] }
    | some (.const off) => some { a with got := a.got ++ toLE 8 off, syms := a.syms ++ [(n, .got at_)] }
    | _ => none
  | .shape n rows cols depth t =>
    if rows < 65536 ∧ cols < 65536 ∧ depth < 2 ^ 24 then
      some { a with syms := a.syms ++ [(n, .shape (packBits [(0, 16, rows), (16, 16, cols), (32, 24, depth), (56, 4, t.toNat), (60, 1, 1)]).toNat)] }
    else none
  | .stepping letter digit => if letter < 16 ∧ digit < 16 then some { a with stepping := 16 * letter + digit } else none
  | .svn n => if n < 256 then some { a with svn := n } else none
  | .line ops => if ops.isEmpty then some a else a.bundle known ops

/-- Assemble the items, with the names known. -/
def assemblePass (draft : Bool) (known : List (String × Sym)) (src : List (Option String × Item)) : Option Asm :=
  src.foldlM (Asm.item known) { draft }

/-- The names of a source file before any pass has placed them. -/
def namesOf (src : List (Option String × Item)) : List (String × Sym) :=
  src.flatMap fun x =>
    match x.2 with
    | .const .. => x.1.toList.map fun n => (n, Sym.const 0)
    | .got n _ => [(n, .got 0)]
    | .shape n _ _ _ _ => [(n, .shape 0)]
    | _ => x.1.toList.map fun n => (n, Sym.code 1 0)

/-- Draft after draft, until every name lies where the draft before found it; then the pass that counts. -/
def assembleFrom : Nat → List (String × Sym) → List (Option String × Item) → Option Asm
  | 0, _, _ => none
  | n + 1, known, src =>
    match assemblePass true known src with
    | none => none
    | some a => if a.syms = known then assemblePass false known src else assembleFrom n a.syms src

/-- Assemble a source file: of passes there are as many as it has items, and two. -/
def assemble (src : List (Option String × Item)) : Option Asm := assembleFrom (src.length + 2) (namesOf src) src

/-! ## The object (R323 to R326) -/

/-- The bytes of a section's segments. -/
def Asm.section_ (a : Asm) (sec : Nat) : Option (List Byte) := do
  let t := if sec = 2 then a.coldText else a.hotText
  let segs ← t.segs.zipIdx.mapM fun s => s.1.image { sec, off := 0, syms := a.syms } s.2
  pure segs.flatten

/-- Table 12.11. -/
def Reloc.image (r : Reloc) : List Byte :=
  toLE 1 r.type ++ toLE 1 r.lsec ++ toLE 1 r.tsec ++ toLE 1 r.word ++ toLE 4 r.loff ++ toLE 4 r.toff ++ toLE 8 r.addend ++ toLE 4 0

/-- R325. -/
def Kernel.image (k : Kernel) : List Byte :=
  toLE 4 k.off ++ (Config.shake256 (k.name.toUTF8.toList.map fun b => BitVec.ofNat 8 b.toNat)).take 8
    ++ toLE 1 (b2n k.pinned + 2 * k.levels) ++ [0, 0, 0]

/-- The lifetime table: every slot class and opcode the text uses, once each, ascending (R326, 13 R341). -/
def Asm.lifetimes (a : Asm) : List Byte :=
  (List.range 1024).flatMap fun k =>
    if a.uses.contains (k / 256, k % 256) then
      toLE 1 (k / 256) ++ toLE 1 (k % 256)
        ++ toLE 1 (if deprecatedOp (k / 256) (k % 256) then 1 else if experimentalOp (k / 256) (k % 256) then 2 else 0) ++ [0]
    else []

/-- Pad to a multiple. -/
def padUp (n : Nat) (b : List Byte) : List Byte := padTo ((b.length + n - 1) / n * n) b

/-- The image up to its signature, which is the signer's: Falcon-1024 over the hash of these bytes (R323, R324). -/
def Asm.image (a : Asm) (fusel1 : Bool) (prefers : Nat) (keyHash : List Byte) : Option (List Byte) := do
  let hot ← a.section_ 1
  let cold ← a.section_ 2
  let cold := padUp 65536 cold
  let const := padUp 64 a.const
  let uses := a.lifetimes
  if hot.isEmpty then none
  else
    let head := toLE 4 0x314F5847 ++ toLE 2 1 ++ toLE 1 a.stepping ++ toLE 1 a.svn ++ toLE 4 (b2n fusel1) ++ toLE 4 prefers
      ++ toLE 4 hot.length ++ toLE 4 cold.length ++ toLE 4 const.length ++ toLE 4 a.got.length ++ toLE 4 a.relocs.length
      ++ toLE 4 (uses.length / 4) ++ toLE 4 a.kernels.length ++ toLE 4 0 ++ padTo 64 keyHash
    pure ((padTo 256 head :: [(a.kernels.map Kernel.image).flatten, hot, cold, const, a.got, (a.relocs.map Reloc.image).flatten, uses]).map (padUp 64)).flatten

end Sys2Proof.Machine
end

