-- ==== Sys2Proof/Machine/Power.lean ====
section
/-! DEFINITION. Starts, power states, trips and staggered power-up (05 R113 to R116, R121 to R124, 01 R17, R20 to R25, 04 R82,
R83). -/

namespace Sys2Proof.Machine

/-! ## Everything stops (05 R113) -/

/-- Nothing of queues, replays or engines goes on; what the machine had scheduled for itself is dropped, but the interval of
vector 65. -/
def State.quiesce (s : State) : State :=
  { s with
    agenda := s.agenda.filter fun e => e.instr == .vector65IntervalEnd
    round := 0, replays := [], saved := [], slotsUsed := [], hostCopies := [], coldFetches := [], remote := [], lostLines := []
    fmtLines := [], fused := [], tlbBusy := none, fqWait := [], lastLight := none, upsBegun := 0
    fmtw := s.fmtw.map fun w => (w.1, { w.2 with retiring := false, enabling := false })
    queues := s.queues.map fun q =>
      (q.1, { q.2 with cmd := none, blocked := false, async := 0, readyAt := none, haltedAt := none, disabling := false }) }

/-- A link of a package that restarts: DOWN, or still DEAD (02 R38), with its registers kept and nothing in flight. -/
def Link.restart (l : Link) (d : Nat) : Link :=
  { Link.fresh d with
    state := if l.state = .dead then .dead else .down
    enable := l.enable, fastwake := l.fastwake, minw := l.minw, lsset := l.lsset, lsrej := l.lsrej, maprej := l.maprej
    polrej := l.polrej, deadev := l.deadev, restarts := l.restarts, txmap := l.txmap, rxmap := l.rxmap, propose := l.rxmap
    crcerr := l.crcerr, replays := l.replays, remaps := l.remaps, uncorr := l.uncorr, flits := l.flits, qmax := l.qmax
    lpol := l.lpol, lanes := l.lanes, ddim := l.ddim, den := l.den, dfail := l.dfail, wrej := l.wrej }

/-- The node fabric of a package that restarts: its registers and its count, and nothing under way (03 R62, 18 R459). -/
def Fabric.restart (f : Fabric) : Fabric :=
  { e2eto := f.e2eto, e2erty := f.e2erty, ftcm := f.ftcm, dups := f.dups, detdrop := f.detdrop, noreach := f.noreach
    badpkt := f.badpkt, ftc := f.ftc, ps := f.ps, parent := f.parent, offset := f.offset, steps := f.steps }

/-- A die at a warm start. -/
def Die.warm (d : Die) : Die :=
  { temp := d.temp, bankCls := d.bankCls, bankLast := d.bankLast
    links := (List.range 14).map fun k => (k, (d.link k).restart k), fab := d.fab.restart }
/-- A die without power: its sensors are still read (01 R20), and its optical ends still number the flits in which they answer LSREQ (R123). -/
def Die.dark (d : Die) : Die :=
  { temp := d.temp, bankCls := d.bankCls
    links := (List.range 14).map fun k =>
      (k, { Link.fresh k with txSeq := (d.link k).txSeq, rxSeq := (d.link k).rxSeq, rxAny := (d.link k).rxAny }) }

/-- Every die of the package changed. -/
def State.allDies (s : State) (f : Die → Die) : State := (List.range 16).foldl (fun s i => s.onDie i f) s

/-! ## PS3 (01 R17, R20, R25, 05 Table 5.7) -/

/-- Power is removed: lasers, board ports and dies at once; the atrium, with its windows and its copies, and LPDDR-5X are lost, and
read as zero when they next have power (R113 step 6). -/
def State.enterPs3 (s : State) : State :=
  let kept (a : Nat) : Bool := decide (2 * 2 ^ 52 ≤ a)
  let s := (s.quiesce.allDies Die.dark).onTrust fun t => { t with ps := 3, start := 4, step := 0, stagger := none, psExit := false }
  { s with mem := s.mem.filter fun c => kept c.1, poisonLines := s.poisonLines.filter fun l => kept (64 * l), pool := [] }

/-- Degrees in units of 0.125 °C (08 Table 8.6). -/
def degrees (n : Int) : Int := 8 * n
/-- The last junction temperature of a unit: 0 to 15 the compute dies, 16 to 19 the base dies. -/
def State.junction (s : State) (u : Nat) : Int := if u < 16 then (s.die u).temp.toInt else (s.trust.baseTemp.get 0 u).toInt
/-- Whether a start after a trip must wait. -/
def State.hot (s : State) : Bool := (List.range 20).any fun u => decide (degrees 95 ≤ s.junction u)

/-- THERMAL_TRIP: a junction's temperature, which trips the package at 110 °C. -/
def execThermalTrip (die : Nat) (temp : BitVec 12) (s : State) : Host.Outcome State Fault Refusal :=
  event (.thermalTrip die temp) s <|
    let s := if die < 16 then s.onDie die fun d => { d with temp } else s.onTrust fun t => { t with baseTemp := t.baseTemp.set die temp }
    if temp.toInt < degrees 110 then (if s.trust.trip && !s.hot then s.again 0 .startRetryAfterTrip else s)
    else
      (s.onTrust fun t => { t with eventLog := t.eventLog ++ [(die, temp)], trip := true }).enterPs3.mgmtEvent

/-- SUPPLY_EVENT: rail 8, VDD_IO, is that of the host port (01 Table 1.3). -/
def execSupplyEvent (rail : Nat) (s : State) : Host.Outcome State Fault Refusal :=
  event (.supplyEvent rail) s ((s.onTrust fun t => { t with portDark := t.portDark || rail == 8 }).enterPs3.mgmtEvent)

/-! ## Starts (05 R113 to R115) -/

/-- A cold start begins at step 1; what the registers hold is their reset values (00 R6). -/
def State.beginCold (s : State) : State :=
  { s.quiesce.allDies (fun _ => {}) with
    wc := 0, lpwin := 10, lramp := 8, pwin := [], fmtw := [], tlbinv := 0, tlbRej := false, queues := [], lastServed := 63
    fqbase := 0, fqhead := 0, fqtail := 0, fqCount := 0 }.onTrust fun t =>
    { t with ps := 0, start := 1, step := 1, cold := true, stagger := some 0, psExit := false, trip := false, recLen := 0
             recErr := false, dbgNext := none, baseTemp := [], portDark := false, v65At := t.v65At.map fun _ => 0 }

/-- A warm start begins at step 1. -/
def State.beginWarm (s : State) (dbg : Nat) : State :=
  { s.quiesce.allDies Die.warm with wc := 0 }.onTrust fun t =>
    { t with start := 2, step := 1, cold := false, stagger := some 0, psExit := false, dbgNext := some dbg
             v65At := t.v65At.map fun _ => 0 }

/-- A cold start asked for: refused while the package is too hot after a trip (01 R20). -/
def State.askCold (s : State) : State := if s.trust.trip && s.hot then s else s.beginCold

/-- COLD_START. -/
def execColdStart (cause : StartCause) (s : State) : Host.Outcome State Fault Refusal := event (.coldStart cause) s s.askCold

/-- A warm start asked for: ignored during a start, and outside PS0 (R115, Table 5.8). UNLOCK and LOCK have set the debug state
it leads to. -/
def State.askWarm (s : State) (cause : StartCause) : State :=
  let t := s.trust
  if t.start ≠ 0 ∨ t.ps ≠ 0 then s
  else
    match cause with
    | .unlock | .lock => (match t.dbgNext with | some x => s.beginWarm x | none => s)
    | .flr => (s.onTrust fun t => { t with scopeNext := t.scope }).beginWarm (if t.dbg = 1 then 0 else t.dbg)
    | _ => (s.onTrust fun t => { t with scopeNext := t.scope }).beginWarm t.dbg

/-- WARM_START. -/
def execWarmStart (cause : StartCause) (s : State) : Host.Outcome State Fault Refusal := event (.warmStart cause) s (s.askWarm cause)

/-- FUNCTION_LEVEL_RESET (04 R82, 05 Table 5.8). -/
def execFunctionLevelReset (s : State) : Host.Outcome State Fault Refusal := event .functionLevelReset s (s.askWarm .flr)

/-- PWRCTL_COLD (05 R117). -/
def execPwrctlCold (s : State) : Host.Outcome State Fault Refusal := event .pwrctlCold s s.askCold

/-- START_RETRY_AFTER_TRIP (01 R20, R21). -/
def execStartRetryAfterTrip (s : State) : Host.Outcome State Fault Refusal :=
  event .startRetryAfterTrip s (if s.trust.trip then s.askCold else s)

/-- A failed check ends the start (R113, R114): a warm start turns into a cold one; the third cold start in a row to fail enters
recovery. A cold start that PWRCTL asks for out of recovery and that fails is counted on, beyond what the 2 bits of SECSTAT.FAILCNT show
(R114 stops at three: DESIGN CHOICE, assumption 58). -/
def State.failStart (s : State) (code : Nat) : State :=
  let s := (s.onTrust fun t => { t with lasterr := code }).mgmtEvent
  if !s.trust.cold then s.beginCold
  else
    let n := s.trust.failcnt + 1
    let s := s.onTrust fun t => { t with failcnt := n }
    if 3 ≤ n then
      ((s.quiesce.allDies Die.dark).onTrust fun t => { t with start := 3, step := 0, stagger := none, recImage := [] }).mgmtEvent
    else s.beginCold

/-- The next step begins. -/
def State.nextStep (s : State) : State := s.onTrust fun t => { t with step := t.step + 1 }

/-- Number of the unit after the last that has begun its power-up. -/
def Trust.begun (t : Trust) : Nat := t.stagger.getD staggerEnd

/-- Whether a link of dimensions lo to hi − 1 is training. -/
def State.training (s : State) (lo hi : Nat) : Bool :=
  (List.range 16).any fun i => (List.range 14).any fun d => decide (lo ≤ d ∧ d < hi) && (s.link i d).state == .train

/-- The debug state a start leads to (Table 5.3, step 12). -/
def Trust.dbgAfter (t : Trust) : Nat := if t.faFuse then 2 else if t.cold then 0 else t.dbgNext.getD t.dbg

/-- The ARENA register (04 Table 4.11). -/
def Trust.arenaWord (t : Trust) : W64 := packBits [(26, 30, t.arenaBase.toNat), (56, 8, t.arenaSize.toNat)]

/-- The measurement log begins again with the firmware and the configuration (R112). -/
def State.beginLog (s : State) : State :=
  let t := s.trust
  let conf := toLE 1 t.arenaSize.toNat ++ toLE 1 t.fuseSvn ++ toLE 1 t.dbgAfter ++ toLE 1 t.codefloor ++ List.replicate 4 0
  let s := (s.onTrust fun t => { t with mlog := [] }).measure 1 (toLE 8 t.fwSvn) t.fwHash
  let s := s.measure 2 conf (Config.shake256 (toLE 8 t.arenaWord.toNat ++ conf))
  if t.dbgAfter = 1 ∧ t.dbg = 0 then
    let (b, s) := s.drawBytes 64
    s.measure 7 (toLE 1 t.scopeNext.toNat) b
  else s

/-- The pinned windows after a start: code arena, queue memory, and those of firmware's choice as far as 8 GiB go (08 R212, 04 R99). -/
def Trust.windowsAfter (t : Trust) (more : List (Nat × Nat)) : FMap PWin :=
  let n := max 1 (min 32 t.arenaSize.toNat)
  let all := (more.take 6).foldl (fun ws x => if (ws.map (·.2)).sum + x.2 ≤ 128 then ws ++ [x] else ws) [(0, n), (n, 4)]
  all.zipIdx.map fun x => (x.2, { en := true, base := BitVec.ofNat 26 x.1.1, size := BitVec.ofNat 12 x.1.2 })

/-- Step 11 begins: digests are zero, and fabric time is synchronised (03 R74, R79). -/
def State.beginSync (s : State) : State :=
  let s := s.allDies fun d => { d with links := d.links.map fun l => (l.1, { l.2 with digtx := [], digrx := [] }) }
  (List.range 16).foldl (fun s i => s.again i .ftcSyncPeriod) s

/-- Every node is synchronised that is not the master and has a parent; one without runs free (03 R80). -/
def State.synced (s : State) : Bool :=
  (List.range 16).all fun i => s.nid i == s.master || !(s.die i).fab.unsync || (s.parentDim i).isNone

/-- The last step: the start completes. -/
def State.endStart (s : State) (r : StepResult) : State :=
  let t := s.trust
  let s := { s with
    queues := s.queues.map fun (q : Nat × Queue) => (q.1, { q.2 with en := false })
    contexts := [], objects := [], graphs := [], poolRanges := r.pools, pwin := t.windowsAfter r.windows }
  let s := s.onTrust fun t =>
    { t with dbg := t.dbgAfter, scope := if t.dbgAfter = 1 then t.scopeNext else 0, dbgNext := none, keys := [], locked := false
             start := 0, step := 0, ps := 0, failcnt := if t.cold then 0 else t.failcnt, lasterr := if t.cold then 0 else t.lasterr }
  s.mgmtEvent

/-- The start step in progress completes with what the hardware found (Table 5.3). -/
def State.startStep (s : State) (r : StepResult) : State :=
  let t := s.trust
  if t.start ≠ 1 ∧ t.start ≠ 2 then s
  else
    match t.step with
    | 1 => if r.dieFailed then s.failStart 7 else if staggerBoard ≤ t.begun then s.nextStep else s
    | 2 => if t.cold && r.fuseParity then s.failStart 6 else s.nextStep
    | 3 =>
      let hash := Config.shake256 t.flash
      if t.cold then
        if Config.firmwareSigned t.flash then
          (s.onTrust fun t => { t with fwHash := hash, fwSvn := Config.firmwareSvn t.flash }).nextStep
        else s.failStart 1
      else
        (match t.lookup true hash fun _ => true with
         | .found x => (s.onTrust fun _ => { x with fwHash := hash, fwSvn := Config.firmwareSvn x.flash }).nextStep
         | .stale x => (s.onTrust fun _ => x).failStart 5
         | .none => s.failStart 5)
    | 4 =>
      if !t.cold then (s.onTrust fun t => (t.purge true).purge false).nextStep
      else if t.fwSvn < t.fuseSvn then s.failStart 2
      else
        (s.onTrust fun t =>
          let t := match t.commit with
            | some v => if v ≤ t.fwSvn then { t with fuseSvn := max t.fuseSvn v, commit := none }.purge true else t
            | none => t
          t.addEntry { firmware := true, hash := t.fwHash, svn := t.fwSvn, key := Config.fuse 1 }).nextStep
    | 5 => if r.dramFailed then s.failStart (if t.cold then 3 else 4) else s.nextStep
    | 6 =>
      let kept (a : Nat) : Bool := decide (2 * 2 ^ 52 ≤ a)
      { s with mem := s.mem.filter fun c => kept c.1, poisonLines := s.poisonLines.filter fun l => kept (64 * l), fmtLines := [], remote := [], pool := [] }.nextStep
    | 7 => if t.begun ≤ staggerBoard ∨ s.training 0 7 then s else s.nextStep
    | 8 => if t.stagger.isSome ∨ s.training 7 14 then s else s.nextStep
    | 9 => s.nextStep
    | 10 =>
      if t.cold ∧ !t.faFuse then
        (s.onTrust fun t =>
          { t with idKey := Config.deriveKey (Config.fuse 0) [1]
                   attKey := Config.deriveKey (Config.fuse 0 ++ t.fwHash ++ toLE 1 t.fuseSvn) [2] }).beginSync.nextStep
      else s.beginSync.nextStep
    | 11 => if s.synced then s.beginLog.nextStep else s
    | 12 => s.endStart r
    | _ => s

/-- START_STEP_COMPLETE. -/
def execStartStepComplete (r : StepResult) (s : State) : Host.Outcome State Fault Refusal :=
  event (.startStepComplete r) s (s.startStep r)

/-! ## Staggered power-up (01 R22, R23, Table 1.4) -/

/-- Unit k of Table 1.4 begins its power-up. -/
def State.powerUnit (s : State) (k : Nat) : State :=
  if k < staggerBoard then
    s.onDie (k / 9) fun d =>
      if k % 9 = 0 then { d with powered := true, groups := 0 } else { d with groups := min (k % 9) (if d.half then 4 else 8) }
  else
    let keep : Bool := s.trust.psExit || s.trust.start == 2
    if k = staggerBoard then
      (List.range 16).foldl (fun s i => (List.range 7).foldl (fun s d => s.train i d keep) s) s
    else
      match opticalLinks[k - staggerBoard - 1]? with
      | some (d, i) => s.train i d keep
      | none => s

/-- When unit k begins, in µs from the start of the sequence (Table 1.4). -/
def unitAt (k : Nat) : Nat :=
  if k < staggerBoard then 16 * (k / 9) + (if k % 9 = 0 then 0 else 3 + k % 9)
  else if k = staggerBoard then 256
  else 256 + 20 * (k - staggerBoard - 1)

/-- Whether unit k is a laser that is lit outside a start: it takes a lighting slot (R24). -/
def State.unitLights (s : State) (k : Nat) : Bool :=
  decide (staggerBoard < k) && (match opticalLinks[k - staggerBoard - 1]? with
    | some (d, i) => (s.link i d).enable && (s.link i d).state == .off
    | none => false)

/-- STAGGERED_POWER_UP: a unit begins no earlier than Table 1.4 gives; board ports wait for step 7 of a start, lasers for step 8. -/
def State.powerUp (s : State) : State :=
  match s.trust.stagger with
  | none => s
  | some k =>
    let need := if k < staggerBoard then 1 else if k = staggerBoard then 7 else 8
    let starting : Bool := s.trust.start == 1 || s.trust.start == 2
    let lights : Bool := !starting && s.unitLights k
    if starting && decide (s.trust.step < need) then s
    else if k ≠ 0 ∧ s.wc < s.trust.staggerAt + 2000 * unitAt k then s
    else if lights && !s.slotOpen then s
    else
      let s := if lights then { s with lastLight := some (s.ftc 0) } else s
      (s.powerUnit k).onTrust fun t =>
        { t with stagger := if k + 1 = staggerEnd then none else some (k + 1), staggerAt := s.wc - 2000 * unitAt k }

def execStaggeredPowerUp (s : State) : Host.Outcome State Fault Refusal := event .staggeredPowerUp s s.powerUp

/-! ## Power states (05 R121 to R124) -/

/-- Whether SETPS 1 or 2 of queue q completes INUSE. -/
def State.psInUse (s : State) (q : Nat) : Bool :=
  !s.replays.isEmpty
    || ((List.range 16).any fun i => (s.die i).task.isSome)
    || (s.saved.any fun v => match v.kind with | .resident _ => true | .full => false)
    || ((List.range 64).any fun k => k != q && !(s.queue k).idle)
    || (s.queue q).head != (s.queue q).tail

/-- A die loses power in PS2. -/
def Die.unpower (d : Die) : Die :=
  { d with c := {}, seq := {}, cnt := {}, gallery := [], tags := [], l1 := [], tlb := [], preload := none, load := none, prefs := [], dbgBlock := {}, gang := none
           lastCtx := none, powered := false, groups := 0 }

/-- The package enters PS2: the L1s are flushed, the dies lose power, and the links go to the states of Table 5.7. -/
def State.enterPs2 (s : State) : State :=
  let s := s.kernelBoundary.allDies Die.unpower
  let s := { s with fused := [] }.onTrust fun t => { t with ps := 2, stagger := none }
  (List.range 16).foldl (fun s i => ([4, 5, 6, 7, 8, 9, 10, 11, 12, 13] : List Nat).foldl (fun s d =>
    (s.onLink i d fun l =>
      { l.quiet with state := if l.state = .dead then .dead else if d < 7 ∨ !l.enable then .down else .off
                     ls := if d < 7 ∨ !l.enable then l.ls else 3 }).announce i d) s) s

/-- SETPS 1 or 2: the completion is written, then the package enters the state. -/
def State.setPs (s : State) (n : Nat) (enter : State → State) : State :=
  match s.command? s.unit 8 with
  | none => s
  | some _ => if n < 3 ∧ s.psInUse s.unit then s.finish s.unit 0x19 s.trust.ps else enter (s.finish s.unit 0 n)

/-- SETPS_PS1. -/
def execSetpsPs1 (s : State) : Host.Outcome State Fault Refusal := queueEvent s (s.setPs 1 fun s => s.onTrust fun t => { t with ps := 1 })
/-- SETPS_PS2. -/
def execSetpsPs2 (s : State) : Host.Outcome State Fault Refusal := queueEvent s (s.setPs 2 State.enterPs2)
/-- SETPS_PS3. -/
def execSetpsPs3 (s : State) : Host.Outcome State Fault Refusal := queueEvent s (s.setPs 3 State.enterPs3)

/-- PS_EXIT_COMPLETE: PS2 is left once its dies and the board and in-package links are up; optical links follow. -/
def execPsExitComplete (s : State) : Host.Outcome State Fault Refusal :=
  event .psExitComplete s <|
    if !s.trust.psExit then s
    else if s.trust.ps = 2 ∧ (s.trust.begun ≤ staggerBoard ∨ s.training 0 7) then s
    else (s.onTrust fun t => { t with ps := 0, psExit := false }).again 0 .queueSelect

/-! ## Recovery (R116) -/

/-- RECCTL_GO: LEN and ERR are written; GO submits the image in recovery. A LEN above 32 MiB sets ERR too: R116 names ERR for the signature and
the version alone (DESIGN CHOICE, assumption 58). -/
def execRecctlGo (v : W64) (s : State) : Host.Outcome State Fault Refusal :=
  event (.recctlGo v) s <|
    let s := s.onTrust fun t => { t with recLen := v.extractLsb' 0 26, recErr := t.recErr && !v.getLsbD 30 }
    let t := s.trust
    if !v.getLsbD 31 ∨ t.start ≠ 3 then s
    else
      let image := (List.range t.recLen.toNat).map fun k => t.recImage.get 0 k
      if 2 ^ 25 < t.recLen.toNat ∨ !Config.firmwareSigned image ∨ Config.firmwareSvn image < t.fuseSvn then
        s.onTrust fun t => { t with recErr := true }
      else
        (s.onTrust fun t =>
          { t with flash := image, failcnt := 0, cache := t.cache.filter fun e => !e.firmware }.addEntry
            { firmware := true, hash := Config.shake256 image, svn := Config.firmwareSvn image, key := Config.fuse 1 }).beginCold

/-- VECTOR_65_INTERVAL_END (04 R83): 10 µs are 20,000 wall cycles. -/
def execVector65IntervalEnd (s : State) : Host.Outcome State Fault Refusal :=
  event .vector65IntervalEnd s <|
    match s.trust.v65At with
    | none => s
    | some t =>
      if s.wc < t + 20000 then s.again 0 .vector65IntervalEnd
      else if s.trust.v65Pending && !s.trust.portDark then
        ((s.raise 65).onTrust fun t => { t with v65At := some s.wc, v65Pending := false }).again 0 .vector65IntervalEnd
      else s.onTrust fun t => { t with v65At := none, v65Pending := false }

end Sys2Proof.Machine
end

