-- ==== Sys2Proof/Machine/Manage.lean ====
section
/-! DEFINITION. Management and attestation commands (05 R108, R109, R118 to R120, R125 to R127). -/

namespace Sys2Proof.Machine

/-! ## Keys and floors (R108, R109, R111) -/

/-- KEYREG. -/
def execKeyreg (s : State) : Host.Outcome State Fault Refusal :=
  queueEvent s <|
    match s.command? s.unit 8 with
    | none => s
    | some c =>
      let slot := c.arg 24 8
      match if s.trust.locked ∨ 8 ≤ slot then none else s.outside (c.arg 16 8) 1793 with
      | none => s.fails s.unit 0x11
      | some key =>
        let s := (s.onTrust fun t => { t with keys := t.keys.set slot key }).measure 4 (toLE 8 slot) (Config.shake256 key)
        s.finish s.unit 0 0

/-- KEYLOCK. -/
def execKeylock (s : State) : Host.Outcome State Fault Refusal :=
  queueEvent s <|
    match s.command? s.unit 8 with
    | none => s
    | some _ =>
      let (b, s) := s.drawBytes 64
      ((s.onTrust fun t => { t with locked := true }).measure 5 [] b).finish s.unit 0 0

/-- CODEFLOOR. -/
def execCodefloor (s : State) : Host.Outcome State Fault Refusal :=
  queueEvent s <|
    match s.command? s.unit 8 with
    | none => s
    | some c =>
      let v := c.arg 24 8
      if 255 < v ∨ v < s.trust.codefloor then s.fails s.unit 0x11
      else
        let (b, s) := s.drawBytes 64
        ((s.onTrust fun t => { t with codefloor := v }.purge false).measure 6 (toLE 8 v) b).finish s.unit 0 v

/-- FWUPDATE: the image is used at the next start. -/
def execFwupdate (s : State) : Host.Outcome State Fault Refusal :=
  queueEvent s <|
    match s.command? s.unit 8 with
    | none => s
    | some c =>
      match if 2 ^ 25 < c.arg 24 8 then none else s.outside (c.arg 16 8) (c.arg 24 8) with
      | none => s.fails s.unit 0x11
      | some image =>
        if !Config.firmwareSigned image then s.fails s.unit 0x13
        else if Config.firmwareSvn image < s.trust.fuseSvn then s.fails s.unit 0x14
        else
          (s.onTrust fun t => { t with flash := image }.addEntry
            { firmware := true, hash := Config.shake256 image, svn := Config.firmwareSvn image, key := Config.fuse 1 }).finish s.unit 0 0

/-- SVNCOMMIT. -/
def execSvncommit (s : State) : Host.Outcome State Fault Refusal :=
  queueEvent s <|
    match s.command? s.unit 8 with
    | none => s
    | some c =>
      let v := c.arg 24 8
      if s.trust.fwSvn < v ∨ v < s.trust.fuseSvn then s.fails s.unit 0x11
      else (s.onTrust fun t => { t with commit := some v }).finish s.unit 0 v

/-! ## Starts by command (R118) -/

/-- MGMT WARMSTART: its completion is written, then the start begins. -/
def execMgmtWarmstart (s : State) : Host.Outcome State Fault Refusal :=
  queueEvent s (if (s.command? s.unit 8).isSome then (s.finish s.unit 0 0).askWarm .mgmtWarm else s)

/-- MGMT COLDSTART. -/
def execMgmtColdstart (s : State) : Host.Outcome State Fault Refusal :=
  queueEvent s (if (s.command? s.unit 8).isSome then (s.finish s.unit 0 0).askCold else s)

/-! ## Debug transitions (R119, R126, Table 5.8) -/

/-- NONCE. -/
def execMgmtNonce (s : State) : Host.Outcome State Fault Refusal :=
  queueEvent s <|
    match s.command? s.unit 8 with
    | none => s
    | some _ =>
      let (b, s) := s.drawBytes 8
      (s.onTrust fun t => { t with nonce := some (BitVec.ofNat 64 (ofLE b)) }).finish s.unit 0 (ofLE b)

/-- Whether a token is good: its nonce, kind, key hash and signature; the key in fuses is known by its hash. One with a bit set that
R119 gives as zero is not: it completes SIG_FAIL (DESIGN CHOICE, assumption 58). -/
def Trust.tokenGood (t : Trust) (kind : Nat) (b : List Byte) : Bool :=
  t.nonce == some (BitVec.ofNat 64 (field b 0 8)) && field b 8 1 == kind && decide (field b 9 1 < 8) && field b 10 6 == 0
    && (b.drop 16).take 64 == Config.shake256 (Config.publicKey t.idKey)
    && Config.falconVerify (Config.fuse 2) (b.take 80) ((b.drop 80).take 1280)

/-- UNLOCK and FAENTER: the transition, then the token, which consumes the nonce; then the completion and the act. -/
def State.withToken (s : State) (kind : Nat) (listed : Bool) (act : State → List Byte → State) : State :=
  match s.command? s.unit 8 with
  | none => s
  | some c =>
    match if !listed ∨ c.arg 24 8 ≠ 1360 then none else s.outside (c.arg 16 8) 1360 with
    | none => s.fails s.unit 0x11
    | some b =>
      let good := s.trust.tokenGood kind b
      let s := s.onTrust fun t => { t with nonce := none }
      if good then act (s.finish s.unit 0 0) b else s.fails s.unit 0x13

/-- MGMT UNLOCK. -/
def execMgmtUnlock (s : State) : Host.Outcome State Fault Refusal :=
  queueEvent s <| s.withToken 1 (s.trust.dbg == 0) fun s b =>
    (s.onTrust fun t => { t with dbgNext := some 1, scopeNext := BitVec.ofNat 3 (field b 9 1) }).askWarm .unlock

/-- MGMT LOCK. -/
def execMgmtLock (s : State) : Host.Outcome State Fault Refusal :=
  queueEvent s <|
    match s.command? s.unit 8 with
    | none => s
    | some _ =>
      if s.trust.dbg ≠ 1 then s.fails s.unit 0x11
      else ((s.finish s.unit 0 0).onTrust fun t => { t with dbgNext := some 0 }).askWarm .lock

/-- MGMT FAENTER: the fuse is blown, and no key can be derived again (R125). -/
def execMgmtFaenter (s : State) : Host.Outcome State Fault Refusal :=
  queueEvent s <| s.withToken 2 (s.trust.dbg != 2) fun s _ =>
    (s.onTrust fun t => { t with faFuse := true, idKey := [], attKey := [], keys := [] }).askCold

/-! ## Attestation (R120) -/

/-- The report. -/
def Trust.report (t : Trust) (nonce : List Byte) : List Byte :=
  let head := toLE 2 1 ++ toLE 1 t.dbg ++ toLE 1 0 ++ toLE 1 t.fuseSvn ++ toLE 1 t.codefloor ++ toLE 1 0 ++ toLE 1 (b2n t.locked)
    ++ padTo 32 nonce ++ Config.shake256 (Config.publicKey t.idKey) ++ padTo 64 t.running ++ toLE 4 t.mlog.length ++ toLE 4 0
  let body := head ++ t.mlog.flatten
  if t.dbg = 2 then body ++ List.replicate (1793 + 2 * 1280) 0
  else
    let pub := Config.publicKey t.attKey
    let body := body ++ pub ++ Config.falconSign t.idKey pub
    body ++ Config.falconSign t.attKey body

/-- ATTEST. -/
def execAttest (s : State) : Host.Outcome State Fault Refusal :=
  queueEvent s <|
    match s.command? s.unit 9 with
    | none => s
    | some c =>
      let len := 4529 + 80 * s.trust.mlog.length
      match s.outside (c.arg 8 8) 32, if c.arg 24 4 < len then none else s.outside (c.arg 16 8) len with
      | some nonce, some _ => (s.homeWrite (placeAt (c.arg 16 8) (s.trust.report nonce))).finish s.unit 0 len
      | _, _ => s.fails s.unit 0x11

end Sys2Proof.Machine
end

