-- ==== Sys2Proof/Machine/DebugBlock.lean ====
section
/-! DEFINITION. The debug block of a die (10 R272, R273, R275, Table 10.10): halts, resumes, steps, and access to the registers
of a halted die. -/

namespace Sys2Proof.Machine

/-- Whether the debug block answers: in Failure-analysis, or in Debug-unlocked with scope bit 0, and bit 1 where `access`. -/
def State.debugOk (s : State) (access : Bool) : Bool :=
  s.trust.dbg == 2 || (s.trust.dbg == 1 && s.trust.scope.getLsbD 0 && (!access || s.trust.scope.getLsbD 1))

/-- Ask a die to halt. -/
def State.askHalt (s : State) (y reason : Nat) : State :=
  s.onDie y fun d =>
    if d.dbgBlock.halted || !d.powered then d else d.onSeq fun q => { q with haltReq := q.haltReq.or (some reason) }

/-- DEBUG_HALT of die `unit`. -/
def execDebugHalt (s : State) : Host.Outcome State Fault Refusal :=
  dieEvent s (if s.debugOk false then s.askHalt s.unit 1 else s)

/-- HALT_CASCADE_NOTICE of die `unit`: it halts, and forwards the notice once it has (R275). A notice from another package names no die of
this one: the cascade has no origin here but 16. -/
def execHaltCascadeNotice (s : State) : Host.Outcome State Fault Refusal :=
  dieEvent s <|
    let s := s.onDie s.unit fun d => if d.dbgBlock.halted || !d.powered then d else d.onDebug fun b => { b with origin := b.origin.or (some 16) }
    s.askHalt s.unit 2

/-- A halted die goes on: what arrived is replayed, and its timers run again (R273). A breakpoint on the bundle it stands at does
not halt it again before that bundle issues. -/
def State.unhalt (s : State) (y : Nat) (stepping : Bool) : State :=
  let d := s.die y
  if !d.dbgBlock.halted then s
  else
    let now := s.ftc y
    let s := s.onDie y fun d =>
      { d with c := d.c.turnTimers now
               task := d.task.map fun t => if t.started then t.run now else t
               dbgBlock := { d.dbgBlock with halted := false, reason := 0, log := [], origin := none, stepping, pass := some d.seq.pc } }
    let s := if d.dbgBlock.log.isEmpty then s else s.writeIf (s.ctxOn y) d.c.logbase (List.replicate 8 0)
    let s := (s.replayLog y d.dbgBlock.log).again y .taskDispatch
    if (match d.task with | some t => t.budget != 0 | none => false) then s.again y .budgetOverrun else s

/-- DEBUG_RESUME of die `unit`: with GROUP, every die that the same cascade halted. -/
def execDebugResume (s : State) : Host.Outcome State Fault Refusal :=
  dieEvent s <|
    let d := s.die s.unit
    if !s.debugOk false ∨ !d.dbgBlock.halted then s
    else
      let same (y : Nat) : Bool := y == s.unit || (d.dbgBlock.group && d.dbgBlock.origin.isSome && (s.die y).dbgBlock.origin == d.dbgBlock.origin)
      ((List.range 16).filter same).foldl (fun s y => s.unhalt y false) s

/-- DEBUG_STEP of die `unit`. -/
def execDebugStep (s : State) : Host.Outcome State Fault Refusal :=
  dieEvent s (if s.debugOk false then s.unhalt s.unit true else s)

/-! ## DBGDATA (Table 10.10) -/

/-- The word a die's FILE, INDEX and WORD select. -/
def State.dbgWord (s : State) (y : Nat) : W64 :=
  let d := s.die y
  let c := d.c
  let n := d.dbgBlock.index.toNat
  let w := d.dbgBlock.word.toNat
  let part {k : Nat} (x : BitVec k) : W64 := BitVec.ofNat 64 (x.toNat / 2 ^ (64 * w))
  match d.dbgBlock.file.toNat with
  | 0 => if n < 64 ∧ w = 0 then c.sreg n else 0
  | 1 => if n < 32 then part (c.areg n) else 0
  | 2 => if n < 32 then part (c.v.get 0 n) else 0
  | 3 => if n < 16 ∧ w = 0 then BitVec.ofNat 64 (b2n (c.preg n)) else 0
  | 4 => if n < 8 then part (c.k.get 0 n) else 0
  | 5 => if n < 8 then (match w with | 0 => (c.hreg n).req | 1 => (c.hreg n).grant | _ => 0) else 0
  | 6 => part (s.sysRead y n)
  | 7 => if n < 2048 ∧ w = 0 then BitVec.ofNat 64 (ofLE ((List.range 8).map fun k => c.alcoveByte (8 * n + k))) else 0
  | _ => 0

/-- A register with one 64-bit word replaced. -/
def withWord {k : Nat} (x : BitVec k) (w : Nat) (v : W64) : BitVec k :=
  BitVec.ofNat k (x.toNat - x.toNat / 2 ^ (64 * w) % 2 ^ 64 * 2 ^ (64 * w) + v.toNat * 2 ^ (64 * w))

/-- A write of the selected word; read-only registers keep their values. -/
def Die.dbgWrite (d : Die) (sys : W72) (v : W64) : Die :=
  let c := d.c
  let n := d.dbgBlock.index.toNat
  let w := d.dbgBlock.word.toNat
  match d.dbgBlock.file.toNat with
  | 0 => if n < 64 ∧ w = 0 then d.onC fun c => c.writeReg (.s n v) else d
  | 1 => if n < 32 ∧ w < 2 then d.onC fun _ => c.writeReg (.a n (withWord (c.areg n) w v)) else d
  | 2 => if n < 32 ∧ w < 32 then d.onC fun _ => c.writeReg (.v n (withWord (c.v.get 0 n) w v) (BitVec.allOnes 2048)) else d
  | 3 => if n < 16 ∧ w = 0 then d.onC fun _ => c.writeReg (.p n (v.getLsbD 0)) else d
  | 4 => if n < 8 ∧ w < 8 then d.onC fun _ => c.writeReg (.k n (withWord (c.k.get 0 n) w v) (BitVec.allOnes 512)) else d
  | 5 =>
    if n < 8 ∧ w = 0 then d.onC fun _ => c.writeReg (.h n { c.hreg n with req := v })
    else if n < 8 ∧ w = 1 then d.onC fun _ => c.writeReg (.h n { c.hreg n with grant := v })
    else d
  | 6 => if w < 2 then d.sysWrite n (withWord sys w v) else d
  | 7 =>
    if n < 2048 ∧ w = 0 then
      d.onC fun c => { c with alcove := (toLE 8 v.toNat).zipIdx.foldl (fun m b => m.set (8 * n + b.2) b.1) c.alcove }
    else d
  | _ => d

/-- DBGDATA_ACCESS: a read (none) or a write of DBGDATA. -/
def execDbgdataAccess (die : Nat) (v : Option W64) (s : State) : Host.Outcome State Fault Refusal :=
  event (.dbgdataAccess die v) s <|
    if !s.debugOk true then s
    else if !(s.die die).dbgBlock.halted then s.onDie die fun d => d.onDebug fun b => { b with accerr := true }
    else
      match v with
      | none => s
      | some x => s.onDie die fun d => d.dbgWrite (s.sysRead die d.dbgBlock.index.toNat) x

end Sys2Proof.Machine
end

