-- ==== Sys2Proof/Machine/Registers.lean ====
section
/-! DEFINITION. The registers of BAR0 as the host reads and writes them (04 R85, Table 4.2, 00 R6 R7), and host writes through
BAR2 and to host memory. A register write with an effect of its own does what that effect's row does, so that the host's writes
act in the order in which they come. -/

namespace Sys2Proof.Machine

/-! ## Reads -/

/-- LSTAT.STATE. -/
def LinkState.code : LinkState → Nat
  | .down => 0 | .train => 1 | .active => 2 | .remap => 3 | .dead => 4 | .off => 5

/-- A word of a link block (02 Tables 2.6 to 2.17, 03 Tables 3.7, 3.8). -/
def Link.word (l : Link) (d r : Nat) : W64 :=
  let optical : Bool := decide (7 ≤ d)
  if r = 0 then packBits [(0, 1, b2n l.enable), (1, 1, b2n (l.fastwake && optical)), (4, 4, l.minw.toNat), (8, 2, l.lsset.toNat)]
  else if r = 8 then
    packBits [(0, 3, l.state.code), (3, 2, l.ls), (5, 5, lanesIn l.txmap), (10, 5, lanesIn l.rxmap), (15, 1, b2n l.lsbusy)
             , (16, 1, b2n l.lsrej), (17, 1, b2n l.maprej), (18, 1, b2n l.polrej), (19, 1, b2n l.deadev), (20, 2, l.restarts)]
  else if r = 0x10 then packBits [(0, 16, l.txmap.toNat), (16, 16, l.rxmap.toNat), (32, 16, l.propose.toNat)]
  else if r = 0x18 then packBits [(0, 16, l.crcerr), (16, 16, l.replays), (32, 16, l.remaps), (48, 16, l.uncorr)]
  else if r = 0x20 then packBits [(0, 32, l.flits), (32, 16, l.qmax)]
  else if r = 0x28 then (if optical then l.lpol else 0)
  else if r = 0x30 then
    packBits [(0, 4, l.ddim.toNat), (4, 1, b2n l.den), (5, 1, b2n l.dactive), (6, 1, b2n l.draining), (7, 1, b2n l.dfail)
             , (8, 1, b2n l.wrej)]
  else if 0x100 ≤ r ∧ r < 0x300 then
    let h := l.lanes.get {} ((r - 0x100) / 32)
    match r % 32 with
    | 0 => if optical then packBits [(0, 16, h.rxpwr.toNat), (16, 16, h.bias.toNat)] else 0
    | 8 => if optical then packBits [(0, 12, h.heater.toNat), (12, 16, h.ringt.toNat), (28, 1, b2n h.lock)] else 0
    | 16 => packBits [(0, 8, h.berm.toNat), (8, 6, h.bere.toNat), (16, 8, h.eyeh.toNat), (24, 8, h.eyew.toNat), (32, 1, b2n h.fail)]
    | 24 => packBits [(0, 32, h.corr.toNat), (32, 16, h.uncw.toNat), (48, 16, h.loss.toNat)]
    | _ => 0
  else if 0x400 ≤ r ∧ r < 0x440 then
    match r % 16 with
    | 0 => l.digtx.get 0 ((r - 0x400) / 16)
    | 8 => l.digrx.get 0 ((r - 0x400) / 16)
    | _ => 0
  else 0

/-- A word of a node fabric block (03 Tables 3.9 to 3.11). -/
def Fabric.word (f : Fabric) (r : Nat) : W64 :=
  match r with
  | 0 => packBits [(0, 16, f.e2eto.toNat), (16, 4, f.e2erty.toNat), (20, 1, b2n f.ftcm)]
  | 8 => packBits [(0, 16, f.dups), (16, 16, f.detdrop), (32, 8, f.noreach), (40, 16, f.badpkt)]
  | 16 => packBits [(0, 1, b2n f.unsync), (1, 4, f.parent.toNat), (5, 32, f.offset.toNat), (37, 16, f.steps.toNat)]
  | _ => 0

/-- A word of a debug block (10 Table 10.10). -/
def State.debugWord (s : State) (y r : Nat) : W64 :=
  let b := (s.die y).dbgBlock
  if !s.debugOk false then 0
  else
    match r with
    | 0 => packBits [(3, 1, b2n b.group), (4, 1, b2n b.halted), (5, 3, b.reason), (8, 1, b2n b.accerr)]
    | 8 => packBits [(0, 56, b.brk.toNat), (63, 1, b2n b.brken)]
    | 16 => if s.debugOk true then packBits [(0, 8, b.file.toNat), (8, 12, b.index.toNat), (20, 8, b.word.toNat)] else 0
    | 24 => if s.debugOk true && b.halted then s.dbgWord y else 0
    | _ => 0

/-- A word of queue q's registers (04 Tables 4.3 to 4.5). -/
def Queue.word (x : Queue) (r : Nat) : W64 :=
  match r with
  | 0 => packBits [(0, 1, b2n x.en), (1, 3, x.prio.toNat), (4, 4, x.log2n.toNat)]
  | 8 => packBits [(12, 16, x.off.toNat)]
  | 16 => packBits [(4, 60, x.cpl.toNat)]
  | 24 => packBits [(0, 15, x.head.toNat)]
  | 32 => packBits [(0, 15, x.tail.toNat)]
  | 40 => packBits [(0, 1, b2n x.idle), (1, 1, b2n x.blocked), (2, 1, b2n x.cfgrej), (3, 1, b2n x.dberr), (4, 1, b2n x.halted)]
  | _ => 0

/-- SECSTAT (05 Table 5.5). -/
def Trust.secstat (t : Trust) : W64 :=
  packBits [(0, 2, t.ps), (2, 2, t.dbg), (4, 3, t.start), (7, 2, t.failcnt), (16, 8, t.fuseSvn), (24, 8, t.codefloor), (32, 8, t.lasterr)
           , (40, 1, b2n t.commit.isSome)]

/-- A word of a format window (08 Table 8.10). -/
def Fmtw.word (x : Fmtw) (r : Nat) : W64 :=
  match r with
  | 0 => packBits [(0, 1, b2n x.en), (1, 1, b2n x.bs8), (2, 1, b2n x.bf16)]
  | 8 => packBits [(16, 36, x.obase.toNat), (52, 12, x.osize.toNat)]
  | 16 => packBits [(0, 52, x.dbase.toNat)]
  | 24 => packBits [(0, 52, x.sbase.toNat)]
  | _ => 0

/-- A word of the package host registers, from 0x0304_0000 on; those that stay reachable in every state (05 R117). -/
def State.hostWord (s : State) (r : Nat) : W64 :=
  if r = 0 then s.trust.arenaWord
  else if r = 8 then packBits [(5, 59, s.fqbase.toNat)]
  else if r = 0x10 then packBits [(0, 12, s.fqhead.toNat), (12, 12, s.fqtail.toNat), (24, 1, b2n s.ringFull)]
  else if r = 0x18 then s.trust.secstat
  else if r = 0x20 then packBits [(0, 26, s.trust.recLen.toNat), (30, 1, b2n s.trust.recErr)]
  else if r = 0x38 then packBits [(0, 1, b2n s.tlbBusy.isSome), (1, 1, b2n s.tlbRej)]
  else if 0x40 ≤ r ∧ r < 0x80 then
    let w := s.pwin.get {} ((r - 0x40) / 8)
    packBits [(0, 1, b2n w.en), (26, 26, w.base.toNat), (52, 12, w.size.toNat)]
  else if 0x100 ≤ r ∧ r < 0x300 then (s.fmt ((r - 0x100) / 32)).word (r % 32)
  else 0

/-- Which register an offset of BAR0 names. -/
inductive RegAt where
  | laser (r : Nat) | link (die dim r : Nat) | fabric (die r : Nat) | dbgBlock (die r : Nat) | queue (q r : Nat) | host (r : Nat) | none
  deriving DecidableEq, Repr

/-- The register at an 8-byte aligned offset of BAR0. -/
def regAt (off : Nat) : RegAt :=
  if 0x00F00000 ≤ off ∧ off < 0x00F00010 then .laser (off - 0x00F00000)
  else if 0x01000000 ≤ off ∧ off < 0x01000000 + 224 * 0x1000 then
    let k := (off - 0x01000000) / 0x1000
    .link (k % 16) (k / 16) (off % 0x1000)
  else if 0x02000000 ≤ off ∧ off < 0x02010000 then .fabric ((off - 0x02000000) / 0x1000) (off % 0x1000)
  else if 0x02800000 ≤ off ∧ off < 0x02810000 then .dbgBlock ((off - 0x02800000) / 0x1000) (off % 0x1000)
  else if 0x03000000 ≤ off ∧ off < 0x03004000 then .queue ((off - 0x03000000) / 0x100) (off % 0x100)
  else if 0x03040000 ≤ off ∧ off < 0x03041000 then .host (off - 0x03040000)
  else .none

/-- Whether a register answers in the package's present state: nothing does while the host port is without power (05 R117). -/
def State.answers (s : State) (a : RegAt) : Bool :=
  !s.trust.portDark && ((s.trust.ps != 3 && s.trust.start != 3) || a == .host 0x18 || a == .host 0x20 || a == .host 0x28)

/-- The 8-byte word at an offset of BAR0 (04 R85). -/
def State.regRead (s : State) (off : Nat) : W64 :=
  let a := regAt off
  if !s.answers a then 0
  else
    match a with
    | .laser 0 => packBits [(0, 10, s.lpwin.toNat)]
    | .laser _ => packBits [(0, 7, s.lramp.toNat)]
    | .link i d r => (s.link i d).word d r
    | .fabric i r => (s.die i).fab.word r
    | .dbgBlock i r => s.debugWord i r
    | .queue q r => (s.queue q).word r
    | .host r => s.hostWord r
    | .none => 0

/-- A host read of n bytes at an offset of a BAR (04 R85): BAR0 in 4 or 8 aligned bytes, other sizes give all ones; BAR2 is queue
memory, or the image buffer in recovery (05 R116); BAR4 reads zero. -/
def State.hostRead (s : State) (bar off n : Nat) : List Byte :=
  match bar with
  | 0 =>
    if (n = 4 ∧ off % 4 = 0) ∨ (n = 8 ∧ off % 8 = 0) then ((toLE 8 (s.regRead (off / 8 * 8)).toNat).drop (off % 8)).take n
    else List.replicate n 0xFF
  | 2 =>
    if s.trust.start = 3 then (List.range n).map fun k => s.trust.recImage.get 0 (off + k)
    else (List.range n).map fun k => s.homeByte (s.queueMem + off + k)
  | _ => List.replicate n 0

/-! ## Writes -/

/-- What the row of an effect leads to. -/
def State.does (s : State) (r : Host.Outcome State Fault Refusal) : State :=
  match r with
  | .next t => t
  | _ => s

/-- What a write brings: the word with the bytes not written as they read, and the bits written as 1. -/
structure Written where
  m : W64
  ones : W64
  /-- byte 1 is written -/
  byte1 : Bool

/-- A write of a link block. -/
def State.writeLink (s : State) (i d r : Nat) (w : Written) : State :=
  let optical : Bool := decide (7 ≤ d)
  if r = 0 then
    let l := s.link i d
    let s := s.onLink i d fun l => { l with fastwake := if optical then w.m.getLsbD 1 else l.fastwake, minw := w.m.extractLsb' 4 4 }
    let s := if optical && w.m.getLsbD 1 && !l.fastwake then s.wakeWaiting i d else s
    let s := if w.m.getLsbD 0 = l.enable then s else s.does (execLctlEnable i d (w.m.getLsbD 0) s)
    let s := if w.ones.getLsbD 2 then s.does (execLctlRemap i d s) else s
    let s := if w.ones.getLsbD 3 then s.does (execLctlClrcnt i d s) else s
    let ls := w.m.extractLsb' 8 2
    if optical && w.byte1 && (l.lsbusy || ls != l.lsset || ls.toNat != l.ls) then s.does (execLctlLsset i d ls s) else s
  else if r = 8 then
    s.onLink i d fun l => { l with lsrej := l.lsrej && !w.ones.getLsbD 16, maprej := l.maprej && !w.ones.getLsbD 17
                                   polrej := l.polrej && !w.ones.getLsbD 18, deadev := l.deadev && !w.ones.getLsbD 19 }
  else if r = 0x10 then s.onLink i d fun l => { l with propose := w.m.extractLsb' 32 16 }
  else if r = 0x28 then (if optical then s.does (execLpolWrite i d w.m s) else s)
  else if r = 0x30 then s.does (execDetourWrite i d ((w.m &&& ~~~0x180) ||| (w.ones &&& 0x180)) s)
  else if r = 0x440 then (if w.ones.getLsbD 0 then s.does (execDigclr i d s) else s)
  else s

/-- A write of a node fabric block. -/
def State.writeFabric (s : State) (i r : Nat) (w : Written) : State :=
  if r = 0 then s.onDie i fun d => d.onFab fun f =>
    { f with e2eto := w.m.extractLsb' 0 16, e2erty := w.m.extractLsb' 16 4, ftcm := w.m.getLsbD 20 }
  else if r = 8 ∧ w.ones.getLsbD 56 then s.does (execFstatClr { s with unit := i })
  else s

/-- A write of a debug block. -/
def State.writeDebug (s : State) (i r : Nat) (w : Written) : State :=
  if !s.debugOk false then s
  else if r = 0 then
    let s := s.onDie i fun d => d.onDebug fun b => { b with group := w.m.getLsbD 3, accerr := b.accerr && !w.ones.getLsbD 8 }
    let s := if w.ones.getLsbD 0 then s.does (execDebugHalt { s with unit := i }) else s
    let s := if w.ones.getLsbD 1 then s.does (execDebugResume { s with unit := i }) else s
    if w.ones.getLsbD 2 then s.does (execDebugStep { s with unit := i }) else s
  else if r = 8 then s.onDie i fun d => d.onDebug fun b => { b with brk := w.m.extractLsb' 0 56, brken := w.m.getLsbD 63 }
  else if r = 16 ∧ s.debugOk true then s.onDie i fun d => d.onDebug fun b =>
    { b with file := w.m.extractLsb' 0 8, index := w.m.extractLsb' 8 12, word := w.m.extractLsb' 20 8 }
  else if r = 24 ∧ s.debugOk true then s.does (execDbgdataAccess i (some w.m) s)
  else s

/-- A write of a queue's registers (04 R88). -/
def State.writeQueue (s : State) (q r : Nat) (w : Written) : State :=
  if r = 0 then s.does (execQctlWrite q w.m s)
  else if r = 8 then
    let off := w.m.extractLsb' 12 16
    s.onQueue q fun x => if x.en then { x with cfgrej := x.cfgrej || off != x.off } else { x with off }
  else if r = 16 then
    let cpl := w.m.extractLsb' 4 60
    s.onQueue q fun x => if x.en then { x with cfgrej := x.cfgrej || cpl != x.cpl } else { x with cpl }
  else if r = 40 then
    let s := s.onQueue q fun x => { x with cfgrej := x.cfgrej && !w.ones.getLsbD 2, dberr := x.dberr && !w.ones.getLsbD 3 }
    if w.ones.getLsbD 4 then s.does (execQstatHaltedResume { s with unit := q }) else s
  else s

/-- A write of a format window (08 Table 8.10). -/
def State.writeFmtw (s : State) (k r : Nat) (w : Written) : State :=
  let x := s.fmt k
  if r = 0 then
    if w.m.getLsbD 0 then (if x.en || x.enabling then s else s.does (execFmtwEnable k w.m s))
    else if x.en then s.does (execFmtwRetire k s)
    else if x.enabling then s
    else s.onFmt k fun x => { x with bs8 := w.m.getLsbD 1, bf16 := w.m.getLsbD 2 }
  else if x.en || x.enabling then s
  else if r = 8 then s.onFmt k fun x => { x with obase := w.m.extractLsb' 16 36, osize := w.m.extractLsb' 52 12 }
  else if r = 16 then s.onFmt k fun x => { x with dbase := w.m.extractLsb' 0 52 }
  else if r = 24 then s.onFmt k fun x => { x with sbase := w.m.extractLsb' 0 52 }
  else s

/-- A write of the package host registers. A 4-byte write of FQCTL's low half that sets RSEN names record 0: what is not written of
RESUME counts as 0 (DESIGN CHOICE, assumption 58). -/
def State.writeHost (s : State) (r : Nat) (w : Written) : State :=
  if r = 0 then s.onTrust fun t => { t with arenaSize := w.m.extractLsb' 56 8 }
  else if r = 8 then { s with fqbase := w.m.extractLsb' 5 59 }
  else if r = 0x10 then
    let s := State.ringFlush s.fqWait.length { s with fqhead := w.m.extractLsb' 0 12 }
    if w.ones.getLsbD 25 then s.does (execFqctlResume (w.ones.extractLsb' 32 16) s) else s
  else if r = 0x20 then s.does (execRecctlGo ((w.m &&& 0x3FFFFFF) ||| (w.ones &&& 0xC0000000)) s)
  else if r = 0x28 then (if w.ones.getLsbD 0 then s.does (execPwrctlCold s) else s)
  else if r = 0x30 then (if s.tlbBusy.isSome then { s with tlbRej := true } else { s with tlbinv := w.m })
  else if r = 0x38 then { s with tlbRej := s.tlbRej && !w.ones.getLsbD 1 }
  else if r = 0x80 then s.does (execTlbInvalidate (w.m &&& 0xFF) s)
  else if 0x100 ≤ r ∧ r < 0x300 then s.writeFmtw ((r - 0x100) / 32) (r % 32) w
  else s

/-- A write of a register. -/
def State.writeReg (s : State) (a : RegAt) (w : Written) : State :=
  match a with
  | .laser 0 => { s with lpwin := w.m.extractLsb' 0 10 }
  | .laser _ => { s with lramp := w.m.extractLsb' 0 7 }
  | .link i d r => s.writeLink i d r w
  | .fabric i r => s.writeFabric i r w
  | .dbgBlock i r => s.writeDebug i r w
  | .queue q r => s.writeQueue q r w
  | .host r => s.writeHost r w
  | .none => s

/-- What a write of 4 or 8 bytes at an offset of its word brings, over a word as it reads. -/
def writtenOver (old : W64) (at_ : Nat) (bytes : List Byte) : Written :=
  let mask : W64 := BitVec.ofNat 64 ((2 ^ (8 * bytes.length) - 1) * 2 ^ (8 * at_))
  let v : W64 := BitVec.ofNat 64 (ofLE bytes * 2 ^ (8 * at_))
  { m := (old &&& ~~~mask) ||| (v &&& mask), ones := v &&& mask, byte1 := decide (at_ ≤ 1 ∧ 1 < at_ + bytes.length) }

/-- The word a partial write is merged into: a register that reads as zero gives what was last written to it. -/
def State.mergeBase (s : State) (off : Nat) : W64 := if regAt off = .host 0x30 then s.tlbinv else s.regRead off

/-- A host write: BAR0 in 4 or 8 aligned bytes, BAR2 in any bytes, host memory. -/
def State.hostWrite (s : State) (w : HostWrite) : State :=
  let n := w.bytes.length
  match w.bar with
  | 0 =>
    let off := w.off / 8 * 8
    if !((n = 4 ∧ w.off % 4 = 0) ∨ (n = 8 ∧ w.off % 8 = 0)) ∨ 2 ^ 26 ≤ w.off then s
    else if !s.answers (regAt off) then s
    else s.writeReg (regAt off) (writtenOver (s.mergeBase off) (w.off % 8) w.bytes)
  | 2 =>
    if queueBytes < w.off + n ∨ s.trust.ps = 3 ∨ s.trust.portDark then s
    else if s.trust.start = 3 then s.onTrust fun t => { t with recImage := (placeAt w.off w.bytes).foldl (fun m b => m.put 0 b.1 b.2) t.recImage }
    else s.homeWrite (placeAt (s.queueMem + w.off) w.bytes)
  | _ => if w.off + n ≤ 2 ^ 52 then s.homeWrite (placeAt (3 * 2 ^ 52 + w.off) w.bytes) else s

/-- REGISTER_WRITE. -/
def execRegisterWrite (w : HostWrite) (s : State) : Host.Outcome State Fault Refusal := event (.registerWrite w) s (s.hostWrite w)

end Sys2Proof.Machine
end

