-- ==== Sys2Proof/Machine/Time.lean ====
section
/-! DEFINITION. How time passes: the wheel count (09 R236), and each node's fabric time with its holds and slews (03 R78,
R79). A wall cycle is 500 ps. -/

namespace Sys2Proof.Machine

/-- Fabric time moves by a wall cycle: it is held while the node is ahead of its parent by more than 1 µs, and slews by at
most 200 ppm, here 1 ps in 5 ns. -/
def Fabric.tick (f : Fabric) : Fabric :=
  if 500 ≤ f.hold then { f with hold := f.hold - 500 }
  else
    let f := { f with ps := f.ps + (500 - f.hold), hold := 0 }
    let f :=
      if f.ps < 1000 then f
      else if f.ftc.toNat % 5 ≠ 0 then { f with ftc := f.ftc + 1, ps := f.ps - 1000 }
      else if f.slewUp ≠ 0 then { f with ftc := f.ftc + 1, ps := f.ps - 999, slewUp := f.slewUp - 1 }
      else if f.slewDown ≠ 0 ∧ 1001 ≤ f.ps then { f with ftc := f.ftc + 1, ps := f.ps - 1001, slewDown := f.slewDown - 1 }
      else if f.slewDown ≠ 0 then f
      else { f with ftc := f.ftc + 1, ps := f.ps - 1000 }
    f

/-- Every bank of the package sweeps its rows (08 R201). -/
def State.sweepAll (s : State) : State :=
  (List.range 16).foldl (fun s i => s.onDie i fun d => (List.range 16).foldl (fun d b => d.sweep (s.us i) b) d) s

/-- A wall cycle has passed for every die. No bank goes longer than 2^30 µs without a sweep (08 R201). -/
def State.wallCycle (s : State) : State :=
  let s := (List.range 16).foldl (fun s i => s.onDie i fun d => d.onFab Fabric.tick) s
  let s := { s with wc := s.wc + 1 }
  if s.wc % (2000 * 2 ^ 30) = 0 then s.sweepAll else s

/-- The turn passes to the next die; after the last, a wall cycle has passed. What then stands on the agenda comes before the
next turn. -/
def State.nextTurn (s : State) : State :=
  let s := if s.turn < 15 then { s with turn := s.turn + 1 } else { s.wallCycle with turn := 0 }
  { s with round := s.agenda.length }

end Sys2Proof.Machine
end

