-- ==== Sys2Proof/Machine/Dispatch.lean ====
section
/-! DEFINITION. One arm per row: the call of its meaning. -/

namespace Sys2Proof.Machine

/-- The meaning of a slot operation or an event. -/
def exec (i : Instr) (s : State) : Host.Outcome State Fault Refusal :=
  match i with
  | .coldStart cause => Sys2Proof.Machine.execColdStart cause s
  | .warmStart cause => Sys2Proof.Machine.execWarmStart cause s
  | .startStepComplete r => Sys2Proof.Machine.execStartStepComplete r s
  | .supplyEvent rail => Sys2Proof.Machine.execSupplyEvent rail s
  | .thermalTrip die temp => Sys2Proof.Machine.execThermalTrip die temp s
  | .doorbell q v => Sys2Proof.Machine.execDoorbell q v s
  | .qctlWrite q v => Sys2Proof.Machine.execQctlWrite q v s
  | .registerWrite w => Sys2Proof.Machine.execRegisterWrite w s
  | .hostCopyComplete pool => Sys2Proof.Machine.execHostCopyComplete pool s
  | .fqctlResume index => Sys2Proof.Machine.execFqctlResume index s
  | .recctlGo v => Sys2Proof.Machine.execRecctlGo v s
  | .tlbInvalidate hi => Sys2Proof.Machine.execTlbInvalidate hi s
  | .fmtwRetire w => Sys2Proof.Machine.execFmtwRetire w s
  | .fmtwRetireComplete w => Sys2Proof.Machine.execFmtwRetireComplete w s
  | .fmtwEnable w v => Sys2Proof.Machine.execFmtwEnable w v s
  | .lctlEnable die dim en => Sys2Proof.Machine.execLctlEnable die dim en s
  | .lctlRemap die dim => Sys2Proof.Machine.execLctlRemap die dim s
  | .lctlClrcnt die dim => Sys2Proof.Machine.execLctlClrcnt die dim s
  | .lctlLsset die dim ls => Sys2Proof.Machine.execLctlLsset die dim ls s
  | .lpolWrite die dim v => Sys2Proof.Machine.execLpolWrite die dim v s
  | .detourWrite die dim v => Sys2Proof.Machine.execDetourWrite die dim v s
  | .digclr die dim => Sys2Proof.Machine.execDigclr die dim s
  | .dbgdataAccess die v => Sys2Proof.Machine.execDbgdataAccess die v s
  | .flitReceive die dim f => Sys2Proof.Machine.execFlitReceive die dim f s
  | .aseqReport die dim => Sys2Proof.Machine.execAseqReport die dim s
  | .nak die dim lseq => Sys2Proof.Machine.execNak die dim lseq s
  | .mapprop die dim mask reason => Sys2Proof.Machine.execMapprop die dim mask reason s
  | .mapack die dim mask lseq => Sys2Proof.Machine.execMapack die dim mask lseq s
  | .lsreq die dim ls => Sys2Proof.Machine.execLsreq die dim ls s
  | .lsack die dim ls rejected => Sys2Proof.Machine.execLsack die dim ls rejected s
  | .lsRequestHoldTimeout die dim => Sys2Proof.Machine.execLsRequestHoldTimeout die dim s
  | .laneFailing die dim lane rx => Sys2Proof.Machine.execLaneFailing die dim lane rx s
  | .healthSample die dim lane h => Sys2Proof.Machine.execHealthSample die dim lane h s
  | .linkTrainingComplete die dim tx rx => Sys2Proof.Machine.execLinkTrainingComplete die dim tx rx s
  | .remapRetrainComplete die dim tx rx => Sys2Proof.Machine.execRemapRetrainComplete die dim tx rx s
  | .linkStateAnnouncement die via dim state ls => Sys2Proof.Machine.execLinkStateAnnouncement die via dim state ls s
  | .drainResend die dim => Sys2Proof.Machine.execDrainResend die dim s
  | .mrd die p => Sys2Proof.Machine.execMrd die p s
  | .mwr die p => Sys2Proof.Machine.execMwr die p s
  | .matom die p => Sys2Proof.Machine.execMatom die p s
  | .msync die p => Sys2Proof.Machine.execMsync die p s
  | .drain die ch p => Sys2Proof.Machine.execDrain die ch p s
  | .drainack die p => Sys2Proof.Machine.execDrainack die p s
  | .mrdr die p => Sys2Proof.Machine.execMrdr die p s
  | .mwrr die p => Sys2Proof.Machine.execMwrr die p s
  | .matomr die p => Sys2Proof.Machine.execMatomr die p s
  | .rtok die p => Sys2Proof.Machine.execRtok die p s
  | .push die ch p => Sys2Proof.Machine.execPush die ch p s
  | .eack die p => Sys2Proof.Machine.execEack die p s
  | .tsync die p => Sys2Proof.Machine.execTsync die p s
  | .tsyncr die p clean => Sys2Proof.Machine.execTsyncr die p clean s
  | .e2eTimeout die peer cls => Sys2Proof.Machine.execE2eTimeout die peer cls s
  | .sendEntryIdleFree die peer cls => Sys2Proof.Machine.execSendEntryIdleFree die peer cls s
  | .receiveEntryIdleFree die peer cls => Sys2Proof.Machine.execReceiveEntryIdleFree die peer cls s
  | .bankClassRise die bank cls => Sys2Proof.Machine.execBankClassRise die bank cls s
  | .bankClassFall die bank => Sys2Proof.Machine.execBankClassFall die bank s
  | .gallerySweep die w => Sys2Proof.Machine.execGallerySweep die w s
  | .patrolScrub bad => Sys2Proof.Machine.execPatrolScrub bad s
  | .atriumEviction line => Sys2Proof.Machine.execAtriumEviction line s
  | .landingDataArrival die entry how => Sys2Proof.Machine.execLandingDataArrival die entry how s
  | .codeLineArrival die line => Sys2Proof.Machine.execCodeLineArrival die line s
  | .coldPageFetchComplete handle page readError => Sys2Proof.Machine.execColdPageFetchComplete handle page readError s
  | .copyCommandComplete die stream granules => Sys2Proof.Machine.execCopyCommandComplete die stream granules s
  | .exchangeComplete die stream => Sys2Proof.Machine.execExchangeComplete die stream s
  | .tileLocksAcquired die stream => Sys2Proof.Machine.execTileLocksAcquired die stream s
  | .engineFault die e => Sys2Proof.Machine.execEngineFault die e s
  | .xwaitExpiry die stream => Sys2Proof.Machine.execXwaitExpiry die stream s
  | .waitaTimeout die stream => Sys2Proof.Machine.execWaitaTimeout die stream s
  | .spillDecrement replay node => Sys2Proof.Machine.execSpillDecrement replay node s
  | .preloadRenewal die row => Sys2Proof.Machine.execPreloadRenewal die row s
  | .replayRetire replay => Sys2Proof.Machine.execReplayRetire replay s
  | .replayTimeout replay => Sys2Proof.Machine.execReplayTimeout replay s
  | .residentRenewal die row => Sys2Proof.Machine.execResidentRenewal die row s
  | .add f => Sys2Proof.Machine.execAdd f s
  | .sub f => Sys2Proof.Machine.execSub f s
  | .addi f => Sys2Proof.Machine.execAddi f s
  | .mul f => Sys2Proof.Machine.execMul f s
  | .mulhs f => Sys2Proof.Machine.execMulhs f s
  | .mulhb f => Sys2Proof.Machine.execMulhb f s
  | .divs f => Sys2Proof.Machine.execDivs f s
  | .divb f => Sys2Proof.Machine.execDivb f s
  | .rems f => Sys2Proof.Machine.execRems f s
  | .remb f => Sys2Proof.Machine.execRemb f s
  | .and f => Sys2Proof.Machine.execAnd f s
  | .or f => Sys2Proof.Machine.execOr f s
  | .xor f => Sys2Proof.Machine.execXor f s
  | .andi f => Sys2Proof.Machine.execAndi f s
  | .ori f => Sys2Proof.Machine.execOri f s
  | .xori f => Sys2Proof.Machine.execXori f s
  | .shl f => Sys2Proof.Machine.execShl f s
  | .shr f => Sys2Proof.Machine.execShr f s
  | .sar f => Sys2Proof.Machine.execSar f s
  | .shli f => Sys2Proof.Machine.execShli f s
  | .shri f => Sys2Proof.Machine.execShri f s
  | .sari f => Sys2Proof.Machine.execSari f s
  | .min f => Sys2Proof.Machine.execMin f s
  | .max f => Sys2Proof.Machine.execMax f s
  | .minb f => Sys2Proof.Machine.execMinb f s
  | .maxb f => Sys2Proof.Machine.execMaxb f s
  | .clz f => Sys2Proof.Machine.execClz f s
  | .popc f => Sys2Proof.Machine.execPopc f s
  | .brev f => Sys2Proof.Machine.execBrev f s
  | .exts f => Sys2Proof.Machine.execExts f s
  | .bfx f => Sys2Proof.Machine.execBfx f s
  | .bfi f => Sys2Proof.Machine.execBfi f s
  | .sel f => Sys2Proof.Machine.execSel f s
  | .mov f => Sys2Proof.Machine.execMov f s
  | .cmp f => Sys2Proof.Machine.execCmp f s
  | .movl f => Sys2Proof.Machine.execMovl f s
  | .cmpi f => Sys2Proof.Machine.execCmpi f s
  | .pand f => Sys2Proof.Machine.execPand f s
  | .por f => Sys2Proof.Machine.execPor f s
  | .pxor f => Sys2Proof.Machine.execPxor f s
  | .pnot f => Sys2Proof.Machine.execPnot f s
  | .aadd f => Sys2Proof.Machine.execAadd f s
  | .amov f => Sys2Proof.Machine.execAmov f s
  | .adiff f => Sys2Proof.Machine.execAdiff f s
  | .aaddi f => Sys2Proof.Machine.execAaddi f s
  | .alit f => Sys2Proof.Machine.execAlit f s
  | .ld size f => Sys2Proof.Machine.execLd size f s
  | .st size f => Sys2Proof.Machine.execSt size f s
  | .lda f => Sys2Proof.Machine.execLda f s
  | .sta f => Sys2Proof.Machine.execSta f s
  | .spl size f => Sys2Proof.Machine.execSpl size f s
  | .sps size f => Sys2Proof.Machine.execSps size f s
  | .gld size f => Sys2Proof.Machine.execGld size f s
  | .gst size f => Sys2Proof.Machine.execGst size f s
  | .br f => Sys2Proof.Machine.execBr f s
  | .call f => Sys2Proof.Machine.execCall f s
  | .jmpi f => Sys2Proof.Machine.execJmpi f s
  | .tstb f => Sys2Proof.Machine.execTstb f s
  | .loop f => Sys2Proof.Machine.execLoop f s
  | .setshape f => Sys2Proof.Machine.execSetshape f s
  | .getshape f => Sys2Proof.Machine.execGetshape f s
  | .node f => Sys2Proof.Machine.execNode f s
  | .sysr f => Sys2Proof.Machine.execSysr f s
  | .sysw f => Sys2Proof.Machine.execSysw f s
  | .trap f => Sys2Proof.Machine.execTrap f s
  | .fence f => Sys2Proof.Machine.execFence f s
  | .vadd f => Sys2Proof.Machine.execVadd f s
  | .vsub f => Sys2Proof.Machine.execVsub f s
  | .vmul f => Sys2Proof.Machine.execVmul f s
  | .vmulh f => Sys2Proof.Machine.execVmulh f s
  | .vmac f => Sys2Proof.Machine.execVmac f s
  | .vadds f => Sys2Proof.Machine.execVadds f s
  | .vsubs f => Sys2Proof.Machine.execVsubs f s
  | .vshl f => Sys2Proof.Machine.execVshl f s
  | .vshr f => Sys2Proof.Machine.execVshr f s
  | .vsar f => Sys2Proof.Machine.execVsar f s
  | .vand f => Sys2Proof.Machine.execVand f s
  | .vor f => Sys2Proof.Machine.execVor f s
  | .vxor f => Sys2Proof.Machine.execVxor f s
  | .vmin f => Sys2Proof.Machine.execVmin f s
  | .vmax f => Sys2Proof.Machine.execVmax f s
  | .vabs f => Sys2Proof.Machine.execVabs f s
  | .vwiden f => Sys2Proof.Machine.execVwiden f s
  | .vnarrow f => Sys2Proof.Machine.execVnarrow f s
  | .vfadd f => Sys2Proof.Machine.execVfadd f s
  | .vfsub f => Sys2Proof.Machine.execVfsub f s
  | .vfmul f => Sys2Proof.Machine.execVfmul f s
  | .vfma f => Sys2Proof.Machine.execVfma f s
  | .vfmin f => Sys2Proof.Machine.execVfmin f s
  | .vfmax f => Sys2Proof.Machine.execVfmax f s
  | .vfsgn f => Sys2Proof.Machine.execVfsgn f s
  | .vcvt f => Sys2Proof.Machine.execVcvt f s
  | .vcmp f => Sys2Proof.Machine.execVcmp f s
  | .vrcp f => Sys2Proof.Machine.execVrcp f s
  | .vrsq f => Sys2Proof.Machine.execVrsq f s
  | .vexp2 f => Sys2Proof.Machine.execVexp2 f s
  | .vlog2 f => Sys2Proof.Machine.execVlog2 f s
  | .vsel f => Sys2Proof.Machine.execVsel f s
  | .kop f => Sys2Proof.Machine.execKop f s
  | .vperm f => Sys2Proof.Machine.execVperm f s
  | .vrot f => Sys2Proof.Machine.execVrot f s
  | .vbcast f => Sys2Proof.Machine.execVbcast f s
  | .vextr f => Sys2Proof.Machine.execVextr f s
  | .vins f => Sys2Proof.Machine.execVins f s
  | .vreda f => Sys2Proof.Machine.execVreda f s
  | .vredm f => Sys2Proof.Machine.execVredm f s
  | .vld f => Sys2Proof.Machine.execVld f s
  | .vst f => Sys2Proof.Machine.execVst f s
  | .vgld f => Sys2Proof.Machine.execVgld f s
  | .vgst f => Sys2Proof.Machine.execVgst f s
  | .vgath f => Sys2Proof.Machine.execVgath f s
  | .vscat f => Sys2Proof.Machine.execVscat f s
  | .mma f => Sys2Proof.Machine.execMma f s
  | .mmai f => Sys2Proof.Machine.execMmai f s
  | .mmap f => Sys2Proof.Machine.execMmap f s
  | .zacc f => Sys2Proof.Machine.execZacc f s
  | .zadd f => Sys2Proof.Machine.execZadd f s
  | .zret f => Sys2Proof.Machine.execZret f s
  | .talloc f => Sys2Proof.Machine.execTalloc f s
  | .tfree f => Sys2Proof.Machine.execTfree f s
  | .tstat f => Sys2Proof.Machine.execTstat f s
  | .trenew f => Sys2Proof.Machine.execTrenew f s
  | .txpose f => Sys2Proof.Machine.execTxpose f s
  | .tcvt f => Sys2Proof.Machine.execTcvt f s
  | .tfill f => Sys2Proof.Machine.execTfill f s
  | .cbld f => Sys2Proof.Machine.execCbld f s
  | .ptb f => Sys2Proof.Machine.execPtb f s
  | .yld f => Sys2Proof.Machine.execYld f s
  | .yclr f => Sys2Proof.Machine.execYclr f s
  | .cnest f => Sys2Proof.Machine.execCnest f s
  | .cpy f => Sys2Proof.Machine.execCpy f s
  | .cpym f => Sys2Proof.Machine.execCpym f s
  | .tld f => Sys2Proof.Machine.execTld f s
  | .tst f => Sys2Proof.Machine.execTst f s
  | .tred f => Sys2Proof.Machine.execTred f s
  | .rwb f => Sys2Proof.Machine.execRwb f s
  | .rinv f => Sys2Proof.Machine.execRinv f s
  | .pref f => Sys2Proof.Machine.execPref f s
  | .amo f => Sys2Proof.Machine.execAmo f s
  | .cas f => Sys2Proof.Machine.execCas f s
  | .bind f => Sys2Proof.Machine.execBind f s
  | .acq f => Sys2Proof.Machine.execAcq f s
  | .rel f => Sys2Proof.Machine.execRel f s
  | .waita f => Sys2Proof.Machine.execWaita f s
  | .wake f => Sys2Proof.Machine.execWake f s
  | .dec f => Sys2Proof.Machine.execDec f s
  | .scld f => Sys2Proof.Machine.execScld f s
  | .scst f => Sys2Proof.Machine.execScst f s
  | .xch f => Sys2Proof.Machine.execXch f s
  | .xcc f => Sys2Proof.Machine.execXcc f s
  | .sib f => Sys2Proof.Machine.execSib f s
  | .grs f => Sys2Proof.Machine.execGrs f s
  | .dbar f => Sys2Proof.Machine.execDbar f s
  | .xdig f => Sys2Proof.Machine.execXdig f s
  | .writePerformed die w => Sys2Proof.Machine.execWritePerformed die w s
  | .flitTransmit die dim => Sys2Proof.Machine.execFlitTransmit die dim s
  | .eackSend die peer cls => Sys2Proof.Machine.execEackSend die peer cls s
  | .fmtwEnableComplete w => Sys2Proof.Machine.execFmtwEnableComplete w s
  | .laserRampComplete die dim => Sys2Proof.Machine.execLaserRampComplete die dim s
  | .cmdNop => Sys2Proof.Machine.execCmdNop s
  | .launch => Sys2Proof.Machine.execLaunch s
  | .replayAccept => Sys2Proof.Machine.execReplayAccept s
  | .signal => Sys2Proof.Machine.execSignal s
  | .wait => Sys2Proof.Machine.execWait s
  | .waitTimeout => Sys2Proof.Machine.execWaitTimeout s
  | .loadco => Sys2Proof.Machine.execLoadco s
  | .freeco => Sys2Proof.Machine.execFreeco s
  | .patch => Sys2Proof.Machine.execPatch s
  | .copy => Sys2Proof.Machine.execCopy s
  | .attest => Sys2Proof.Machine.execAttest s
  | .ctxsetCreate => Sys2Proof.Machine.execCtxsetCreate s
  | .ctxsetDestroy => Sys2Proof.Machine.execCtxsetDestroy s
  | .keyreg => Sys2Proof.Machine.execKeyreg s
  | .keylock => Sys2Proof.Machine.execKeylock s
  | .codefloor => Sys2Proof.Machine.execCodefloor s
  | .fwupdate => Sys2Proof.Machine.execFwupdate s
  | .svncommit => Sys2Proof.Machine.execSvncommit s
  | .setpsPs1 => Sys2Proof.Machine.execSetpsPs1 s
  | .setpsPs2 => Sys2Proof.Machine.execSetpsPs2 s
  | .setpsPs3 => Sys2Proof.Machine.execSetpsPs3 s
  | .mgmtWarmstart => Sys2Proof.Machine.execMgmtWarmstart s
  | .mgmtColdstart => Sys2Proof.Machine.execMgmtColdstart s
  | .mgmtNonce => Sys2Proof.Machine.execMgmtNonce s
  | .mgmtUnlock => Sys2Proof.Machine.execMgmtUnlock s
  | .mgmtLock => Sys2Proof.Machine.execMgmtLock s
  | .mgmtFaenter => Sys2Proof.Machine.execMgmtFaenter s
  | .qstatHaltedResume => Sys2Proof.Machine.execQstatHaltedResume s
  | .fstatClr => Sys2Proof.Machine.execFstatClr s
  | .debugHalt => Sys2Proof.Machine.execDebugHalt s
  | .debugResume => Sys2Proof.Machine.execDebugResume s
  | .debugStep => Sys2Proof.Machine.execDebugStep s
  | .haltCascadeNotice => Sys2Proof.Machine.execHaltCascadeNotice s
  | .ftcSyncPeriod => Sys2Proof.Machine.execFtcSyncPeriod s
  | .ftcSampleTimeout => Sys2Proof.Machine.execFtcSampleTimeout s
  | .matrixCommandComplete => Sys2Proof.Machine.execMatrixCommandComplete s
  | .taskDispatch => Sys2Proof.Machine.execTaskDispatch s
  | .taskEnd => Sys2Proof.Machine.execTaskEnd s
  | .budgetOverrun => Sys2Proof.Machine.execBudgetOverrun s
  | .preemptionPoint => Sys2Proof.Machine.execPreemptionPoint s
  | .saveComplete => Sys2Proof.Machine.execSaveComplete s
  | .restoreComplete => Sys2Proof.Machine.execRestoreComplete s
  | .staggeredPowerUp => Sys2Proof.Machine.execStaggeredPowerUp s
  | .functionLevelReset => Sys2Proof.Machine.execFunctionLevelReset s
  | .psExitComplete => Sys2Proof.Machine.execPsExitComplete s
  | .queueSelect => Sys2Proof.Machine.execQueueSelect s
  | .pwrctlCold => Sys2Proof.Machine.execPwrctlCold s
  | .tlbInvalidateComplete => Sys2Proof.Machine.execTlbInvalidateComplete s
  | .lightingSlot => Sys2Proof.Machine.execLightingSlot s
  | .policyWindow => Sys2Proof.Machine.execPolicyWindow s
  | .dieCycle => Sys2Proof.Machine.execDieCycle s
  | .startRetryAfterTrip => Sys2Proof.Machine.execStartRetryAfterTrip s
  | .vector65IntervalEnd => Sys2Proof.Machine.execVector65IntervalEnd s
  | .nop => Sys2Proof.Machine.execNop s
  | .ret => Sys2Proof.Machine.execRet s
  | .fend => Sys2Proof.Machine.execFend s
  | .tret => Sys2Proof.Machine.execTret s

end Sys2Proof.Machine
end

