-- ==== Sys2Proof/Machine/Step.lean ====
section
/-! DEFINITION. The step (DESIGN CHOICE, assumption 14): an event of the outside world where the tape holds one, else an event of the
machine's own, else a wall cycle of the die whose turn it is. -/

namespace Sys2Proof.Machine

/-- What follows an event: armed monitors see what it wrote (17 R450), and `f`. -/
def seen (f : State → State) (o : Host.Outcome State Fault Refusal) : Host.Outcome State Fault Refusal :=
  match o with
  | .next t => .next (f t.watch)
  | x => x

/-- One step of the package. -/
def step (s : State) : Host.Outcome State Fault Refusal :=
  match s.tape with
  | e :: r => seen id (exec e.instr { s with tape := r, unit := e.unit })
  | [] =>
    match s.round, s.agenda with
    | n + 1, e :: r => seen id (exec e.instr { s with agenda := r, round := n, unit := e.unit })
    | _, _ => seen State.nextTurn (exec .dieCycle { s with unit := s.turn })

/-- The segment a placed instruction stands in: the first of the code arena. -/
def placedAt (s : State) : Nat := s.trust.arenaBase.toNat * 2 ^ 26

/-- The state with one bundle placed at the program counter of die 0, which runs a task (DESIGN CHOICE, assumption 15): the segment holds
that bundle alone. -/
def State.withFetchWord (s : State) (nbits w : Nat) : State :=
  let at_ := placedAt s
  let line := toLE 64 (w % 2 ^ nbits)
  let trailer : List Byte := [0, 0, 0, 1] ++ List.replicate 12 0
  let half : Half := { seg := at_, live := true, start := 0, trailer, lines := [(0, line)] }
  let d := s.die 0
  let d := { d with
    powered := true
    task := some (d.task.getD { task := { rid := 0, node := 0, ordinal := 0, tuple := [] }, ctx := 0, slot := 0 })
    c := { d.c with ctxbase := BitVec.ofNat 64 at_, ctxbound := BitVec.ofNat 64 (at_ + 2 ^ 16) }
    dbgBlock := { d.dbgBlock with halted := false }
    seq := { run := .running, pc := at_, halfCur := half } }
  { (({ s with tape := [], agenda := [], round := 0, turn := 0 } : State).setDie 0 d) with
    mem := ((line.zipIdx.map fun b => (at_ + b.2, b.1)) ++ trailer.zipIdx.map fun b => (at_ + 0x7F0 + b.2, b.1)).foldl
      (fun m b => FMap.put m 0 b.1 b.2) s.mem
    trust := { s.trust with ps := 0, start := 0, step := 0 } }

end Sys2Proof.Machine
end

