-- ==== Sys2Proof/Laws/PerInstr.lean ====
section
/-! SUPPORT. Each operation's encoding in a slot decodes to that operation (12 R308 to R312): the family RoundTrip, one lemma
per constructor of Instr. -/

namespace Sys2Proof

/-! ## Fields of a format: what the encoder packs the decoder finds -/

theorem SR.ofBits_bits (f : SR) : SR.ofBits f.bits = f := by
  obtain ⟨d, a, b, fn, lit⟩ := f
  simp only [SR.ofBits, SR.bits, SR.mk.injEq]
  refine ⟨?_, ?_, ?_, ?_, ?_⟩
  · apply BitVec.eq_of_getLsbD_eq
    intro i hi
    rw [BitVec.getLsbD_extractLsb']
    change (_ && BitVec.getLsbD (w := 2 + 4 + 6 + 6 + 6) (lit ++ fn ++ b ++ a ++ d) _) = _
    simp only [BitVec.getLsbD_append, hi, decide_true, Bool.true_and]
    repeat' split
    all_goals first | omega | (congr 1; omega)
  · apply BitVec.eq_of_getLsbD_eq
    intro i hi
    rw [BitVec.getLsbD_extractLsb']
    change (_ && BitVec.getLsbD (w := 2 + 4 + 6 + 6 + 6) (lit ++ fn ++ b ++ a ++ d) _) = _
    simp only [BitVec.getLsbD_append, hi, decide_true, Bool.true_and]
    repeat' split
    all_goals first | omega | (congr 1; omega)
  · apply BitVec.eq_of_getLsbD_eq
    intro i hi
    rw [BitVec.getLsbD_extractLsb']
    change (_ && BitVec.getLsbD (w := 2 + 4 + 6 + 6 + 6) (lit ++ fn ++ b ++ a ++ d) _) = _
    simp only [BitVec.getLsbD_append, hi, decide_true, Bool.true_and]
    repeat' split
    all_goals first | omega | (congr 1; omega)
  · apply BitVec.eq_of_getLsbD_eq
    intro i hi
    rw [BitVec.getLsbD_extractLsb']
    change (_ && BitVec.getLsbD (w := 2 + 4 + 6 + 6 + 6) (lit ++ fn ++ b ++ a ++ d) _) = _
    simp only [BitVec.getLsbD_append, hi, decide_true, Bool.true_and]
    repeat' split
    all_goals first | omega | (congr 1; omega)
  · apply BitVec.eq_of_getLsbD_eq
    intro i hi
    rw [BitVec.getLsbD_extractLsb']
    change (_ && BitVec.getLsbD (w := 2 + 4 + 6 + 6 + 6) (lit ++ fn ++ b ++ a ++ d) _) = _
    simp only [BitVec.getLsbD_append, hi, decide_true, Bool.true_and]
    repeat' split
    all_goals first | omega | (congr 1; omega)

theorem SR.unusedOk_bits (f : SR) : SR.unusedOk f.bits = true := rfl

theorem SI.ofBits_bits (f : SI) : SI.ofBits f.bits = f := by
  obtain ⟨d, a, imm⟩ := f
  simp only [SI.ofBits, SI.bits, SI.mk.injEq]
  refine ⟨?_, ?_, ?_⟩
  · apply BitVec.eq_of_getLsbD_eq
    intro i hi
    rw [BitVec.getLsbD_extractLsb']
    change (_ && BitVec.getLsbD (w := 12 + 6 + 6) (imm ++ a ++ d) _) = _
    simp only [BitVec.getLsbD_append, hi, decide_true, Bool.true_and]
    repeat' split
    all_goals first | omega | (congr 1; omega)
  · apply BitVec.eq_of_getLsbD_eq
    intro i hi
    rw [BitVec.getLsbD_extractLsb']
    change (_ && BitVec.getLsbD (w := 12 + 6 + 6) (imm ++ a ++ d) _) = _
    simp only [BitVec.getLsbD_append, hi, decide_true, Bool.true_and]
    repeat' split
    all_goals first | omega | (congr 1; omega)
  · apply BitVec.eq_of_getLsbD_eq
    intro i hi
    rw [BitVec.getLsbD_extractLsb']
    change (_ && BitVec.getLsbD (w := 12 + 6 + 6) (imm ++ a ++ d) _) = _
    simp only [BitVec.getLsbD_append, hi, decide_true, Bool.true_and]
    repeat' split
    all_goals first | omega | (congr 1; omega)

theorem SI.unusedOk_bits (f : SI) : SI.unusedOk f.bits = true := rfl

theorem SL.ofBits_bits (f : SL) : SL.ofBits f.bits = f := by
  obtain ⟨d, word, width⟩ := f
  simp only [SL.ofBits, SL.bits, SL.mk.injEq]
  refine ⟨?_, ?_, ?_⟩
  · apply BitVec.eq_of_getLsbD_eq
    intro i hi
    rw [BitVec.getLsbD_extractLsb']
    change (_ && BitVec.getLsbD (w := 14 + 2 + 2 + 6) (0#14 ++ width ++ word ++ d) _) = _
    simp only [BitVec.getLsbD_append, hi, decide_true, Bool.true_and]
    repeat' split
    all_goals first | omega | (congr 1; omega)
  · apply BitVec.eq_of_getLsbD_eq
    intro i hi
    rw [BitVec.getLsbD_extractLsb']
    change (_ && BitVec.getLsbD (w := 14 + 2 + 2 + 6) (0#14 ++ width ++ word ++ d) _) = _
    simp only [BitVec.getLsbD_append, hi, decide_true, Bool.true_and]
    repeat' split
    all_goals first | omega | (congr 1; omega)
  · apply BitVec.eq_of_getLsbD_eq
    intro i hi
    rw [BitVec.getLsbD_extractLsb']
    change (_ && BitVec.getLsbD (w := 14 + 2 + 2 + 6) (0#14 ++ width ++ word ++ d) _) = _
    simp only [BitVec.getLsbD_append, hi, decide_true, Bool.true_and]
    repeat' split
    all_goals first | omega | (congr 1; omega)

theorem SL.unusedOk_bits (f : SL) : SL.unusedOk f.bits = true := by
  obtain ⟨d, word, width⟩ := f
  simp only [SL.unusedOk, SL.bits, beq_iff_eq]
  · apply BitVec.eq_of_getLsbD_eq
    intro i hi
    rw [BitVec.getLsbD_extractLsb']
    change (_ && BitVec.getLsbD (w := 14 + 2 + 2 + 6) (0#14 ++ width ++ word ++ d) _) = _
    simp only [BitVec.getLsbD_append, hi, decide_true, Bool.true_and]
    repeat' split
    all_goals first | omega | simp

theorem SB.ofBits_bits (f : SB) : SB.ofBits f.bits = f := by
  obtain ⟨disp⟩ := f
  simp [SB.ofBits, SB.bits]

theorem SB.unusedOk_bits (f : SB) : SB.unusedOk f.bits = true := rfl

theorem SP.ofBits_bits (f : SP) : SP.ofBits f.bits = f := by
  obtain ⟨pd, pa, pb, fn⟩ := f
  simp only [SP.ofBits, SP.bits, SP.mk.injEq]
  refine ⟨?_, ?_, ?_, ?_⟩
  · apply BitVec.eq_of_getLsbD_eq
    intro i hi
    rw [BitVec.getLsbD_extractLsb']
    change (_ && BitVec.getLsbD (w := 8 + 4 + 4 + 4 + 4) (0#8 ++ fn ++ pb ++ pa ++ pd) _) = _
    simp only [BitVec.getLsbD_append, hi, decide_true, Bool.true_and]
    repeat' split
    all_goals first | omega | (congr 1; omega)
  · apply BitVec.eq_of_getLsbD_eq
    intro i hi
    rw [BitVec.getLsbD_extractLsb']
    change (_ && BitVec.getLsbD (w := 8 + 4 + 4 + 4 + 4) (0#8 ++ fn ++ pb ++ pa ++ pd) _) = _
    simp only [BitVec.getLsbD_append, hi, decide_true, Bool.true_and]
    repeat' split
    all_goals first | omega | (congr 1; omega)
  · apply BitVec.eq_of_getLsbD_eq
    intro i hi
    rw [BitVec.getLsbD_extractLsb']
    change (_ && BitVec.getLsbD (w := 8 + 4 + 4 + 4 + 4) (0#8 ++ fn ++ pb ++ pa ++ pd) _) = _
    simp only [BitVec.getLsbD_append, hi, decide_true, Bool.true_and]
    repeat' split
    all_goals first | omega | (congr 1; omega)
  · apply BitVec.eq_of_getLsbD_eq
    intro i hi
    rw [BitVec.getLsbD_extractLsb']
    change (_ && BitVec.getLsbD (w := 8 + 4 + 4 + 4 + 4) (0#8 ++ fn ++ pb ++ pa ++ pd) _) = _
    simp only [BitVec.getLsbD_append, hi, decide_true, Bool.true_and]
    repeat' split
    all_goals first | omega | (congr 1; omega)

theorem SP.unusedOk_bits (f : SP) : SP.unusedOk f.bits = true := by
  obtain ⟨pd, pa, pb, fn⟩ := f
  simp only [SP.unusedOk, SP.bits, beq_iff_eq]
  · apply BitVec.eq_of_getLsbD_eq
    intro i hi
    rw [BitVec.getLsbD_extractLsb']
    change (_ && BitVec.getLsbD (w := 8 + 4 + 4 + 4 + 4) (0#8 ++ fn ++ pb ++ pa ++ pd) _) = _
    simp only [BitVec.getLsbD_append, hi, decide_true, Bool.true_and]
    repeat' split
    all_goals first | omega | simp

theorem SM.ofBits_bits (f : SM) : SM.ofBits f.bits = f := by
  obtain ⟨reg, addr, land, off⟩ := f
  simp only [SM.ofBits, SM.bits, SM.mk.injEq]
  refine ⟨?_, ?_, ?_, ?_⟩
  · apply BitVec.eq_of_getLsbD_eq
    intro i hi
    rw [BitVec.getLsbD_extractLsb']
    change (_ && BitVec.getLsbD (w := 1 + 6 + 6 + 5 + 6) (0#1 ++ off ++ land ++ addr ++ reg) _) = _
    simp only [BitVec.getLsbD_append, hi, decide_true, Bool.true_and]
    repeat' split
    all_goals first | omega | (congr 1; omega)
  · apply BitVec.eq_of_getLsbD_eq
    intro i hi
    rw [BitVec.getLsbD_extractLsb']
    change (_ && BitVec.getLsbD (w := 1 + 6 + 6 + 5 + 6) (0#1 ++ off ++ land ++ addr ++ reg) _) = _
    simp only [BitVec.getLsbD_append, hi, decide_true, Bool.true_and]
    repeat' split
    all_goals first | omega | (congr 1; omega)
  · apply BitVec.eq_of_getLsbD_eq
    intro i hi
    rw [BitVec.getLsbD_extractLsb']
    change (_ && BitVec.getLsbD (w := 1 + 6 + 6 + 5 + 6) (0#1 ++ off ++ land ++ addr ++ reg) _) = _
    simp only [BitVec.getLsbD_append, hi, decide_true, Bool.true_and]
    repeat' split
    all_goals first | omega | (congr 1; omega)
  · apply BitVec.eq_of_getLsbD_eq
    intro i hi
    rw [BitVec.getLsbD_extractLsb']
    change (_ && BitVec.getLsbD (w := 1 + 6 + 6 + 5 + 6) (0#1 ++ off ++ land ++ addr ++ reg) _) = _
    simp only [BitVec.getLsbD_append, hi, decide_true, Bool.true_and]
    repeat' split
    all_goals first | omega | (congr 1; omega)

theorem SM.unusedOk_bits (f : SM) : SM.unusedOk f.bits = true := by
  obtain ⟨reg, addr, land, off⟩ := f
  simp only [SM.unusedOk, SM.bits, beq_iff_eq]
  · apply BitVec.eq_of_getLsbD_eq
    intro i hi
    rw [BitVec.getLsbD_extractLsb']
    change (_ && BitVec.getLsbD (w := 1 + 6 + 6 + 5 + 6) (0#1 ++ off ++ land ++ addr ++ reg) _) = _
    simp only [BitVec.getLsbD_append, hi, decide_true, Bool.true_and]
    repeat' split
    all_goals first | omega | simp

theorem VR.ofBits_bits (f : VR) : VR.ofBits f.bits = f := by
  obtain ⟨vd, va, vb, vc, mask, shape, type, lit⟩ := f
  simp only [VR.ofBits, VR.bits, VR.mk.injEq]
  refine ⟨?_, ?_, ?_, ?_, ?_, ?_, ?_, ?_⟩
  · apply BitVec.eq_of_getLsbD_eq
    intro i hi
    rw [BitVec.getLsbD_extractLsb']
    change (_ && BitVec.getLsbD (w := 2 + 4 + 3 + 3 + 5 + 5 + 5 + 5) (lit ++ type ++ shape ++ mask ++ vc ++ vb ++ va ++ vd) _) = _
    simp only [BitVec.getLsbD_append, hi, decide_true, Bool.true_and]
    repeat' split
    all_goals first | omega | (congr 1; omega)
  · apply BitVec.eq_of_getLsbD_eq
    intro i hi
    rw [BitVec.getLsbD_extractLsb']
    change (_ && BitVec.getLsbD (w := 2 + 4 + 3 + 3 + 5 + 5 + 5 + 5) (lit ++ type ++ shape ++ mask ++ vc ++ vb ++ va ++ vd) _) = _
    simp only [BitVec.getLsbD_append, hi, decide_true, Bool.true_and]
    repeat' split
    all_goals first | omega | (congr 1; omega)
  · apply BitVec.eq_of_getLsbD_eq
    intro i hi
    rw [BitVec.getLsbD_extractLsb']
    change (_ && BitVec.getLsbD (w := 2 + 4 + 3 + 3 + 5 + 5 + 5 + 5) (lit ++ type ++ shape ++ mask ++ vc ++ vb ++ va ++ vd) _) = _
    simp only [BitVec.getLsbD_append, hi, decide_true, Bool.true_and]
    repeat' split
    all_goals first | omega | (congr 1; omega)
  · apply BitVec.eq_of_getLsbD_eq
    intro i hi
    rw [BitVec.getLsbD_extractLsb']
    change (_ && BitVec.getLsbD (w := 2 + 4 + 3 + 3 + 5 + 5 + 5 + 5) (lit ++ type ++ shape ++ mask ++ vc ++ vb ++ va ++ vd) _) = _
    simp only [BitVec.getLsbD_append, hi, decide_true, Bool.true_and]
    repeat' split
    all_goals first | omega | (congr 1; omega)
  · apply BitVec.eq_of_getLsbD_eq
    intro i hi
    rw [BitVec.getLsbD_extractLsb']
    change (_ && BitVec.getLsbD (w := 2 + 4 + 3 + 3 + 5 + 5 + 5 + 5) (lit ++ type ++ shape ++ mask ++ vc ++ vb ++ va ++ vd) _) = _
    simp only [BitVec.getLsbD_append, hi, decide_true, Bool.true_and]
    repeat' split
    all_goals first | omega | (congr 1; omega)
  · apply BitVec.eq_of_getLsbD_eq
    intro i hi
    rw [BitVec.getLsbD_extractLsb']
    change (_ && BitVec.getLsbD (w := 2 + 4 + 3 + 3 + 5 + 5 + 5 + 5) (lit ++ type ++ shape ++ mask ++ vc ++ vb ++ va ++ vd) _) = _
    simp only [BitVec.getLsbD_append, hi, decide_true, Bool.true_and]
    repeat' split
    all_goals first | omega | (congr 1; omega)
  · apply BitVec.eq_of_getLsbD_eq
    intro i hi
    rw [BitVec.getLsbD_extractLsb']
    change (_ && BitVec.getLsbD (w := 2 + 4 + 3 + 3 + 5 + 5 + 5 + 5) (lit ++ type ++ shape ++ mask ++ vc ++ vb ++ va ++ vd) _) = _
    simp only [BitVec.getLsbD_append, hi, decide_true, Bool.true_and]
    repeat' split
    all_goals first | omega | (congr 1; omega)
  · apply BitVec.eq_of_getLsbD_eq
    intro i hi
    rw [BitVec.getLsbD_extractLsb']
    change (_ && BitVec.getLsbD (w := 2 + 4 + 3 + 3 + 5 + 5 + 5 + 5) (lit ++ type ++ shape ++ mask ++ vc ++ vb ++ va ++ vd) _) = _
    simp only [BitVec.getLsbD_append, hi, decide_true, Bool.true_and]
    repeat' split
    all_goals first | omega | (congr 1; omega)

theorem VR.unusedOk_bits (f : VR) : VR.unusedOk f.bits = true := rfl

theorem VM.ofBits_bits (f : VM) : VM.ofBits f.bits = f := by
  obtain ⟨v, addr, land, mask, shape, off, space⟩ := f
  simp only [VM.ofBits, VM.bits, VM.mk.injEq]
  refine ⟨?_, ?_, ?_, ?_, ?_, ?_, ?_⟩
  · apply BitVec.eq_of_getLsbD_eq
    intro i hi
    rw [BitVec.getLsbD_extractLsb']
    change (_ && BitVec.getLsbD (w := 2 + 6 + 3 + 3 + 8 + 5 + 5) (space ++ off ++ shape ++ mask ++ land ++ addr ++ v) _) = _
    simp only [BitVec.getLsbD_append, hi, decide_true, Bool.true_and]
    repeat' split
    all_goals first | omega | (congr 1; omega)
  · apply BitVec.eq_of_getLsbD_eq
    intro i hi
    rw [BitVec.getLsbD_extractLsb']
    change (_ && BitVec.getLsbD (w := 2 + 6 + 3 + 3 + 8 + 5 + 5) (space ++ off ++ shape ++ mask ++ land ++ addr ++ v) _) = _
    simp only [BitVec.getLsbD_append, hi, decide_true, Bool.true_and]
    repeat' split
    all_goals first | omega | (congr 1; omega)
  · apply BitVec.eq_of_getLsbD_eq
    intro i hi
    rw [BitVec.getLsbD_extractLsb']
    change (_ && BitVec.getLsbD (w := 2 + 6 + 3 + 3 + 8 + 5 + 5) (space ++ off ++ shape ++ mask ++ land ++ addr ++ v) _) = _
    simp only [BitVec.getLsbD_append, hi, decide_true, Bool.true_and]
    repeat' split
    all_goals first | omega | (congr 1; omega)
  · apply BitVec.eq_of_getLsbD_eq
    intro i hi
    rw [BitVec.getLsbD_extractLsb']
    change (_ && BitVec.getLsbD (w := 2 + 6 + 3 + 3 + 8 + 5 + 5) (space ++ off ++ shape ++ mask ++ land ++ addr ++ v) _) = _
    simp only [BitVec.getLsbD_append, hi, decide_true, Bool.true_and]
    repeat' split
    all_goals first | omega | (congr 1; omega)
  · apply BitVec.eq_of_getLsbD_eq
    intro i hi
    rw [BitVec.getLsbD_extractLsb']
    change (_ && BitVec.getLsbD (w := 2 + 6 + 3 + 3 + 8 + 5 + 5) (space ++ off ++ shape ++ mask ++ land ++ addr ++ v) _) = _
    simp only [BitVec.getLsbD_append, hi, decide_true, Bool.true_and]
    repeat' split
    all_goals first | omega | (congr 1; omega)
  · apply BitVec.eq_of_getLsbD_eq
    intro i hi
    rw [BitVec.getLsbD_extractLsb']
    change (_ && BitVec.getLsbD (w := 2 + 6 + 3 + 3 + 8 + 5 + 5) (space ++ off ++ shape ++ mask ++ land ++ addr ++ v) _) = _
    simp only [BitVec.getLsbD_append, hi, decide_true, Bool.true_and]
    repeat' split
    all_goals first | omega | (congr 1; omega)
  · apply BitVec.eq_of_getLsbD_eq
    intro i hi
    rw [BitVec.getLsbD_extractLsb']
    change (_ && BitVec.getLsbD (w := 2 + 6 + 3 + 3 + 8 + 5 + 5) (space ++ off ++ shape ++ mask ++ land ++ addr ++ v) _) = _
    simp only [BitVec.getLsbD_append, hi, decide_true, Bool.true_and]
    repeat' split
    all_goals first | omega | (congr 1; omega)

theorem VM.unusedOk_bits (f : VM) : VM.unusedOk f.bits = true := rfl

theorem MT.ofBits_bits (f : MT) : MT.ofBits f.bits = f := by
  obtain ⟨tile, panel, acc, shape, fmt, ac, ta⟩ := f
  simp only [MT.ofBits, MT.bits, MT.mk.injEq]
  refine ⟨?_, ?_, ?_, ?_, ?_, ?_, ?_⟩
  · apply BitVec.eq_of_getLsbD_eq
    intro i hi
    rw [BitVec.getLsbD_extractLsb']
    change (_ && BitVec.getLsbD (w := 13 + 1 + 1 + 4 + 3 + 2 + 6 + 12) (0#13 ++ BitVec.ofBool ta ++ BitVec.ofBool ac ++ fmt ++ shape ++ acc ++ panel ++ tile) _) = _
    simp only [BitVec.getLsbD_append, hi, decide_true, Bool.true_and]
    repeat' split
    all_goals first | omega | (congr 1; omega)
  · apply BitVec.eq_of_getLsbD_eq
    intro i hi
    rw [BitVec.getLsbD_extractLsb']
    change (_ && BitVec.getLsbD (w := 13 + 1 + 1 + 4 + 3 + 2 + 6 + 12) (0#13 ++ BitVec.ofBool ta ++ BitVec.ofBool ac ++ fmt ++ shape ++ acc ++ panel ++ tile) _) = _
    simp only [BitVec.getLsbD_append, hi, decide_true, Bool.true_and]
    repeat' split
    all_goals first | omega | (congr 1; omega)
  · apply BitVec.eq_of_getLsbD_eq
    intro i hi
    rw [BitVec.getLsbD_extractLsb']
    change (_ && BitVec.getLsbD (w := 13 + 1 + 1 + 4 + 3 + 2 + 6 + 12) (0#13 ++ BitVec.ofBool ta ++ BitVec.ofBool ac ++ fmt ++ shape ++ acc ++ panel ++ tile) _) = _
    simp only [BitVec.getLsbD_append, hi, decide_true, Bool.true_and]
    repeat' split
    all_goals first | omega | (congr 1; omega)
  · apply BitVec.eq_of_getLsbD_eq
    intro i hi
    rw [BitVec.getLsbD_extractLsb']
    change (_ && BitVec.getLsbD (w := 13 + 1 + 1 + 4 + 3 + 2 + 6 + 12) (0#13 ++ BitVec.ofBool ta ++ BitVec.ofBool ac ++ fmt ++ shape ++ acc ++ panel ++ tile) _) = _
    simp only [BitVec.getLsbD_append, hi, decide_true, Bool.true_and]
    repeat' split
    all_goals first | omega | (congr 1; omega)
  · apply BitVec.eq_of_getLsbD_eq
    intro i hi
    rw [BitVec.getLsbD_extractLsb']
    change (_ && BitVec.getLsbD (w := 13 + 1 + 1 + 4 + 3 + 2 + 6 + 12) (0#13 ++ BitVec.ofBool ta ++ BitVec.ofBool ac ++ fmt ++ shape ++ acc ++ panel ++ tile) _) = _
    simp only [BitVec.getLsbD_append, hi, decide_true, Bool.true_and]
    repeat' split
    all_goals first | omega | (congr 1; omega)
  · change BitVec.getLsbD (w := 13 + 1 + 1 + 4 + 3 + 2 + 6 + 12) (0#13 ++ BitVec.ofBool ta ++ BitVec.ofBool ac ++ fmt ++ shape ++ acc ++ panel ++ tile) _ = _
    simp only [BitVec.getLsbD_append]
    simp
  · change BitVec.getLsbD (w := 13 + 1 + 1 + 4 + 3 + 2 + 6 + 12) (0#13 ++ BitVec.ofBool ta ++ BitVec.ofBool ac ++ fmt ++ shape ++ acc ++ panel ++ tile) _ = _
    simp only [BitVec.getLsbD_append]
    simp

theorem MT.unusedOk_bits (f : MT) : MT.unusedOk f.bits = true := by
  obtain ⟨tile, panel, acc, shape, fmt, ac, ta⟩ := f
  simp only [MT.unusedOk, MT.bits, beq_iff_eq]
  · apply BitVec.eq_of_getLsbD_eq
    intro i hi
    rw [BitVec.getLsbD_extractLsb']
    change (_ && BitVec.getLsbD (w := 13 + 1 + 1 + 4 + 3 + 2 + 6 + 12) (0#13 ++ BitVec.ofBool ta ++ BitVec.ofBool ac ++ fmt ++ shape ++ acc ++ panel ++ tile) _) = _
    simp only [BitVec.getLsbD_append, hi, decide_true, Bool.true_and]
    repeat' split
    all_goals first | omega | simp

theorem MS.ofBits_bits (f : MS) : MS.ofBits f.bits = f := by
  obtain ⟨tile, tile2, shape, fmt, imm⟩ := f
  simp only [MS.ofBits, MS.bits, MS.mk.injEq]
  refine ⟨?_, ?_, ?_, ?_, ?_⟩
  · apply BitVec.eq_of_getLsbD_eq
    intro i hi
    rw [BitVec.getLsbD_extractLsb']
    change (_ && BitVec.getLsbD (w := 11 + 4 + 3 + 12 + 12) (imm ++ fmt ++ shape ++ tile2 ++ tile) _) = _
    simp only [BitVec.getLsbD_append, hi, decide_true, Bool.true_and]
    repeat' split
    all_goals first | omega | (congr 1; omega)
  · apply BitVec.eq_of_getLsbD_eq
    intro i hi
    rw [BitVec.getLsbD_extractLsb']
    change (_ && BitVec.getLsbD (w := 11 + 4 + 3 + 12 + 12) (imm ++ fmt ++ shape ++ tile2 ++ tile) _) = _
    simp only [BitVec.getLsbD_append, hi, decide_true, Bool.true_and]
    repeat' split
    all_goals first | omega | (congr 1; omega)
  · apply BitVec.eq_of_getLsbD_eq
    intro i hi
    rw [BitVec.getLsbD_extractLsb']
    change (_ && BitVec.getLsbD (w := 11 + 4 + 3 + 12 + 12) (imm ++ fmt ++ shape ++ tile2 ++ tile) _) = _
    simp only [BitVec.getLsbD_append, hi, decide_true, Bool.true_and]
    repeat' split
    all_goals first | omega | (congr 1; omega)
  · apply BitVec.eq_of_getLsbD_eq
    intro i hi
    rw [BitVec.getLsbD_extractLsb']
    change (_ && BitVec.getLsbD (w := 11 + 4 + 3 + 12 + 12) (imm ++ fmt ++ shape ++ tile2 ++ tile) _) = _
    simp only [BitVec.getLsbD_append, hi, decide_true, Bool.true_and]
    repeat' split
    all_goals first | omega | (congr 1; omega)
  · apply BitVec.eq_of_getLsbD_eq
    intro i hi
    rw [BitVec.getLsbD_extractLsb']
    change (_ && BitVec.getLsbD (w := 11 + 4 + 3 + 12 + 12) (imm ++ fmt ++ shape ++ tile2 ++ tile) _) = _
    simp only [BitVec.getLsbD_append, hi, decide_true, Bool.true_and]
    repeat' split
    all_goals first | omega | (congr 1; omega)

theorem MS.unusedOk_bits (f : MS) : MS.unusedOk f.bits = true := rfl

theorem CN.ofBits_bits (f : CN) : CN.ofBits f.bits = f := by
  obtain ⟨nest, level, bound, sstride, dstride⟩ := f
  simp only [CN.ofBits, CN.bits, CN.mk.injEq]
  refine ⟨?_, ?_, ?_, ?_, ?_⟩
  · apply BitVec.eq_of_getLsbD_eq
    intro i hi
    rw [BitVec.getLsbD_extractLsb']
    change (_ && BitVec.getLsbD (w := 19 + 6 + 6 + 6 + 3 + 2) (0#19 ++ dstride ++ sstride ++ bound ++ level ++ nest) _) = _
    simp only [BitVec.getLsbD_append, hi, decide_true, Bool.true_and]
    repeat' split
    all_goals first | omega | (congr 1; omega)
  · apply BitVec.eq_of_getLsbD_eq
    intro i hi
    rw [BitVec.getLsbD_extractLsb']
    change (_ && BitVec.getLsbD (w := 19 + 6 + 6 + 6 + 3 + 2) (0#19 ++ dstride ++ sstride ++ bound ++ level ++ nest) _) = _
    simp only [BitVec.getLsbD_append, hi, decide_true, Bool.true_and]
    repeat' split
    all_goals first | omega | (congr 1; omega)
  · apply BitVec.eq_of_getLsbD_eq
    intro i hi
    rw [BitVec.getLsbD_extractLsb']
    change (_ && BitVec.getLsbD (w := 19 + 6 + 6 + 6 + 3 + 2) (0#19 ++ dstride ++ sstride ++ bound ++ level ++ nest) _) = _
    simp only [BitVec.getLsbD_append, hi, decide_true, Bool.true_and]
    repeat' split
    all_goals first | omega | (congr 1; omega)
  · apply BitVec.eq_of_getLsbD_eq
    intro i hi
    rw [BitVec.getLsbD_extractLsb']
    change (_ && BitVec.getLsbD (w := 19 + 6 + 6 + 6 + 3 + 2) (0#19 ++ dstride ++ sstride ++ bound ++ level ++ nest) _) = _
    simp only [BitVec.getLsbD_append, hi, decide_true, Bool.true_and]
    repeat' split
    all_goals first | omega | (congr 1; omega)
  · apply BitVec.eq_of_getLsbD_eq
    intro i hi
    rw [BitVec.getLsbD_extractLsb']
    change (_ && BitVec.getLsbD (w := 19 + 6 + 6 + 6 + 3 + 2) (0#19 ++ dstride ++ sstride ++ bound ++ level ++ nest) _) = _
    simp only [BitVec.getLsbD_append, hi, decide_true, Bool.true_and]
    repeat' split
    all_goals first | omega | (congr 1; omega)

theorem CN.unusedOk_bits (f : CN) : CN.unusedOk f.bits = true := by
  obtain ⟨nest, level, bound, sstride, dstride⟩ := f
  simp only [CN.unusedOk, CN.bits, beq_iff_eq]
  · apply BitVec.eq_of_getLsbD_eq
    intro i hi
    rw [BitVec.getLsbD_extractLsb']
    change (_ && BitVec.getLsbD (w := 19 + 6 + 6 + 6 + 3 + 2) (0#19 ++ dstride ++ sstride ++ bound ++ level ++ nest) _) = _
    simp only [BitVec.getLsbD_append, hi, decide_true, Bool.true_and]
    repeat' split
    all_goals first | omega | simp

theorem CX.ofBits_bits (f : CX) : CX.ofBits f.bits = f := by
  obtain ⟨nest, src, dst, cnt, fd, fol, flags⟩ := f
  simp only [CX.ofBits, CX.bits, CX.mk.injEq]
  refine ⟨?_, ?_, ?_, ?_, ?_, ?_, ?_⟩
  · apply BitVec.eq_of_getLsbD_eq
    intro i hi
    rw [BitVec.getLsbD_extractLsb']
    change (_ && BitVec.getLsbD (w := 12 + 2 + 4 + 12 + 5 + 5 + 2) (flags ++ fol ++ fd ++ cnt ++ dst ++ src ++ nest) _) = _
    simp only [BitVec.getLsbD_append, hi, decide_true, Bool.true_and]
    repeat' split
    all_goals first | omega | (congr 1; omega)
  · apply BitVec.eq_of_getLsbD_eq
    intro i hi
    rw [BitVec.getLsbD_extractLsb']
    change (_ && BitVec.getLsbD (w := 12 + 2 + 4 + 12 + 5 + 5 + 2) (flags ++ fol ++ fd ++ cnt ++ dst ++ src ++ nest) _) = _
    simp only [BitVec.getLsbD_append, hi, decide_true, Bool.true_and]
    repeat' split
    all_goals first | omega | (congr 1; omega)
  · apply BitVec.eq_of_getLsbD_eq
    intro i hi
    rw [BitVec.getLsbD_extractLsb']
    change (_ && BitVec.getLsbD (w := 12 + 2 + 4 + 12 + 5 + 5 + 2) (flags ++ fol ++ fd ++ cnt ++ dst ++ src ++ nest) _) = _
    simp only [BitVec.getLsbD_append, hi, decide_true, Bool.true_and]
    repeat' split
    all_goals first | omega | (congr 1; omega)
  · apply BitVec.eq_of_getLsbD_eq
    intro i hi
    rw [BitVec.getLsbD_extractLsb']
    change (_ && BitVec.getLsbD (w := 12 + 2 + 4 + 12 + 5 + 5 + 2) (flags ++ fol ++ fd ++ cnt ++ dst ++ src ++ nest) _) = _
    simp only [BitVec.getLsbD_append, hi, decide_true, Bool.true_and]
    repeat' split
    all_goals first | omega | (congr 1; omega)
  · apply BitVec.eq_of_getLsbD_eq
    intro i hi
    rw [BitVec.getLsbD_extractLsb']
    change (_ && BitVec.getLsbD (w := 12 + 2 + 4 + 12 + 5 + 5 + 2) (flags ++ fol ++ fd ++ cnt ++ dst ++ src ++ nest) _) = _
    simp only [BitVec.getLsbD_append, hi, decide_true, Bool.true_and]
    repeat' split
    all_goals first | omega | (congr 1; omega)
  · apply BitVec.eq_of_getLsbD_eq
    intro i hi
    rw [BitVec.getLsbD_extractLsb']
    change (_ && BitVec.getLsbD (w := 12 + 2 + 4 + 12 + 5 + 5 + 2) (flags ++ fol ++ fd ++ cnt ++ dst ++ src ++ nest) _) = _
    simp only [BitVec.getLsbD_append, hi, decide_true, Bool.true_and]
    repeat' split
    all_goals first | omega | (congr 1; omega)
  · apply BitVec.eq_of_getLsbD_eq
    intro i hi
    rw [BitVec.getLsbD_extractLsb']
    change (_ && BitVec.getLsbD (w := 12 + 2 + 4 + 12 + 5 + 5 + 2) (flags ++ fol ++ fd ++ cnt ++ dst ++ src ++ nest) _) = _
    simp only [BitVec.getLsbD_append, hi, decide_true, Bool.true_and]
    repeat' split
    all_goals first | omega | (congr 1; omega)

theorem CX.unusedOk_bits (f : CX) : CX.unusedOk f.bits = true := rfl

theorem CD.ofBits_bits (f : CD) : CD.ofBits f.bits = f := by
  obtain ⟨dima, dimb, send, recv, op, flags⟩ := f
  simp only [CD.ofBits, CD.bits, CD.mk.injEq]
  refine ⟨?_, ?_, ?_, ?_, ?_, ?_⟩
  · apply BitVec.eq_of_getLsbD_eq
    intro i hi
    rw [BitVec.getLsbD_extractLsb']
    change (_ && BitVec.getLsbD (w := 6 + 4 + 12 + 12 + 4 + 4) (flags ++ op ++ recv ++ send ++ dimb ++ dima) _) = _
    simp only [BitVec.getLsbD_append, hi, decide_true, Bool.true_and]
    repeat' split
    all_goals first | omega | (congr 1; omega)
  · apply BitVec.eq_of_getLsbD_eq
    intro i hi
    rw [BitVec.getLsbD_extractLsb']
    change (_ && BitVec.getLsbD (w := 6 + 4 + 12 + 12 + 4 + 4) (flags ++ op ++ recv ++ send ++ dimb ++ dima) _) = _
    simp only [BitVec.getLsbD_append, hi, decide_true, Bool.true_and]
    repeat' split
    all_goals first | omega | (congr 1; omega)
  · apply BitVec.eq_of_getLsbD_eq
    intro i hi
    rw [BitVec.getLsbD_extractLsb']
    change (_ && BitVec.getLsbD (w := 6 + 4 + 12 + 12 + 4 + 4) (flags ++ op ++ recv ++ send ++ dimb ++ dima) _) = _
    simp only [BitVec.getLsbD_append, hi, decide_true, Bool.true_and]
    repeat' split
    all_goals first | omega | (congr 1; omega)
  · apply BitVec.eq_of_getLsbD_eq
    intro i hi
    rw [BitVec.getLsbD_extractLsb']
    change (_ && BitVec.getLsbD (w := 6 + 4 + 12 + 12 + 4 + 4) (flags ++ op ++ recv ++ send ++ dimb ++ dima) _) = _
    simp only [BitVec.getLsbD_append, hi, decide_true, Bool.true_and]
    repeat' split
    all_goals first | omega | (congr 1; omega)
  · apply BitVec.eq_of_getLsbD_eq
    intro i hi
    rw [BitVec.getLsbD_extractLsb']
    change (_ && BitVec.getLsbD (w := 6 + 4 + 12 + 12 + 4 + 4) (flags ++ op ++ recv ++ send ++ dimb ++ dima) _) = _
    simp only [BitVec.getLsbD_append, hi, decide_true, Bool.true_and]
    repeat' split
    all_goals first | omega | (congr 1; omega)
  · apply BitVec.eq_of_getLsbD_eq
    intro i hi
    rw [BitVec.getLsbD_extractLsb']
    change (_ && BitVec.getLsbD (w := 6 + 4 + 12 + 12 + 4 + 4) (flags ++ op ++ recv ++ send ++ dimb ++ dima) _) = _
    simp only [BitVec.getLsbD_append, hi, decide_true, Bool.true_and]
    repeat' split
    all_goals first | omega | (congr 1; omega)

theorem CD.unusedOk_bits (f : CD) : CD.unusedOk f.bits = true := rfl

theorem CA.ofBits_bits (f : CA) : CA.ofBits f.bits = f := by
  obtain ⟨addr, opnd, res, land, op, scope⟩ := f
  simp only [CA.ofBits, CA.bits, CA.mk.injEq]
  refine ⟨?_, ?_, ?_, ?_, ?_, ?_⟩
  · apply BitVec.eq_of_getLsbD_eq
    intro i hi
    rw [BitVec.getLsbD_extractLsb']
    change (_ && BitVec.getLsbD (w := 11 + 2 + 4 + 6 + 6 + 6 + 5 + 2) (0#11 ++ scope ++ op ++ land ++ res ++ opnd ++ addr ++ 0#2) _) = _
    simp only [BitVec.getLsbD_append, hi, decide_true, Bool.true_and]
    repeat' split
    all_goals first | omega | (congr 1; omega)
  · apply BitVec.eq_of_getLsbD_eq
    intro i hi
    rw [BitVec.getLsbD_extractLsb']
    change (_ && BitVec.getLsbD (w := 11 + 2 + 4 + 6 + 6 + 6 + 5 + 2) (0#11 ++ scope ++ op ++ land ++ res ++ opnd ++ addr ++ 0#2) _) = _
    simp only [BitVec.getLsbD_append, hi, decide_true, Bool.true_and]
    repeat' split
    all_goals first | omega | (congr 1; omega)
  · apply BitVec.eq_of_getLsbD_eq
    intro i hi
    rw [BitVec.getLsbD_extractLsb']
    change (_ && BitVec.getLsbD (w := 11 + 2 + 4 + 6 + 6 + 6 + 5 + 2) (0#11 ++ scope ++ op ++ land ++ res ++ opnd ++ addr ++ 0#2) _) = _
    simp only [BitVec.getLsbD_append, hi, decide_true, Bool.true_and]
    repeat' split
    all_goals first | omega | (congr 1; omega)
  · apply BitVec.eq_of_getLsbD_eq
    intro i hi
    rw [BitVec.getLsbD_extractLsb']
    change (_ && BitVec.getLsbD (w := 11 + 2 + 4 + 6 + 6 + 6 + 5 + 2) (0#11 ++ scope ++ op ++ land ++ res ++ opnd ++ addr ++ 0#2) _) = _
    simp only [BitVec.getLsbD_append, hi, decide_true, Bool.true_and]
    repeat' split
    all_goals first | omega | (congr 1; omega)
  · apply BitVec.eq_of_getLsbD_eq
    intro i hi
    rw [BitVec.getLsbD_extractLsb']
    change (_ && BitVec.getLsbD (w := 11 + 2 + 4 + 6 + 6 + 6 + 5 + 2) (0#11 ++ scope ++ op ++ land ++ res ++ opnd ++ addr ++ 0#2) _) = _
    simp only [BitVec.getLsbD_append, hi, decide_true, Bool.true_and]
    repeat' split
    all_goals first | omega | (congr 1; omega)
  · apply BitVec.eq_of_getLsbD_eq
    intro i hi
    rw [BitVec.getLsbD_extractLsb']
    change (_ && BitVec.getLsbD (w := 11 + 2 + 4 + 6 + 6 + 6 + 5 + 2) (0#11 ++ scope ++ op ++ land ++ res ++ opnd ++ addr ++ 0#2) _) = _
    simp only [BitVec.getLsbD_append, hi, decide_true, Bool.true_and]
    repeat' split
    all_goals first | omega | (congr 1; omega)

theorem CA.unusedOk_bits (f : CA) : CA.unusedOk f.bits = true := by
  obtain ⟨addr, opnd, res, land, op, scope⟩ := f
  simp only [CA.unusedOk, CA.bits, Bool.and_eq_true, beq_iff_eq]
  refine ⟨?_, ?_⟩
  · apply BitVec.eq_of_getLsbD_eq
    intro i hi
    rw [BitVec.getLsbD_extractLsb']
    change (_ && BitVec.getLsbD (w := 11 + 2 + 4 + 6 + 6 + 6 + 5 + 2) (0#11 ++ scope ++ op ++ land ++ res ++ opnd ++ addr ++ 0#2) _) = _
    simp only [BitVec.getLsbD_append, hi, decide_true, Bool.true_and]
    repeat' split
    all_goals first | omega | simp
  · apply BitVec.eq_of_getLsbD_eq
    intro i hi
    rw [BitVec.getLsbD_extractLsb']
    change (_ && BitVec.getLsbD (w := 11 + 2 + 4 + 6 + 6 + 6 + 5 + 2) (0#11 ++ scope ++ op ++ land ++ res ++ opnd ++ addr ++ 0#2) _) = _
    simp only [BitVec.getLsbD_append, hi, decide_true, Bool.true_and]
    repeat' split
    all_goals first | omega | simp

/-! ## Bytes and numbers -/

theorem ofLE_toLE (n w : Nat) : ofLE (toLE n w) = w % 256 ^ n := by
  induction n generalizing w with
  | zero => simp [toLE, ofLE, Nat.mod_one]
  | succ n ih =>
    simp only [toLE, ofLE, ih, BitVec.toNat_ofNat]
    rw [show 256 ^ (n + 1) = 256 * 256 ^ n by rw [Nat.pow_succ, Nat.mul_comm], Nat.mod_mul]

/-- The three parts of a slot word, read again from its number. -/
theorem slot_word {a b : Nat} (w : BitVec a) (op : BitVec b) (p : BitVec 8) :
    BitVec.ofNat 8 (w ++ op ++ p).toNat = p ∧ BitVec.ofNat b ((w ++ op ++ p).toNat / 2 ^ 8) = op ∧
      BitVec.ofNat a ((w ++ op ++ p).toNat / 2 ^ (b + 8)) = w := by
  have e : (w ++ op ++ p).toNat = (w.toNat * 2 ^ b + op.toNat) * 2 ^ 8 + p.toNat := by
    simp only [BitVec.toNat_append]
    rw [← Nat.shiftLeft_add_eq_or_of_lt p.isLt, ← Nat.shiftLeft_add_eq_or_of_lt op.isLt, Nat.shiftLeft_eq, Nat.shiftLeft_eq]
  have hp := p.isLt
  have hop := op.isLt
  have e1 : (w ++ op ++ p).toNat / 2 ^ 8 = w.toNat * 2 ^ b + op.toNat := by
    rw [e, Nat.mul_comm, Nat.mul_add_div (by omega), Nat.div_eq_of_lt hp, Nat.add_zero]
  refine ⟨?_, ?_, ?_⟩
  · apply BitVec.eq_of_toNat_eq
    rw [BitVec.toNat_ofNat, e, Nat.mul_comm, Nat.mul_add_mod, Nat.mod_eq_of_lt hp]
  · apply BitVec.eq_of_toNat_eq
    rw [BitVec.toNat_ofNat, e1, Nat.mul_comm, Nat.mul_add_mod, Nat.mod_eq_of_lt hop]
  · apply BitVec.eq_of_toNat_eq
    rw [BitVec.toNat_ofNat, Nat.pow_add, Nat.mul_comm (2 ^ b), ← Nat.div_div_eq_div_mul, e1, Nat.mul_comm,
      Nat.mul_add_div (Nat.two_pow_pos b), Nat.div_eq_of_lt hop, Nat.add_zero, Nat.mod_eq_of_lt w.isLt]

theorem Pfx.ofBits_bits (p : Pfx) : Pfx.ofBits p.bits = p := by
  obtain ⟨guard, inv, hold⟩ := p
  simp only [Pfx.ofBits, Pfx.bits, Pfx.mk.injEq]
  refine ⟨?_, ?_, ?_⟩
  · apply BitVec.eq_of_getLsbD_eq
    intro i hi
    rw [BitVec.getLsbD_extractLsb']
    change (_ && BitVec.getLsbD (w := 3 + 1 + 4) (hold ++ BitVec.ofBool inv ++ guard) _) = _
    simp only [BitVec.getLsbD_append, hi, decide_true, Bool.true_and]
    repeat' split
    all_goals first | omega | (congr 1; omega)
  · change BitVec.getLsbD (w := 3 + 1 + 4) (hold ++ BitVec.ofBool inv ++ guard) _ = _
    simp only [BitVec.getLsbD_append]
    simp
  · apply BitVec.eq_of_getLsbD_eq
    intro i hi
    rw [BitVec.getLsbD_extractLsb']
    change (_ && BitVec.getLsbD (w := 3 + 1 + 4) (hold ++ BitVec.ofBool inv ++ guard) _) = _
    simp only [BitVec.getLsbD_append, hi, decide_true, Bool.true_and]
    repeat' split
    all_goals first | omega | (congr 1; omega)

end Sys2Proof

namespace Sys2Proof.Laws.RoundTrip

/-- What is encoded in a slot that can hold it is decoded again, whatever the slot and the prefix. -/
def Statement (i : Instr) : Prop :=
  ∀ (slot : Slot) (p : Pfx) (bytes : List Byte), i.problem = none → encodeSlot slot p i = some bytes → decodeSlot slot bytes = ⟨slot, p, .ok i⟩

/-- A row that no slot holds. -/
theorem of_none {i : Instr} (hs : bodyS i = none) (hv : bodyV i = none) (hm : bodyM i = none) (hc : bodyC i = none) : Statement i := by
  intro slot p bytes _ h
  cases slot <;> simp [encodeSlot, hs, hv, hm, hc] at h

theorem of_s {i : Instr} {op : BitVec 8} {w : BitVec 24} (hs : bodyS i = some (op, w)) (hv : bodyV i = none) (hm : bodyM i = none)
    (hc : bodyC i = none) (hd : i.problem = none → decodeS op w = .ok i) : Statement i := by
  intro slot p bytes hi h
  cases slot <;> simp only [encodeSlot, hs, hv, hm, hc, Option.map_some, Option.map_none, Option.some.injEq, reduceCtorEq] at h
  subst h
  have e := slot_word w op p.bits
  have hn : ofLE (toLE 5 (w ++ op ++ p.bits).toNat) = (w ++ op ++ p.bits).toNat := by
    rw [ofLE_toLE]; exact Nat.mod_eq_of_lt (w ++ op ++ p.bits).isLt
  simp only [decodeSlot, hn]
  rw [e.1, e.2.1, e.2.2, Pfx.ofBits_bits, hd hi]

theorem of_v {i : Instr} {op : BitVec 8} {w : BitVec 32} (hs : bodyS i = none) (hv : bodyV i = some (op, w)) (hm : bodyM i = none)
    (hc : bodyC i = none) (hd : i.problem = none → decodeV op w = .ok i) : Statement i := by
  intro slot p bytes hi h
  have e := slot_word w op p.bits
  have hn : ofLE (toLE 6 (w ++ op ++ p.bits).toNat) = (w ++ op ++ p.bits).toNat := by
    rw [ofLE_toLE]; exact Nat.mod_eq_of_lt (w ++ op ++ p.bits).isLt
  cases slot <;> simp only [encodeSlot, hs, hv, hm, hc, Option.map_some, Option.map_none, Option.some.injEq, reduceCtorEq] at h
  all_goals subst h; simp only [decodeSlot, hn]; rw [e.1, e.2.1, e.2.2, Pfx.ofBits_bits, hd hi]

theorem of_m {i : Instr} {op : BitVec 6} {w : BitVec 42} (hs : bodyS i = none) (hv : bodyV i = none) (hm : bodyM i = some (op, w))
    (hc : bodyC i = none) (hd : i.problem = none → decodeM op w = .ok i) : Statement i := by
  intro slot p bytes hi h
  have e := slot_word w op p.bits
  have hn : ofLE (toLE 7 (w ++ op ++ p.bits).toNat) = (w ++ op ++ p.bits).toNat := by
    rw [ofLE_toLE]; exact Nat.mod_eq_of_lt (w ++ op ++ p.bits).isLt
  cases slot <;> simp only [encodeSlot, hs, hv, hm, hc, Option.map_some, Option.map_none, Option.some.injEq, reduceCtorEq] at h
  all_goals subst h; simp only [decodeSlot, hn]; rw [e.1, e.2.1, e.2.2, Pfx.ofBits_bits, hd hi]

theorem of_c {i : Instr} {op : BitVec 6} {w : BitVec 42} (hs : bodyS i = none) (hv : bodyV i = none) (hm : bodyM i = none)
    (hc : bodyC i = some (op, w)) (hd : i.problem = none → decodeC op w = .ok i) : Statement i := by
  intro slot p bytes hi h
  have e := slot_word w op p.bits
  have hn : ofLE (toLE 7 (w ++ op ++ p.bits).toNat) = (w ++ op ++ p.bits).toNat := by
    rw [ofLE_toLE]; exact Nat.mod_eq_of_lt (w ++ op ++ p.bits).isLt
  cases slot <;> simp only [encodeSlot, hs, hv, hm, hc, Option.map_some, Option.map_none, Option.some.injEq, reduceCtorEq] at h
  all_goals subst h; simp only [decodeSlot, hn]; rw [e.1, e.2.1, e.2.2, Pfx.ofBits_bits, hd hi]

/-- An operation whose unused bits are zero and whose fields pass its checks decodes. -/
theorem pack_ok {u : Bool} {i j : Instr} (hu : u = true) (hj : j = i) (h : i.problem = none) : pack u j = .ok i := by
  subst hu hj
  simp [pack, h]

/-! ## The operations, and the events, which no slot holds -/

theorem coldStart (cause : StartCause) : Statement (.coldStart cause) := of_none rfl rfl rfl rfl
theorem warmStart (cause : StartCause) : Statement (.warmStart cause) := of_none rfl rfl rfl rfl
theorem startStepComplete (r : StepResult) : Statement (.startStepComplete r) := of_none rfl rfl rfl rfl
theorem supplyEvent (rail : Nat) : Statement (.supplyEvent rail) := of_none rfl rfl rfl rfl
theorem thermalTrip (die : Nat) (temp : BitVec 12) : Statement (.thermalTrip die temp) := of_none rfl rfl rfl rfl
theorem doorbell (q : Nat) (v : BitVec 32) : Statement (.doorbell q v) := of_none rfl rfl rfl rfl
theorem qctlWrite (q : Nat) (v : W64) : Statement (.qctlWrite q v) := of_none rfl rfl rfl rfl
theorem registerWrite (w : HostWrite) : Statement (.registerWrite w) := of_none rfl rfl rfl rfl
theorem hostCopyComplete (pool : Bool) : Statement (.hostCopyComplete pool) := of_none rfl rfl rfl rfl
theorem fqctlResume (index : BitVec 16) : Statement (.fqctlResume index) := of_none rfl rfl rfl rfl
theorem recctlGo (v : W64) : Statement (.recctlGo v) := of_none rfl rfl rfl rfl
theorem tlbInvalidate (hi : W64) : Statement (.tlbInvalidate hi) := of_none rfl rfl rfl rfl
theorem fmtwRetire (w : Nat) : Statement (.fmtwRetire w) := of_none rfl rfl rfl rfl
theorem fmtwRetireComplete (w : Nat) : Statement (.fmtwRetireComplete w) := of_none rfl rfl rfl rfl
theorem fmtwEnable (w : Nat) (v : W64) : Statement (.fmtwEnable w v) := of_none rfl rfl rfl rfl
theorem lctlEnable (die dim : Nat) (en : Bool) : Statement (.lctlEnable die dim en) := of_none rfl rfl rfl rfl
theorem lctlRemap (die dim : Nat) : Statement (.lctlRemap die dim) := of_none rfl rfl rfl rfl
theorem lctlClrcnt (die dim : Nat) : Statement (.lctlClrcnt die dim) := of_none rfl rfl rfl rfl
theorem lctlLsset (die dim : Nat) (ls : BitVec 2) : Statement (.lctlLsset die dim ls) := of_none rfl rfl rfl rfl
theorem lpolWrite (die dim : Nat) (v : W64) : Statement (.lpolWrite die dim v) := of_none rfl rfl rfl rfl
theorem detourWrite (die dim : Nat) (v : W64) : Statement (.detourWrite die dim v) := of_none rfl rfl rfl rfl
theorem digclr (die dim : Nat) : Statement (.digclr die dim) := of_none rfl rfl rfl rfl
theorem dbgdataAccess (die : Nat) (v : Option W64) : Statement (.dbgdataAccess die v) := of_none rfl rfl rfl rfl
theorem flitReceive (die dim : Nat) (f : Flit) : Statement (.flitReceive die dim f) := of_none rfl rfl rfl rfl
theorem aseqReport (die dim : Nat) : Statement (.aseqReport die dim) := of_none rfl rfl rfl rfl
theorem nak (die dim : Nat) (lseq : BitVec 13) : Statement (.nak die dim lseq) := of_none rfl rfl rfl rfl
theorem mapprop (die dim : Nat) (mask : BitVec 16) (reason : Byte) : Statement (.mapprop die dim mask reason) := of_none rfl rfl rfl rfl
theorem mapack (die dim : Nat) (mask : BitVec 16) (lseq : BitVec 13) : Statement (.mapack die dim mask lseq) := of_none rfl rfl rfl rfl
theorem lsreq (die dim : Nat) (ls : BitVec 2) : Statement (.lsreq die dim ls) := of_none rfl rfl rfl rfl
theorem lsack (die dim : Nat) (ls : BitVec 2) (rejected : Bool) : Statement (.lsack die dim ls rejected) := of_none rfl rfl rfl rfl
theorem lsRequestHoldTimeout (die dim : Nat) : Statement (.lsRequestHoldTimeout die dim) := of_none rfl rfl rfl rfl
theorem laneFailing (die dim lane : Nat) (rx : Bool) : Statement (.laneFailing die dim lane rx) := of_none rfl rfl rfl rfl
theorem healthSample (die dim lane : Nat) (h : Health) : Statement (.healthSample die dim lane h) := of_none rfl rfl rfl rfl
theorem linkTrainingComplete (die dim : Nat) (tx rx : BitVec 16) : Statement (.linkTrainingComplete die dim tx rx) := of_none rfl rfl rfl rfl
theorem remapRetrainComplete (die dim : Nat) (tx rx : BitVec 16) : Statement (.remapRetrainComplete die dim tx rx) := of_none rfl rfl rfl rfl
theorem linkStateAnnouncement (die via dim : Nat) (state : BitVec 3) (ls : BitVec 2) : Statement (.linkStateAnnouncement die via dim state ls) := of_none rfl rfl rfl rfl
theorem drainResend (die dim : Nat) : Statement (.drainResend die dim) := of_none rfl rfl rfl rfl
theorem mrd (die : Nat) (p : Packet) : Statement (.mrd die p) := of_none rfl rfl rfl rfl
theorem mwr (die : Nat) (p : Packet) : Statement (.mwr die p) := of_none rfl rfl rfl rfl
theorem matom (die : Nat) (p : Packet) : Statement (.matom die p) := of_none rfl rfl rfl rfl
theorem msync (die : Nat) (p : Packet) : Statement (.msync die p) := of_none rfl rfl rfl rfl
theorem drain (die : Nat) (ch : BitVec 3) (p : Packet) : Statement (.drain die ch p) := of_none rfl rfl rfl rfl
theorem drainack (die : Nat) (p : Packet) : Statement (.drainack die p) := of_none rfl rfl rfl rfl
theorem mrdr (die : Nat) (p : Packet) : Statement (.mrdr die p) := of_none rfl rfl rfl rfl
theorem mwrr (die : Nat) (p : Packet) : Statement (.mwrr die p) := of_none rfl rfl rfl rfl
theorem matomr (die : Nat) (p : Packet) : Statement (.matomr die p) := of_none rfl rfl rfl rfl
theorem rtok (die : Nat) (p : Packet) : Statement (.rtok die p) := of_none rfl rfl rfl rfl
theorem push (die : Nat) (ch : BitVec 3) (p : Packet) : Statement (.push die ch p) := of_none rfl rfl rfl rfl
theorem eack (die : Nat) (p : Packet) : Statement (.eack die p) := of_none rfl rfl rfl rfl
theorem tsync (die : Nat) (p : Packet) : Statement (.tsync die p) := of_none rfl rfl rfl rfl
theorem tsyncr (die : Nat) (p : Packet) (clean : Bool) : Statement (.tsyncr die p clean) := of_none rfl rfl rfl rfl
theorem e2eTimeout (die peer cls : Nat) : Statement (.e2eTimeout die peer cls) := of_none rfl rfl rfl rfl
theorem sendEntryIdleFree (die peer cls : Nat) : Statement (.sendEntryIdleFree die peer cls) := of_none rfl rfl rfl rfl
theorem receiveEntryIdleFree (die peer cls : Nat) : Statement (.receiveEntryIdleFree die peer cls) := of_none rfl rfl rfl rfl
theorem bankClassRise (die bank : Nat) (cls : BitVec 3) : Statement (.bankClassRise die bank cls) := of_none rfl rfl rfl rfl
theorem bankClassFall (die bank : Nat) : Statement (.bankClassFall die bank) := of_none rfl rfl rfl rfl
theorem gallerySweep (die : Nat) (w : Sweep) : Statement (.gallerySweep die w) := of_none rfl rfl rfl rfl
theorem patrolScrub (bad : List Nat) : Statement (.patrolScrub bad) := of_none rfl rfl rfl rfl
theorem atriumEviction (line : Nat) : Statement (.atriumEviction line) := of_none rfl rfl rfl rfl
theorem landingDataArrival (die entry : Nat) (how : Arrival) : Statement (.landingDataArrival die entry how) := of_none rfl rfl rfl rfl
theorem codeLineArrival (die : Nat) (line : Nat) : Statement (.codeLineArrival die line) := of_none rfl rfl rfl rfl
theorem coldPageFetchComplete (handle page : Nat) (readError : Bool) : Statement (.coldPageFetchComplete handle page readError) := of_none rfl rfl rfl rfl
theorem copyCommandComplete (die stream granules : Nat) : Statement (.copyCommandComplete die stream granules) := of_none rfl rfl rfl rfl
theorem exchangeComplete (die stream : Nat) : Statement (.exchangeComplete die stream) := of_none rfl rfl rfl rfl
theorem tileLocksAcquired (die stream : Nat) : Statement (.tileLocksAcquired die stream) := of_none rfl rfl rfl rfl
theorem engineFault (die : Nat) (e : Engine) : Statement (.engineFault die e) := of_none rfl rfl rfl rfl
theorem xwaitExpiry (die stream : Nat) : Statement (.xwaitExpiry die stream) := of_none rfl rfl rfl rfl
theorem waitaTimeout (die stream : Nat) : Statement (.waitaTimeout die stream) := of_none rfl rfl rfl rfl
theorem spillDecrement (replay node : Nat) : Statement (.spillDecrement replay node) := of_none rfl rfl rfl rfl
theorem preloadRenewal (die row : Nat) : Statement (.preloadRenewal die row) := of_none rfl rfl rfl rfl
theorem replayRetire (replay : Nat) : Statement (.replayRetire replay) := of_none rfl rfl rfl rfl
theorem replayTimeout (replay : Nat) : Statement (.replayTimeout replay) := of_none rfl rfl rfl rfl
theorem residentRenewal (die row : Nat) : Statement (.residentRenewal die row) := of_none rfl rfl rfl rfl
theorem add (f : SR) : Statement (.add f) :=
  of_s rfl rfl rfl rfl fun h => pack_ok f.unusedOk_bits (congrArg Instr.add f.ofBits_bits) h
theorem sub (f : SR) : Statement (.sub f) :=
  of_s rfl rfl rfl rfl fun h => pack_ok f.unusedOk_bits (congrArg Instr.sub f.ofBits_bits) h
theorem addi (f : SI) : Statement (.addi f) :=
  of_s rfl rfl rfl rfl fun h => pack_ok f.unusedOk_bits (congrArg Instr.addi f.ofBits_bits) h
theorem mul (f : SR) : Statement (.mul f) :=
  of_s rfl rfl rfl rfl fun h => pack_ok f.unusedOk_bits (congrArg Instr.mul f.ofBits_bits) h
theorem mulhs (f : SR) : Statement (.mulhs f) :=
  of_s rfl rfl rfl rfl fun h => pack_ok f.unusedOk_bits (congrArg Instr.mulhs f.ofBits_bits) h
theorem mulhb (f : SR) : Statement (.mulhb f) :=
  of_s rfl rfl rfl rfl fun h => pack_ok f.unusedOk_bits (congrArg Instr.mulhb f.ofBits_bits) h
theorem divs (f : SR) : Statement (.divs f) :=
  of_s rfl rfl rfl rfl fun h => pack_ok f.unusedOk_bits (congrArg Instr.divs f.ofBits_bits) h
theorem divb (f : SR) : Statement (.divb f) :=
  of_s rfl rfl rfl rfl fun h => pack_ok f.unusedOk_bits (congrArg Instr.divb f.ofBits_bits) h
theorem rems (f : SR) : Statement (.rems f) :=
  of_s rfl rfl rfl rfl fun h => pack_ok f.unusedOk_bits (congrArg Instr.rems f.ofBits_bits) h
theorem remb (f : SR) : Statement (.remb f) :=
  of_s rfl rfl rfl rfl fun h => pack_ok f.unusedOk_bits (congrArg Instr.remb f.ofBits_bits) h
theorem and (f : SR) : Statement (.and f) :=
  of_s rfl rfl rfl rfl fun h => pack_ok f.unusedOk_bits (congrArg Instr.and f.ofBits_bits) h
theorem or (f : SR) : Statement (.or f) :=
  of_s rfl rfl rfl rfl fun h => pack_ok f.unusedOk_bits (congrArg Instr.or f.ofBits_bits) h
theorem xor (f : SR) : Statement (.xor f) :=
  of_s rfl rfl rfl rfl fun h => pack_ok f.unusedOk_bits (congrArg Instr.xor f.ofBits_bits) h
theorem andi (f : SI) : Statement (.andi f) :=
  of_s rfl rfl rfl rfl fun h => pack_ok f.unusedOk_bits (congrArg Instr.andi f.ofBits_bits) h
theorem ori (f : SI) : Statement (.ori f) :=
  of_s rfl rfl rfl rfl fun h => pack_ok f.unusedOk_bits (congrArg Instr.ori f.ofBits_bits) h
theorem xori (f : SI) : Statement (.xori f) :=
  of_s rfl rfl rfl rfl fun h => pack_ok f.unusedOk_bits (congrArg Instr.xori f.ofBits_bits) h
theorem shl (f : SR) : Statement (.shl f) :=
  of_s rfl rfl rfl rfl fun h => pack_ok f.unusedOk_bits (congrArg Instr.shl f.ofBits_bits) h
theorem shr (f : SR) : Statement (.shr f) :=
  of_s rfl rfl rfl rfl fun h => pack_ok f.unusedOk_bits (congrArg Instr.shr f.ofBits_bits) h
theorem sar (f : SR) : Statement (.sar f) :=
  of_s rfl rfl rfl rfl fun h => pack_ok f.unusedOk_bits (congrArg Instr.sar f.ofBits_bits) h
theorem shli (f : SI) : Statement (.shli f) :=
  of_s rfl rfl rfl rfl fun h => pack_ok f.unusedOk_bits (congrArg Instr.shli f.ofBits_bits) h
theorem shri (f : SI) : Statement (.shri f) :=
  of_s rfl rfl rfl rfl fun h => pack_ok f.unusedOk_bits (congrArg Instr.shri f.ofBits_bits) h
theorem sari (f : SI) : Statement (.sari f) :=
  of_s rfl rfl rfl rfl fun h => pack_ok f.unusedOk_bits (congrArg Instr.sari f.ofBits_bits) h
theorem min (f : SR) : Statement (.min f) :=
  of_s rfl rfl rfl rfl fun h => pack_ok f.unusedOk_bits (congrArg Instr.min f.ofBits_bits) h
theorem max (f : SR) : Statement (.max f) :=
  of_s rfl rfl rfl rfl fun h => pack_ok f.unusedOk_bits (congrArg Instr.max f.ofBits_bits) h
theorem minb (f : SR) : Statement (.minb f) :=
  of_s rfl rfl rfl rfl fun h => pack_ok f.unusedOk_bits (congrArg Instr.minb f.ofBits_bits) h
theorem maxb (f : SR) : Statement (.maxb f) :=
  of_s rfl rfl rfl rfl fun h => pack_ok f.unusedOk_bits (congrArg Instr.maxb f.ofBits_bits) h
theorem clz (f : SR) : Statement (.clz f) :=
  of_s rfl rfl rfl rfl fun h => pack_ok f.unusedOk_bits (congrArg Instr.clz f.ofBits_bits) h
theorem popc (f : SR) : Statement (.popc f) :=
  of_s rfl rfl rfl rfl fun h => pack_ok f.unusedOk_bits (congrArg Instr.popc f.ofBits_bits) h
theorem brev (f : SR) : Statement (.brev f) :=
  of_s rfl rfl rfl rfl fun h => pack_ok f.unusedOk_bits (congrArg Instr.brev f.ofBits_bits) h
theorem exts (f : SR) : Statement (.exts f) :=
  of_s rfl rfl rfl rfl fun h => pack_ok f.unusedOk_bits (congrArg Instr.exts f.ofBits_bits) h
theorem bfx (f : SI) : Statement (.bfx f) :=
  of_s rfl rfl rfl rfl fun h => pack_ok f.unusedOk_bits (congrArg Instr.bfx f.ofBits_bits) h
theorem bfi (f : SI) : Statement (.bfi f) :=
  of_s rfl rfl rfl rfl fun h => pack_ok f.unusedOk_bits (congrArg Instr.bfi f.ofBits_bits) h
theorem sel (f : SR) : Statement (.sel f) :=
  of_s rfl rfl rfl rfl fun h => pack_ok f.unusedOk_bits (congrArg Instr.sel f.ofBits_bits) h
theorem mov (f : SR) : Statement (.mov f) :=
  of_s rfl rfl rfl rfl fun h => pack_ok f.unusedOk_bits (congrArg Instr.mov f.ofBits_bits) h
theorem cmp (f : SR) : Statement (.cmp f) :=
  of_s rfl rfl rfl rfl fun h => pack_ok f.unusedOk_bits (congrArg Instr.cmp f.ofBits_bits) h
theorem movl (f : SL) : Statement (.movl f) :=
  of_s rfl rfl rfl rfl fun h => pack_ok f.unusedOk_bits (congrArg Instr.movl f.ofBits_bits) h
theorem cmpi (f : SI) : Statement (.cmpi f) :=
  of_s rfl rfl rfl rfl fun h => pack_ok f.unusedOk_bits (congrArg Instr.cmpi f.ofBits_bits) h
theorem pand (f : SP) : Statement (.pand f) :=
  of_s rfl rfl rfl rfl fun h => pack_ok f.unusedOk_bits (congrArg Instr.pand f.ofBits_bits) h
theorem por (f : SP) : Statement (.por f) :=
  of_s rfl rfl rfl rfl fun h => pack_ok f.unusedOk_bits (congrArg Instr.por f.ofBits_bits) h
theorem pxor (f : SP) : Statement (.pxor f) :=
  of_s rfl rfl rfl rfl fun h => pack_ok f.unusedOk_bits (congrArg Instr.pxor f.ofBits_bits) h
theorem pnot (f : SP) : Statement (.pnot f) :=
  of_s rfl rfl rfl rfl fun h => pack_ok f.unusedOk_bits (congrArg Instr.pnot f.ofBits_bits) h
theorem aadd (f : SR) : Statement (.aadd f) :=
  of_s rfl rfl rfl rfl fun h => pack_ok f.unusedOk_bits (congrArg Instr.aadd f.ofBits_bits) h
theorem amov (f : SR) : Statement (.amov f) :=
  of_s rfl rfl rfl rfl fun h => pack_ok f.unusedOk_bits (congrArg Instr.amov f.ofBits_bits) h
theorem adiff (f : SR) : Statement (.adiff f) :=
  of_s rfl rfl rfl rfl fun h => pack_ok f.unusedOk_bits (congrArg Instr.adiff f.ofBits_bits) h
theorem aaddi (f : SI) : Statement (.aaddi f) :=
  of_s rfl rfl rfl rfl fun h => pack_ok f.unusedOk_bits (congrArg Instr.aaddi f.ofBits_bits) h
theorem alit (f : SL) : Statement (.alit f) :=
  of_s rfl rfl rfl rfl fun h => pack_ok f.unusedOk_bits (congrArg Instr.alit f.ofBits_bits) h
theorem ld (size : BitVec 3) (f : SM) : Statement (.ld size f) :=
  of_s rfl rfl rfl rfl fun h => by
    obtain ⟨⟨z, hz⟩⟩ := size
    rcases (by omega : z = 0 ∨ z = 1 ∨ z = 2 ∨ z = 3 ∨ z = 4 ∨ z = 5 ∨ z = 6 ∨ z = 7) with rfl | rfl | rfl | rfl | rfl | rfl | rfl | rfl
    all_goals first
      | exact pack_ok f.unusedOk_bits (congrArg (Instr.ld _) f.ofBits_bits) h
      | exact absurd h (by simp [Instr.problem, firstBad])
theorem st (size : BitVec 2) (f : SM) : Statement (.st size f) :=
  of_s rfl rfl rfl rfl fun h => by
    obtain ⟨⟨z, hz⟩⟩ := size
    rcases (by omega : z = 0 ∨ z = 1 ∨ z = 2 ∨ z = 3) with rfl | rfl | rfl | rfl
    all_goals first
      | exact pack_ok f.unusedOk_bits (congrArg (Instr.st _) f.ofBits_bits) h
      | exact absurd h (by simp [Instr.problem, firstBad])
theorem lda (f : SM) : Statement (.lda f) :=
  of_s rfl rfl rfl rfl fun h => pack_ok f.unusedOk_bits (congrArg Instr.lda f.ofBits_bits) h
theorem sta (f : SM) : Statement (.sta f) :=
  of_s rfl rfl rfl rfl fun h => pack_ok f.unusedOk_bits (congrArg Instr.sta f.ofBits_bits) h
theorem spl (size : BitVec 3) (f : SM) : Statement (.spl size f) :=
  of_s rfl rfl rfl rfl fun h => by
    obtain ⟨⟨z, hz⟩⟩ := size
    rcases (by omega : z = 0 ∨ z = 1 ∨ z = 2 ∨ z = 3 ∨ z = 4 ∨ z = 5 ∨ z = 6 ∨ z = 7) with rfl | rfl | rfl | rfl | rfl | rfl | rfl | rfl
    all_goals first
      | exact pack_ok f.unusedOk_bits (congrArg (Instr.spl _) f.ofBits_bits) h
      | exact absurd h (by simp [Instr.problem, firstBad])
theorem sps (size : BitVec 2) (f : SM) : Statement (.sps size f) :=
  of_s rfl rfl rfl rfl fun h => by
    obtain ⟨⟨z, hz⟩⟩ := size
    rcases (by omega : z = 0 ∨ z = 1 ∨ z = 2 ∨ z = 3) with rfl | rfl | rfl | rfl
    all_goals first
      | exact pack_ok f.unusedOk_bits (congrArg (Instr.sps _) f.ofBits_bits) h
      | exact absurd h (by simp [Instr.problem, firstBad])
theorem gld (size : BitVec 3) (f : SM) : Statement (.gld size f) :=
  of_s rfl rfl rfl rfl fun h => by
    obtain ⟨⟨z, hz⟩⟩ := size
    rcases (by omega : z = 0 ∨ z = 1 ∨ z = 2 ∨ z = 3 ∨ z = 4 ∨ z = 5 ∨ z = 6 ∨ z = 7) with rfl | rfl | rfl | rfl | rfl | rfl | rfl | rfl
    all_goals first
      | exact pack_ok f.unusedOk_bits (congrArg (Instr.gld _) f.ofBits_bits) h
      | exact absurd h (by simp [Instr.problem, firstBad])
theorem gst (size : BitVec 2) (f : SM) : Statement (.gst size f) :=
  of_s rfl rfl rfl rfl fun h => by
    obtain ⟨⟨z, hz⟩⟩ := size
    rcases (by omega : z = 0 ∨ z = 1 ∨ z = 2 ∨ z = 3) with rfl | rfl | rfl | rfl
    all_goals first
      | exact pack_ok f.unusedOk_bits (congrArg (Instr.gst _) f.ofBits_bits) h
      | exact absurd h (by simp [Instr.problem, firstBad])
theorem br (f : SB) : Statement (.br f) :=
  of_s rfl rfl rfl rfl fun h => pack_ok f.unusedOk_bits (congrArg Instr.br f.ofBits_bits) h
theorem call (f : SB) : Statement (.call f) :=
  of_s rfl rfl rfl rfl fun h => pack_ok f.unusedOk_bits (congrArg Instr.call f.ofBits_bits) h
theorem jmpi (f : SR) : Statement (.jmpi f) :=
  of_s rfl rfl rfl rfl fun h => pack_ok f.unusedOk_bits (congrArg Instr.jmpi f.ofBits_bits) h
theorem tstb (f : SR) : Statement (.tstb f) :=
  of_s rfl rfl rfl rfl fun h => pack_ok f.unusedOk_bits (congrArg Instr.tstb f.ofBits_bits) h
theorem loop (f : SI) : Statement (.loop f) :=
  of_s rfl rfl rfl rfl fun h => pack_ok f.unusedOk_bits (congrArg Instr.loop f.ofBits_bits) h
theorem setshape (f : SR) : Statement (.setshape f) :=
  of_s rfl rfl rfl rfl fun h => pack_ok f.unusedOk_bits (congrArg Instr.setshape f.ofBits_bits) h
theorem getshape (f : SR) : Statement (.getshape f) :=
  of_s rfl rfl rfl rfl fun h => pack_ok f.unusedOk_bits (congrArg Instr.getshape f.ofBits_bits) h
theorem node (f : SR) : Statement (.node f) :=
  of_s rfl rfl rfl rfl fun h => pack_ok f.unusedOk_bits (congrArg Instr.node f.ofBits_bits) h
theorem sysr (f : SI) : Statement (.sysr f) :=
  of_s rfl rfl rfl rfl fun h => pack_ok f.unusedOk_bits (congrArg Instr.sysr f.ofBits_bits) h
theorem sysw (f : SI) : Statement (.sysw f) :=
  of_s rfl rfl rfl rfl fun h => pack_ok f.unusedOk_bits (congrArg Instr.sysw f.ofBits_bits) h
theorem trap (f : SI) : Statement (.trap f) :=
  of_s rfl rfl rfl rfl fun h => pack_ok f.unusedOk_bits (congrArg Instr.trap f.ofBits_bits) h
theorem fence (f : SR) : Statement (.fence f) :=
  of_s rfl rfl rfl rfl fun h => pack_ok f.unusedOk_bits (congrArg Instr.fence f.ofBits_bits) h
theorem vadd (f : VR) : Statement (.vadd f) :=
  of_v rfl rfl rfl rfl fun h => pack_ok f.unusedOk_bits (congrArg Instr.vadd f.ofBits_bits) h
theorem vsub (f : VR) : Statement (.vsub f) :=
  of_v rfl rfl rfl rfl fun h => pack_ok f.unusedOk_bits (congrArg Instr.vsub f.ofBits_bits) h
theorem vmul (f : VR) : Statement (.vmul f) :=
  of_v rfl rfl rfl rfl fun h => pack_ok f.unusedOk_bits (congrArg Instr.vmul f.ofBits_bits) h
theorem vmulh (f : VR) : Statement (.vmulh f) :=
  of_v rfl rfl rfl rfl fun h => pack_ok f.unusedOk_bits (congrArg Instr.vmulh f.ofBits_bits) h
theorem vmac (f : VR) : Statement (.vmac f) :=
  of_v rfl rfl rfl rfl fun h => pack_ok f.unusedOk_bits (congrArg Instr.vmac f.ofBits_bits) h
theorem vadds (f : VR) : Statement (.vadds f) :=
  of_v rfl rfl rfl rfl fun h => pack_ok f.unusedOk_bits (congrArg Instr.vadds f.ofBits_bits) h
theorem vsubs (f : VR) : Statement (.vsubs f) :=
  of_v rfl rfl rfl rfl fun h => pack_ok f.unusedOk_bits (congrArg Instr.vsubs f.ofBits_bits) h
theorem vshl (f : VR) : Statement (.vshl f) :=
  of_v rfl rfl rfl rfl fun h => pack_ok f.unusedOk_bits (congrArg Instr.vshl f.ofBits_bits) h
theorem vshr (f : VR) : Statement (.vshr f) :=
  of_v rfl rfl rfl rfl fun h => pack_ok f.unusedOk_bits (congrArg Instr.vshr f.ofBits_bits) h
theorem vsar (f : VR) : Statement (.vsar f) :=
  of_v rfl rfl rfl rfl fun h => pack_ok f.unusedOk_bits (congrArg Instr.vsar f.ofBits_bits) h
theorem vand (f : VR) : Statement (.vand f) :=
  of_v rfl rfl rfl rfl fun h => pack_ok f.unusedOk_bits (congrArg Instr.vand f.ofBits_bits) h
theorem vor (f : VR) : Statement (.vor f) :=
  of_v rfl rfl rfl rfl fun h => pack_ok f.unusedOk_bits (congrArg Instr.vor f.ofBits_bits) h
theorem vxor (f : VR) : Statement (.vxor f) :=
  of_v rfl rfl rfl rfl fun h => pack_ok f.unusedOk_bits (congrArg Instr.vxor f.ofBits_bits) h
theorem vmin (f : VR) : Statement (.vmin f) :=
  of_v rfl rfl rfl rfl fun h => pack_ok f.unusedOk_bits (congrArg Instr.vmin f.ofBits_bits) h
theorem vmax (f : VR) : Statement (.vmax f) :=
  of_v rfl rfl rfl rfl fun h => pack_ok f.unusedOk_bits (congrArg Instr.vmax f.ofBits_bits) h
theorem vabs (f : VR) : Statement (.vabs f) :=
  of_v rfl rfl rfl rfl fun h => pack_ok f.unusedOk_bits (congrArg Instr.vabs f.ofBits_bits) h
theorem vwiden (f : VR) : Statement (.vwiden f) :=
  of_v rfl rfl rfl rfl fun h => pack_ok f.unusedOk_bits (congrArg Instr.vwiden f.ofBits_bits) h
theorem vnarrow (f : VR) : Statement (.vnarrow f) :=
  of_v rfl rfl rfl rfl fun h => pack_ok f.unusedOk_bits (congrArg Instr.vnarrow f.ofBits_bits) h
theorem vfadd (f : VR) : Statement (.vfadd f) :=
  of_v rfl rfl rfl rfl fun h => pack_ok f.unusedOk_bits (congrArg Instr.vfadd f.ofBits_bits) h
theorem vfsub (f : VR) : Statement (.vfsub f) :=
  of_v rfl rfl rfl rfl fun h => pack_ok f.unusedOk_bits (congrArg Instr.vfsub f.ofBits_bits) h
theorem vfmul (f : VR) : Statement (.vfmul f) :=
  of_v rfl rfl rfl rfl fun h => pack_ok f.unusedOk_bits (congrArg Instr.vfmul f.ofBits_bits) h
theorem vfma (f : VR) : Statement (.vfma f) :=
  of_v rfl rfl rfl rfl fun h => pack_ok f.unusedOk_bits (congrArg Instr.vfma f.ofBits_bits) h
theorem vfmin (f : VR) : Statement (.vfmin f) :=
  of_v rfl rfl rfl rfl fun h => pack_ok f.unusedOk_bits (congrArg Instr.vfmin f.ofBits_bits) h
theorem vfmax (f : VR) : Statement (.vfmax f) :=
  of_v rfl rfl rfl rfl fun h => pack_ok f.unusedOk_bits (congrArg Instr.vfmax f.ofBits_bits) h
theorem vfsgn (f : VR) : Statement (.vfsgn f) :=
  of_v rfl rfl rfl rfl fun h => pack_ok f.unusedOk_bits (congrArg Instr.vfsgn f.ofBits_bits) h
theorem vcvt (f : VR) : Statement (.vcvt f) :=
  of_v rfl rfl rfl rfl fun h => pack_ok f.unusedOk_bits (congrArg Instr.vcvt f.ofBits_bits) h
theorem vcmp (f : VR) : Statement (.vcmp f) :=
  of_v rfl rfl rfl rfl fun h => pack_ok f.unusedOk_bits (congrArg Instr.vcmp f.ofBits_bits) h
theorem vrcp (f : VR) : Statement (.vrcp f) :=
  of_v rfl rfl rfl rfl fun h => pack_ok f.unusedOk_bits (congrArg Instr.vrcp f.ofBits_bits) h
theorem vrsq (f : VR) : Statement (.vrsq f) :=
  of_v rfl rfl rfl rfl fun h => pack_ok f.unusedOk_bits (congrArg Instr.vrsq f.ofBits_bits) h
theorem vexp2 (f : VR) : Statement (.vexp2 f) :=
  of_v rfl rfl rfl rfl fun h => pack_ok f.unusedOk_bits (congrArg Instr.vexp2 f.ofBits_bits) h
theorem vlog2 (f : VR) : Statement (.vlog2 f) :=
  of_v rfl rfl rfl rfl fun h => pack_ok f.unusedOk_bits (congrArg Instr.vlog2 f.ofBits_bits) h
theorem vsel (f : VR) : Statement (.vsel f) :=
  of_v rfl rfl rfl rfl fun h => pack_ok f.unusedOk_bits (congrArg Instr.vsel f.ofBits_bits) h
theorem kop (f : VR) : Statement (.kop f) :=
  of_v rfl rfl rfl rfl fun h => pack_ok f.unusedOk_bits (congrArg Instr.kop f.ofBits_bits) h
theorem vperm (f : VR) : Statement (.vperm f) :=
  of_v rfl rfl rfl rfl fun h => pack_ok f.unusedOk_bits (congrArg Instr.vperm f.ofBits_bits) h
theorem vrot (f : VR) : Statement (.vrot f) :=
  of_v rfl rfl rfl rfl fun h => pack_ok f.unusedOk_bits (congrArg Instr.vrot f.ofBits_bits) h
theorem vbcast (f : VR) : Statement (.vbcast f) :=
  of_v rfl rfl rfl rfl fun h => pack_ok f.unusedOk_bits (congrArg Instr.vbcast f.ofBits_bits) h
theorem vextr (f : VR) : Statement (.vextr f) :=
  of_v rfl rfl rfl rfl fun h => pack_ok f.unusedOk_bits (congrArg Instr.vextr f.ofBits_bits) h
theorem vins (f : VR) : Statement (.vins f) :=
  of_v rfl rfl rfl rfl fun h => pack_ok f.unusedOk_bits (congrArg Instr.vins f.ofBits_bits) h
theorem vreda (f : VR) : Statement (.vreda f) :=
  of_v rfl rfl rfl rfl fun h => pack_ok f.unusedOk_bits (congrArg Instr.vreda f.ofBits_bits) h
theorem vredm (f : VR) : Statement (.vredm f) :=
  of_v rfl rfl rfl rfl fun h => pack_ok f.unusedOk_bits (congrArg Instr.vredm f.ofBits_bits) h
theorem vld (f : VM) : Statement (.vld f) :=
  of_v rfl rfl rfl rfl fun h => pack_ok f.unusedOk_bits (congrArg Instr.vld f.ofBits_bits) h
theorem vst (f : VM) : Statement (.vst f) :=
  of_v rfl rfl rfl rfl fun h => pack_ok f.unusedOk_bits (congrArg Instr.vst f.ofBits_bits) h
theorem vgld (f : VM) : Statement (.vgld f) :=
  of_v rfl rfl rfl rfl fun h => pack_ok f.unusedOk_bits (congrArg Instr.vgld f.ofBits_bits) h
theorem vgst (f : VM) : Statement (.vgst f) :=
  of_v rfl rfl rfl rfl fun h => pack_ok f.unusedOk_bits (congrArg Instr.vgst f.ofBits_bits) h
theorem vgath (f : VR) : Statement (.vgath f) :=
  of_v rfl rfl rfl rfl fun h => pack_ok f.unusedOk_bits (congrArg Instr.vgath f.ofBits_bits) h
theorem vscat (f : VR) : Statement (.vscat f) :=
  of_v rfl rfl rfl rfl fun h => pack_ok f.unusedOk_bits (congrArg Instr.vscat f.ofBits_bits) h
theorem mma (f : MT) : Statement (.mma f) :=
  of_m rfl rfl rfl rfl fun h => pack_ok f.unusedOk_bits (congrArg Instr.mma f.ofBits_bits) h
theorem mmai (f : MT) : Statement (.mmai f) :=
  of_m rfl rfl rfl rfl fun h => pack_ok f.unusedOk_bits (congrArg Instr.mmai f.ofBits_bits) h
theorem mmap (f : MT) : Statement (.mmap f) :=
  of_m rfl rfl rfl rfl fun h => pack_ok f.unusedOk_bits (congrArg Instr.mmap f.ofBits_bits) h
theorem zacc (f : MT) : Statement (.zacc f) :=
  of_m rfl rfl rfl rfl fun h => pack_ok f.unusedOk_bits (congrArg Instr.zacc f.ofBits_bits) h
theorem zadd (f : MS) : Statement (.zadd f) :=
  of_m rfl rfl rfl rfl fun h => pack_ok f.unusedOk_bits (congrArg Instr.zadd f.ofBits_bits) h
theorem zret (f : MT) : Statement (.zret f) :=
  of_m rfl rfl rfl rfl fun h => pack_ok f.unusedOk_bits (congrArg Instr.zret f.ofBits_bits) h
theorem talloc (f : MS) : Statement (.talloc f) :=
  of_m rfl rfl rfl rfl fun h => pack_ok f.unusedOk_bits (congrArg Instr.talloc f.ofBits_bits) h
theorem tfree (f : MS) : Statement (.tfree f) :=
  of_m rfl rfl rfl rfl fun h => pack_ok f.unusedOk_bits (congrArg Instr.tfree f.ofBits_bits) h
theorem tstat (f : MS) : Statement (.tstat f) :=
  of_m rfl rfl rfl rfl fun h => pack_ok f.unusedOk_bits (congrArg Instr.tstat f.ofBits_bits) h
theorem trenew (f : MS) : Statement (.trenew f) :=
  of_m rfl rfl rfl rfl fun h => pack_ok f.unusedOk_bits (congrArg Instr.trenew f.ofBits_bits) h
theorem txpose (f : MS) : Statement (.txpose f) :=
  of_m rfl rfl rfl rfl fun h => pack_ok f.unusedOk_bits (congrArg Instr.txpose f.ofBits_bits) h
theorem tcvt (f : MS) : Statement (.tcvt f) :=
  of_m rfl rfl rfl rfl fun h => pack_ok f.unusedOk_bits (congrArg Instr.tcvt f.ofBits_bits) h
theorem tfill (f : MS) : Statement (.tfill f) :=
  of_m rfl rfl rfl rfl fun h => pack_ok f.unusedOk_bits (congrArg Instr.tfill f.ofBits_bits) h
theorem cbld (f : MS) : Statement (.cbld f) :=
  of_m rfl rfl rfl rfl fun h => pack_ok f.unusedOk_bits (congrArg Instr.cbld f.ofBits_bits) h
theorem ptb (f : MS) : Statement (.ptb f) :=
  of_m rfl rfl rfl rfl fun h => pack_ok f.unusedOk_bits (congrArg Instr.ptb f.ofBits_bits) h
theorem yld (f : MT) : Statement (.yld f) :=
  of_m rfl rfl rfl rfl fun h => pack_ok f.unusedOk_bits (congrArg Instr.yld f.ofBits_bits) h
theorem yclr (f : MT) : Statement (.yclr f) :=
  of_m rfl rfl rfl rfl fun h => pack_ok f.unusedOk_bits (congrArg Instr.yclr f.ofBits_bits) h
theorem cnest (f : CN) : Statement (.cnest f) :=
  of_c rfl rfl rfl rfl fun h => pack_ok f.unusedOk_bits (congrArg Instr.cnest f.ofBits_bits) h
theorem cpy (f : CX) : Statement (.cpy f) :=
  of_c rfl rfl rfl rfl fun h => pack_ok f.unusedOk_bits (congrArg Instr.cpy f.ofBits_bits) h
theorem cpym (f : CX) : Statement (.cpym f) :=
  of_c rfl rfl rfl rfl fun h => pack_ok f.unusedOk_bits (congrArg Instr.cpym f.ofBits_bits) h
theorem tld (f : CX) : Statement (.tld f) :=
  of_c rfl rfl rfl rfl fun h => pack_ok f.unusedOk_bits (congrArg Instr.tld f.ofBits_bits) h
theorem tst (f : CX) : Statement (.tst f) :=
  of_c rfl rfl rfl rfl fun h => pack_ok f.unusedOk_bits (congrArg Instr.tst f.ofBits_bits) h
theorem tred (f : CX) : Statement (.tred f) :=
  of_c rfl rfl rfl rfl fun h => pack_ok f.unusedOk_bits (congrArg Instr.tred f.ofBits_bits) h
theorem rwb (f : CX) : Statement (.rwb f) :=
  of_c rfl rfl rfl rfl fun h => pack_ok f.unusedOk_bits (congrArg Instr.rwb f.ofBits_bits) h
theorem rinv (f : CX) : Statement (.rinv f) :=
  of_c rfl rfl rfl rfl fun h => pack_ok f.unusedOk_bits (congrArg Instr.rinv f.ofBits_bits) h
theorem pref (f : CX) : Statement (.pref f) :=
  of_c rfl rfl rfl rfl fun h => pack_ok f.unusedOk_bits (congrArg Instr.pref f.ofBits_bits) h
theorem amo (f : CA) : Statement (.amo f) :=
  of_c rfl rfl rfl rfl fun h => pack_ok f.unusedOk_bits (congrArg Instr.amo f.ofBits_bits) h
theorem cas (f : CA) : Statement (.cas f) :=
  of_c rfl rfl rfl rfl fun h => pack_ok f.unusedOk_bits (congrArg Instr.cas f.ofBits_bits) h
theorem bind (f : CX) : Statement (.bind f) :=
  of_c rfl rfl rfl rfl fun h => pack_ok f.unusedOk_bits (congrArg Instr.bind f.ofBits_bits) h
theorem acq (f : CA) : Statement (.acq f) :=
  of_c rfl rfl rfl rfl fun h => pack_ok f.unusedOk_bits (congrArg Instr.acq f.ofBits_bits) h
theorem rel (f : CA) : Statement (.rel f) :=
  of_c rfl rfl rfl rfl fun h => pack_ok f.unusedOk_bits (congrArg Instr.rel f.ofBits_bits) h
theorem waita (f : CA) : Statement (.waita f) :=
  of_c rfl rfl rfl rfl fun h => pack_ok f.unusedOk_bits (congrArg Instr.waita f.ofBits_bits) h
theorem wake (f : CA) : Statement (.wake f) :=
  of_c rfl rfl rfl rfl fun h => pack_ok f.unusedOk_bits (congrArg Instr.wake f.ofBits_bits) h
theorem dec (f : CA) : Statement (.dec f) :=
  of_c rfl rfl rfl rfl fun h => pack_ok f.unusedOk_bits (congrArg Instr.dec f.ofBits_bits) h
theorem scld (f : CA) : Statement (.scld f) :=
  of_c rfl rfl rfl rfl fun h => pack_ok f.unusedOk_bits (congrArg Instr.scld f.ofBits_bits) h
theorem scst (f : CA) : Statement (.scst f) :=
  of_c rfl rfl rfl rfl fun h => pack_ok f.unusedOk_bits (congrArg Instr.scst f.ofBits_bits) h
theorem xch (f : CD) : Statement (.xch f) :=
  of_c rfl rfl rfl rfl fun h => pack_ok f.unusedOk_bits (congrArg Instr.xch f.ofBits_bits) h
theorem xcc (f : CD) : Statement (.xcc f) :=
  of_c rfl rfl rfl rfl fun h => pack_ok f.unusedOk_bits (congrArg Instr.xcc f.ofBits_bits) h
theorem sib (f : CD) : Statement (.sib f) :=
  of_c rfl rfl rfl rfl fun h => pack_ok f.unusedOk_bits (congrArg Instr.sib f.ofBits_bits) h
theorem grs (f : CD) : Statement (.grs f) :=
  of_c rfl rfl rfl rfl fun h => pack_ok f.unusedOk_bits (congrArg Instr.grs f.ofBits_bits) h
theorem dbar (f : CD) : Statement (.dbar f) :=
  of_c rfl rfl rfl rfl fun h => pack_ok f.unusedOk_bits (congrArg Instr.dbar f.ofBits_bits) h
theorem xdig (f : CD) : Statement (.xdig f) :=
  of_c rfl rfl rfl rfl fun h => pack_ok f.unusedOk_bits (congrArg Instr.xdig f.ofBits_bits) h
theorem writePerformed (die : Nat) (w : StorePart) : Statement (.writePerformed die w) := of_none rfl rfl rfl rfl
theorem flitTransmit (die dim : Nat) : Statement (.flitTransmit die dim) := of_none rfl rfl rfl rfl
theorem eackSend (die peer cls : Nat) : Statement (.eackSend die peer cls) := of_none rfl rfl rfl rfl
theorem fmtwEnableComplete (w : Nat) : Statement (.fmtwEnableComplete w) := of_none rfl rfl rfl rfl
theorem laserRampComplete (die dim : Nat) : Statement (.laserRampComplete die dim) := of_none rfl rfl rfl rfl
theorem cmdNop : Statement .cmdNop := of_none rfl rfl rfl rfl
theorem launch : Statement .launch := of_none rfl rfl rfl rfl
theorem replayAccept : Statement .replayAccept := of_none rfl rfl rfl rfl
theorem signal : Statement .signal := of_none rfl rfl rfl rfl
theorem wait : Statement .wait := of_none rfl rfl rfl rfl
theorem waitTimeout : Statement .waitTimeout := of_none rfl rfl rfl rfl
theorem loadco : Statement .loadco := of_none rfl rfl rfl rfl
theorem freeco : Statement .freeco := of_none rfl rfl rfl rfl
theorem patch : Statement .patch := of_none rfl rfl rfl rfl
theorem copy : Statement .copy := of_none rfl rfl rfl rfl
theorem attest : Statement .attest := of_none rfl rfl rfl rfl
theorem ctxsetCreate : Statement .ctxsetCreate := of_none rfl rfl rfl rfl
theorem ctxsetDestroy : Statement .ctxsetDestroy := of_none rfl rfl rfl rfl
theorem keyreg : Statement .keyreg := of_none rfl rfl rfl rfl
theorem keylock : Statement .keylock := of_none rfl rfl rfl rfl
theorem codefloor : Statement .codefloor := of_none rfl rfl rfl rfl
theorem fwupdate : Statement .fwupdate := of_none rfl rfl rfl rfl
theorem svncommit : Statement .svncommit := of_none rfl rfl rfl rfl
theorem setpsPs1 : Statement .setpsPs1 := of_none rfl rfl rfl rfl
theorem setpsPs2 : Statement .setpsPs2 := of_none rfl rfl rfl rfl
theorem setpsPs3 : Statement .setpsPs3 := of_none rfl rfl rfl rfl
theorem mgmtWarmstart : Statement .mgmtWarmstart := of_none rfl rfl rfl rfl
theorem mgmtColdstart : Statement .mgmtColdstart := of_none rfl rfl rfl rfl
theorem mgmtNonce : Statement .mgmtNonce := of_none rfl rfl rfl rfl
theorem mgmtUnlock : Statement .mgmtUnlock := of_none rfl rfl rfl rfl
theorem mgmtLock : Statement .mgmtLock := of_none rfl rfl rfl rfl
theorem mgmtFaenter : Statement .mgmtFaenter := of_none rfl rfl rfl rfl
theorem qstatHaltedResume : Statement .qstatHaltedResume := of_none rfl rfl rfl rfl
theorem fstatClr : Statement .fstatClr := of_none rfl rfl rfl rfl
theorem debugHalt : Statement .debugHalt := of_none rfl rfl rfl rfl
theorem debugResume : Statement .debugResume := of_none rfl rfl rfl rfl
theorem debugStep : Statement .debugStep := of_none rfl rfl rfl rfl
theorem haltCascadeNotice : Statement .haltCascadeNotice := of_none rfl rfl rfl rfl
theorem ftcSyncPeriod : Statement .ftcSyncPeriod := of_none rfl rfl rfl rfl
theorem ftcSampleTimeout : Statement .ftcSampleTimeout := of_none rfl rfl rfl rfl
theorem matrixCommandComplete : Statement .matrixCommandComplete := of_none rfl rfl rfl rfl
theorem taskDispatch : Statement .taskDispatch := of_none rfl rfl rfl rfl
theorem taskEnd : Statement .taskEnd := of_none rfl rfl rfl rfl
theorem budgetOverrun : Statement .budgetOverrun := of_none rfl rfl rfl rfl
theorem preemptionPoint : Statement .preemptionPoint := of_none rfl rfl rfl rfl
theorem saveComplete : Statement .saveComplete := of_none rfl rfl rfl rfl
theorem restoreComplete : Statement .restoreComplete := of_none rfl rfl rfl rfl
theorem staggeredPowerUp : Statement .staggeredPowerUp := of_none rfl rfl rfl rfl
theorem functionLevelReset : Statement .functionLevelReset := of_none rfl rfl rfl rfl
theorem psExitComplete : Statement .psExitComplete := of_none rfl rfl rfl rfl
theorem queueSelect : Statement .queueSelect := of_none rfl rfl rfl rfl
theorem pwrctlCold : Statement .pwrctlCold := of_none rfl rfl rfl rfl
theorem tlbInvalidateComplete : Statement .tlbInvalidateComplete := of_none rfl rfl rfl rfl
theorem lightingSlot : Statement .lightingSlot := of_none rfl rfl rfl rfl
theorem policyWindow : Statement .policyWindow := of_none rfl rfl rfl rfl
theorem dieCycle : Statement .dieCycle := of_none rfl rfl rfl rfl
theorem startRetryAfterTrip : Statement .startRetryAfterTrip := of_none rfl rfl rfl rfl
theorem vector65IntervalEnd : Statement .vector65IntervalEnd := of_none rfl rfl rfl rfl
theorem nop : Statement .nop := of_s rfl rfl rfl rfl fun h => pack_ok rfl rfl h
theorem ret : Statement .ret := of_s rfl rfl rfl rfl fun h => pack_ok rfl rfl h
theorem fend : Statement .fend := of_s rfl rfl rfl rfl fun h => pack_ok rfl rfl h
theorem tret : Statement .tret := of_s rfl rfl rfl rfl fun h => pack_ok rfl rfl h

end Sys2Proof.Laws.RoundTrip
end

