-- ==== Sys2Proof/Safety.lean ====
section
/-! DEFINITION. Safe runs: a run of the machine goes on where every step answers a next state. Nothing the spec describes
stops the package, and no step of the model stops it. -/

namespace Sys2Proof.Safety

open Sys2Proof.Machine

/-- The state after n steps, if each of them answers a next state. -/
def after : Nat → State → Option State
  | 0, s => some s
  | n + 1, s => match step s with | .next t => after n t | _ => none

/-- A run of n steps goes on. -/
def Safe (n : Nat) (s : State) : Prop := (after n s).isSome = true

/-- An operation alone in its bundle, with a true guard, issues: no precise check of the bundle fails (07 R163, R170; 12 R312;
18 R456), nothing stalls it, and the sequencer holds nothing of another bundle. -/
structure Ready (s : State) (i : Instr) : Prop where
  untrapped : s.issueTrap [(s.issue.slot, i)] [(s.issue.slot, i)] = none
  flows : s.mustStall [(s.issue.slot, i)] = false
  noSoft : s.cur.seq.soft = none
  noTarget : s.cur.seq.target = none
  noWrites : s.cur.seq.gwrites = []

/-- No node waits to be opened, to be checked or for room (06 R133, R139). -/
def Opened (s : State) : Prop := ∀ q ∈ s.replays, q.overflow = [] ∧ q.listing = [] ∧ ∀ m ∈ q.pooled, (q.flights.get? m).isSome

/-- A die with the slot port's writes of its bundle made (15 R397). -/
def slotWrites (s : State) : Die := s.cur.seq.gwrites.foldl (fun d ws => d.gwrite (s.us s.issue.die) ws) s.cur

/-- What becomes of a state s, which holds the operation's own effect, when its bundle has issued: nothing else of the package,
of its memory, of another die, or of the die's registers, flags and special registers changes; the slot port's writes are made;
the sequencer goes on at the target, or behind the bundle. -/
structure Issued (s t : State) : Prop where
  package : t = { s with dies := t.dies }
  others : ∀ y, y ≠ s.issue.die → t.die y = s.die y
  regs : t.cur.c = { s.cur.c with loop := t.cur.c.loop }
  count : t.cur.cnt = { s.cur.cnt with ibun := s.cur.cnt.ibun + 1 }
  seq : t.cur.seq =
    { s.cur.seq with
      pc := t.cur.seq.pc, noFall := t.cur.seq.noFall, score := t.cur.seq.score, decideAt := t.cur.seq.decideAt
      schedAt := t.cur.seq.schedAt, held := none, target := none, soft := none, gwrites := [] }
  rest : { t.cur with c := s.cur.c, seq := s.cur.seq, cnt := s.cur.cnt } =
    { slotWrites s with c := s.cur.c, seq := s.cur.seq, cnt := s.cur.cnt }
  flow : match s.cur.seq.target with
    | some (pc, n) =>
      t.cur.seq.pc = pc ∧ t.cur.c.loop = s.cur.c.loop ∧ t.cur.seq.decideAt = s.cur.seq.cycle + n
    | none => t.cur.seq.decideAt = s.cur.seq.cycle + 1 ∧ (s.cur.c.loop = none → t.cur.seq.pc = s.issue.next)

/-- The operation i answers a next state, in which it has issued with the effect that s1 holds. -/
def Issues (i : Instr) (s s1 : State) : Prop := ∃ t, exec i s = .next t ∧ Issued s1 t

/-- The operation i issues, its one result v to register sd due `lat` die cycles on. -/
def GivesS (i : Instr) (s : State) (d : BitVec 6) (lat : Nat) (v : W64) : Prop := Issues i s (s.toS d lat v)

/-- The enabled lanes of a V.R operation. -/
def lanesOn (s : State) (f : VR) : List Nat := s.lanesOf (s.ctx.hreg f.shape.toNat) (typeWidth f.type) f.mask

/-- The flags of all the lanes listed. -/
def flagsOf (ls : List Nat) (g : Nat → Nat × Flags) : Flags := (ls.map fun l => (g l).2).foldl (· ||| ·) 0

/-- The operation i issues, its effect on s0 a result due `lat` die cycles on that writes, in register vd, the lanes `ls` of
width w with the values g gives, and no other bit; its flags go into VSTAT. -/
def GivesV (i : Instr) (s s0 : State) (d : BitVec 5) (lat w : Nat) (ls : List Nat) (g : Nat → Nat) (fl : Flags) : Prop :=
  ∃ x m, Issues i s ((s0.flag fl).result lat (.v d.toNat x m)) ∧
    (∀ l, l < 2048 / w → laneGet m w l = if l ∈ ls then 2 ^ w - 1 else 0) ∧ ∀ l ∈ ls, laneGet x w l = g l % 2 ^ w

/-- The same for the bits `ls` of a mask register. -/
def GivesK (i : Instr) (s s0 : State) (d : BitVec 5) (lat : Nat) (ls : List Nat) (g : Nat → Bool) (fl : Flags) : Prop :=
  ∃ x m, Issues i s ((s0.flag fl).result lat (.k d.toNat x m)) ∧ (∀ l, l < 512 → m.getLsbD l = decide (l ∈ ls)) ∧
    ∀ l ∈ ls, x.getLsbD l = g l

/-- The operation i issues and takes the next command index: its effect s1 changes no register of the register files, no
accumulator, panel or codebook, no byte of memory and no byte of the gallery. -/
structure HandsOver (i : Instr) (s s1 : State) : Prop where
  issues : Issues i s s1
  index : s1.ctx.cmdix = s.ctx.cmdix + 1
  files : s1.ctx.s = s.ctx.s ∧ s1.ctx.a = s.ctx.a ∧ s1.ctx.v = s.ctx.v ∧ s1.ctx.p = s.ctx.p ∧ s1.ctx.k = s.ctx.k ∧ s1.ctx.h = s.ctx.h
  arrays : s1.ctx.z = s.ctx.z ∧ s1.ctx.y = s.ctx.y ∧ s1.ctx.cb = s.ctx.cb ∧ s1.ctx.ptab = s.ctx.ptab ∧ s1.ctx.vstat = s.ctx.vstat
  memory : ∀ a, s1.homeByte a = s.homeByte a
  gallery : s1.cur.gallery = s.cur.gallery

end Sys2Proof.Safety
end

