-- ==== Sys2Proof/Certificates/Slice0/Obligations.lean ====
section
/-! DEFINITION. What is claimed of the model: each statement a proposition, its docstring in the words of the spec. -/

open Sys2Proof Sys2Proof.Machine Sys2Proof.Safety

/-- ADD, SUB, ADDI, MUL, MULHS, MULHB, MIN, MAX, MINB and MAXB, ready, complete: their one result, wrapped modulo 2^64, is
due in d at the latency of their class, they set no flag, and nothing but what Issued names changes. AND, OR, XOR,
their immediate forms, BREV, EXTS, MOV and SEL, ready, complete with the bits the table gives; an immediate of 12 bits
is sign-extended, so its bit 11 stands for every bit above. -/
def Obligations.ScalarIntegerAndBitResults : Prop :=
  ((∀ (f : SR) (s : State), Ready s (.add f) → ∃ v, v.toNat = ((s.srcS f.a f.lit).toNat + (s.srcS f.b f.lit).toNat) % 2 ^ 64 ∧
    GivesS (.add f) s f.d 1 v) ∧
  (∀ (f : SR) (s : State), Ready s (.sub f) → ∃ v, v.toNat = (2 ^ 64 + (s.srcS f.a f.lit).toNat - (s.srcS f.b f.lit).toNat) % 2 ^ 64 ∧
    GivesS (.sub f) s f.d 1 v) ∧
  (∀ (f : SI) (s : State), Ready s (.addi f) → ∃ v, v = BitVec.ofInt 64 ((s.srcS f.a).toInt + f.imm.toInt) ∧ GivesS (.addi f) s f.d 1 v) ∧
  (∀ (f : SR) (s : State), Ready s (.mul f) → ∃ v, v.toNat = (s.srcS f.a f.lit).toNat * (s.srcS f.b f.lit).toNat % 2 ^ 64 ∧
    GivesS (.mul f) s f.d 3 v) ∧
  (∀ (f : SR) (s : State), Ready s (.mulhs f) → ∃ v, v.toInt = (s.srcS f.a f.lit).toInt * (s.srcS f.b f.lit).toInt / 2 ^ 64 ∧
    GivesS (.mulhs f) s f.d 3 v) ∧
  (∀ (f : SR) (s : State), Ready s (.mulhb f) → ∃ v, v.toNat = (s.srcS f.a f.lit).toNat * (s.srcS f.b f.lit).toNat / 2 ^ 64 ∧
    GivesS (.mulhb f) s f.d 3 v) ∧
  (∀ (f : SR) (s : State), Ready s (.min f) → ∃ v, v.toInt = min (s.srcS f.a f.lit).toInt (s.srcS f.b f.lit).toInt ∧
    GivesS (.min f) s f.d 1 v) ∧
  (∀ (f : SR) (s : State), Ready s (.max f) → ∃ v, v.toInt = max (s.srcS f.a f.lit).toInt (s.srcS f.b f.lit).toInt ∧
    GivesS (.max f) s f.d 1 v) ∧
  (∀ (f : SR) (s : State), Ready s (.minb f) → ∃ v, v.toNat = min (s.srcS f.a f.lit).toNat (s.srcS f.b f.lit).toNat ∧
    GivesS (.minb f) s f.d 1 v) ∧
  (∀ (f : SR) (s : State), Ready s (.maxb f) → ∃ v, v.toNat = max (s.srcS f.a f.lit).toNat (s.srcS f.b f.lit).toNat ∧
    GivesS (.maxb f) s f.d 1 v)) ∧
  ((∀ (f : SR) (s : State), Ready s (.and f) → ∃ v, (∀ k, v.getLsbD k = ((s.srcS f.a f.lit).getLsbD k && (s.srcS f.b f.lit).getLsbD k)) ∧
    GivesS (.and f) s f.d 1 v) ∧
  (∀ (f : SR) (s : State), Ready s (.or f) → ∃ v, (∀ k, v.getLsbD k = ((s.srcS f.a f.lit).getLsbD k || (s.srcS f.b f.lit).getLsbD k)) ∧
    GivesS (.or f) s f.d 1 v) ∧
  (∀ (f : SR) (s : State), Ready s (.xor f) → ∃ v, (∀ k, v.getLsbD k = ((s.srcS f.a f.lit).getLsbD k ^^ (s.srcS f.b f.lit).getLsbD k)) ∧
    GivesS (.xor f) s f.d 1 v) ∧
  (∀ (f : SI) (s : State), Ready s (.andi f) → ∃ v, (∀ k, k < 64 → v.getLsbD k = ((s.srcS f.a).getLsbD k && f.imm.getLsbD (min k 11))) ∧ GivesS (.andi f) s f.d 1 v) ∧
  (∀ (f : SI) (s : State), Ready s (.ori f) → ∃ v, (∀ k, k < 64 → v.getLsbD k = ((s.srcS f.a).getLsbD k || f.imm.getLsbD (min k 11))) ∧ GivesS (.ori f) s f.d 1 v) ∧
  (∀ (f : SI) (s : State), Ready s (.xori f) → ∃ v, (∀ k, k < 64 → v.getLsbD k = ((s.srcS f.a).getLsbD k ^^ f.imm.getLsbD (min k 11))) ∧ GivesS (.xori f) s f.d 1 v) ∧
  (∀ (f : SR) (s : State), Ready s (.brev f) → ∃ v, (∀ k, k < 64 → v.getLsbD k = (s.srcS f.a f.lit).getLsbD (63 - k)) ∧
    GivesS (.brev f) s f.d 1 v) ∧
  (∀ (f : SR) (s : State), Ready s (.exts f) → ∃ v, v.toInt = Int.bmod (s.srcS f.a f.lit).toNat (if f.fn = 0 then 2 ^ 8 else if f.fn = 1 then 2 ^ 16 else 2 ^ 32) ∧
    GivesS (.exts f) s f.d 1 v) ∧
  (∀ (f : SR) (s : State), Ready s (.mov f) → ∃ v, v = s.srcS f.a f.lit ∧
    GivesS (.mov f) s f.d 1 v) ∧
  (∀ (f : SR) (s : State), Ready s (.sel f) → ∃ v, v = (if s.ctx.preg f.fn.toNat then s.srcS f.a f.lit else s.srcS f.b f.lit) ∧
    GivesS (.sel f) s f.d 1 v))

/-- DIVS, DIVB, REMS and REMB, ready, complete: quotients round towards zero, a remainder takes the sign of the dividend;
division by zero gives all ones or the dividend and sets DZ, the one overflow of DIVS gives the dividend and sets IOV
while REMS then gives 0 and sets nothing. SHL, SHR, SAR and their immediate forms shift by the amount read unsigned,
and at 64 or more clear, or copy the top bit; BFX and BFI take lsb and width minus 1 from the immediate; CLZ and POPC
count. Ready, they complete. -/
def Obligations.DivisionShiftAndFieldResults : Prop :=
  ((∀ (f : SR) (s : State), Ready s (.divs f) →
    let x := s.srcS f.a f.lit
    let y := s.srcS f.b f.lit
    (y = 0 → Issues (.divs f) s ((s.flag fDZ).toS f.d 20 (BitVec.ofNat 64 (2 ^ 64 - 1)))) ∧
    (x.toInt = -2 ^ 63 → y.toInt = -1 → Issues (.divs f) s ((s.flag fIOV).toS f.d 20 x)) ∧
    (y ≠ 0 → ¬ (x.toInt = -2 ^ 63 ∧ y.toInt = -1) →
      ∃ v, v.toInt = x.toInt.tdiv y.toInt ∧ Issues (.divs f) s ((s.flag 0).toS f.d 20 v))) ∧
  (∀ (f : SR) (s : State), Ready s (.divb f) →
    let x := s.srcS f.a f.lit
    let y := s.srcS f.b f.lit
    (y = 0 → Issues (.divb f) s ((s.flag fDZ).toS f.d 20 (BitVec.ofNat 64 (2 ^ 64 - 1)))) ∧
    (y ≠ 0 → ∃ v, v.toNat = x.toNat / y.toNat ∧ Issues (.divb f) s ((s.flag 0).toS f.d 20 v))) ∧
  (∀ (f : SR) (s : State), Ready s (.rems f) →
    let x := s.srcS f.a f.lit
    let y := s.srcS f.b f.lit
    (y = 0 → Issues (.rems f) s ((s.flag fDZ).toS f.d 20 x)) ∧
    (y ≠ 0 → ∃ v, v.toInt = x.toInt.tmod y.toInt ∧ Issues (.rems f) s ((s.flag 0).toS f.d 20 v))) ∧
  (∀ (f : SR) (s : State), Ready s (.remb f) →
    let x := s.srcS f.a f.lit
    let y := s.srcS f.b f.lit
    (y = 0 → Issues (.remb f) s ((s.flag fDZ).toS f.d 20 x)) ∧
    (y ≠ 0 → ∃ v, v.toNat = x.toNat % y.toNat ∧ Issues (.remb f) s ((s.flag 0).toS f.d 20 v))) ∧
  (∀ (s : State) (w : Flags), (s.flag w).ctx = { s.ctx with vstat := s.ctx.vstat ||| (w.setWidth 64 &&& vstatMask) })) ∧
  ((∀ (f : SR) (s : State), Ready s (.shl f) →
    let x := s.srcS f.a f.lit
    let n := (s.srcS f.b f.lit).toNat
    ∃ v, (64 ≤ n → v = 0) ∧ (n < 64 → v.toNat = x.toNat * 2 ^ n % 2 ^ 64) ∧ GivesS (.shl f) s f.d 1 v) ∧
  (∀ (f : SR) (s : State), Ready s (.shr f) →
    let x := s.srcS f.a f.lit
    let n := (s.srcS f.b f.lit).toNat
    ∃ v, (64 ≤ n → v = 0) ∧ (n < 64 → v.toNat = x.toNat / 2 ^ n) ∧ GivesS (.shr f) s f.d 1 v) ∧
  (∀ (f : SR) (s : State), Ready s (.sar f) →
    let x := s.srcS f.a f.lit
    let n := (s.srcS f.b f.lit).toNat
    ∃ v, (64 ≤ n → v.toInt = (if x.getLsbD 63 then -1 else 0)) ∧ (n < 64 → v.toInt = x.toInt / 2 ^ n) ∧ GivesS (.sar f) s f.d 1 v) ∧
  (∀ (f : SI) (s : State), Ready s (.shli f) →
    f.imm.toNat < 64 ∧ ∃ v, v.toNat = (s.srcS f.a).toNat * 2 ^ f.imm.toNat % 2 ^ 64 ∧ GivesS (.shli f) s f.d 1 v) ∧
  (∀ (f : SI) (s : State), Ready s (.shri f) →
    f.imm.toNat < 64 ∧ ∃ v, v.toNat = (s.srcS f.a).toNat / 2 ^ f.imm.toNat ∧ GivesS (.shri f) s f.d 1 v) ∧
  (∀ (f : SI) (s : State), Ready s (.sari f) →
    f.imm.toNat < 64 ∧ ∃ v, v.toInt = (s.srcS f.a).toInt / 2 ^ f.imm.toNat ∧ GivesS (.sari f) s f.d 1 v) ∧
  (∀ (f : SI) (s : State), Ready s (.bfx f) →
    ∃ v, v.toNat = (s.srcS f.a).toNat / 2 ^ (f.imm.toNat % 64) % 2 ^ (f.imm.toNat / 64 + 1) ∧ GivesS (.bfx f) s f.d 1 v) ∧
  (∀ (f : SI) (s : State), Ready s (.bfi f) →
    let lsb := f.imm.toNat % 64
    let width := f.imm.toNat / 64 + 1
    ∃ v, (∀ k, k < 64 → v.getLsbD k = if lsb ≤ k ∧ k < lsb + width then (s.srcS f.a).getLsbD (k - lsb)
        else (s.ctx.sreg f.d.toNat).getLsbD k) ∧ GivesS (.bfi f) s f.d 1 v) ∧
  (∀ (f : SR) (s : State), Ready s (.clz f) →
    let x := s.srcS f.a f.lit
    ∃ v, (x = 0 → v = 64) ∧ (x ≠ 0 → v.toNat < 64 ∧ 2 ^ (63 - v.toNat) ≤ x.toNat ∧ x.toNat < 2 ^ (64 - v.toNat)) ∧
      GivesS (.clz f) s f.d 1 v) ∧
  (∀ (f : SR) (s : State), Ready s (.popc f) →
    ∃ v, v.toNat = ((List.range 64).map fun k => if (s.srcS f.a f.lit).getLsbD k then 1 else 0).sum ∧
      GivesS (.popc f) s f.d 1 v))

/-- CMP and CMPI write a p register with the condition of Table 14.2 on x and y; PAND, POR, PXOR and PNOT combine
predicates with the inversions of fn. Ready, they complete, and the result is due at the next die cycle. MOVL and ALIT
load a literal at its width code; AADD, AADDI, AMOV and ADIFF compute modulo 2^72 with s and immediate operands sign-
extended. Ready, they complete. An s source 0 reads 0, 63 reads the literal word sign-extended, any other its
register; an a source 31 reads the 72-bit literal; predicate 0 is true. -/
def Obligations.PredicateLiteralAndAddressResults : Prop :=
  ((∀ (f : SR) (s : State), Ready s (.cmp f) →
    let x := s.srcS f.a f.lit
    let y := s.srcS f.b f.lit
    ∃ v, Issues (.cmp f) s (s.toP f.d.toNat v) ∧
      (f.fn = 0 → (v ↔ x = y)) ∧ (f.fn = 1 → (v ↔ x ≠ y)) ∧
      (f.fn = 2 → (v ↔ x.toInt < y.toInt)) ∧ (f.fn = 3 → (v ↔ y.toInt ≤ x.toInt)) ∧
      (f.fn = 4 → (v ↔ x.toNat < y.toNat)) ∧ (f.fn = 5 → (v ↔ y.toNat ≤ x.toNat)) ∧
      (f.fn = 6 → (v ↔ x.toInt ≤ y.toInt)) ∧ (f.fn = 7 → (v ↔ y.toInt < x.toInt)) ∧
      (f.fn = 8 → (v ↔ x.toNat ≤ y.toNat)) ∧ (f.fn = 9 → (v ↔ y.toNat < x.toNat)) ∧
      (f.fn = 10 → (v ↔ x &&& y ≠ 0)) ∧ (f.fn = 11 → (v ↔ x &&& y = 0))) ∧
  (∀ (f : SI) (s : State), Ready s (.cmpi f) →
    let x := s.srcS f.a
    let y := Int.bmod f.imm.toNat 512
    let k := f.imm.toNat / 512
    ∃ v, Issues (.cmpi f) s (s.toP f.d.toNat v) ∧
      (k = 0 → (v ↔ x.toInt = y)) ∧ (k = 1 → (v ↔ x.toInt ≠ y)) ∧ (k = 2 → (v ↔ x.toInt < y)) ∧ (k = 3 → (v ↔ y ≤ x.toInt)) ∧
      (k = 4 → (v ↔ x.toNat < (BitVec.ofInt 64 y).toNat)) ∧ (k = 5 → (v ↔ (BitVec.ofInt 64 y).toNat ≤ x.toNat)) ∧
      (k = 6 → (v ↔ x.toInt ≤ y)) ∧ (k = 7 → (v ↔ y < x.toInt))) ∧
  (∀ (f : SP) (s : State), Ready s (.pand f) →
    Issues (.pand f) s (s.toP f.pd.toNat
      (((s.ctx.preg f.pa.toNat ^^ f.fn.getLsbD 0) && (s.ctx.preg f.pb.toNat ^^ f.fn.getLsbD 1)) ^^ f.fn.getLsbD 2))) ∧
  (∀ (f : SP) (s : State), Ready s (.por f) →
    Issues (.por f) s (s.toP f.pd.toNat
      (((s.ctx.preg f.pa.toNat ^^ f.fn.getLsbD 0) || (s.ctx.preg f.pb.toNat ^^ f.fn.getLsbD 1)) ^^ f.fn.getLsbD 2))) ∧
  (∀ (f : SP) (s : State), Ready s (.pxor f) →
    Issues (.pxor f) s (s.toP f.pd.toNat
      (((s.ctx.preg f.pa.toNat ^^ f.fn.getLsbD 0) ^^ (s.ctx.preg f.pb.toNat ^^ f.fn.getLsbD 1)) ^^ f.fn.getLsbD 2))) ∧
  (∀ (f : SP) (s : State), Ready s (.pnot f) → Issues (.pnot f) s (s.toP f.pd.toNat (!s.ctx.preg f.pa.toNat)))) ∧
  ((∀ (f : SL) (s : State), Ready s (.movl f) →
    ∃ v, (f.width = 0 → v.toNat = (s.lit f.word.toNat).toNat) ∧ (f.width = 1 → v.toInt = (s.lit f.word.toNat).toInt) ∧
      (f.width = 2 → v.toNat = (s.lit f.word.toNat).toNat + 2 ^ 32 * (s.lit (f.word.toNat + 1)).toNat) ∧
      GivesS (.movl f) s f.d 1 v) ∧
  (∀ (f : SL) (s : State), Ready s (.alit f) →
    ∃ v : W72, (f.width = 0 → v.toNat = (s.lit f.word.toNat).toNat) ∧ (f.width = 1 → v.toInt = (s.lit f.word.toNat).toInt) ∧
      (f.width = 2 → v.toInt = Int.bmod ((s.lit f.word.toNat).toNat + 2 ^ 32 * (s.lit (f.word.toNat + 1)).toNat) (2 ^ 64)) ∧
      (f.width = 3 → v.toNat = (s.lit 0).toNat + 2 ^ 32 * (s.lit 1).toNat + 2 ^ 64 * ((s.lit 2).toNat % 256)) ∧
      Issues (.alit f) s (s.toA f.d v)) ∧
  (∀ (f : SR) (s : State), Ready s (.aadd f) →
    Issues (.aadd f) s (s.toA f.d (s.srcA f.a.toNat + BitVec.ofInt 72 (s.srcS f.b f.lit).toInt))) ∧
  (∀ (f : SI) (s : State), Ready s (.aaddi f) →
    Issues (.aaddi f) s (s.toA f.d (s.srcA f.a.toNat + BitVec.ofInt 72 f.imm.toInt))) ∧
  (∀ (f : SR) (s : State), Ready s (.amov f) →
    (f.fn = 0 → Issues (.amov f) s (s.toA f.d (BitVec.ofNat 72 (s.srcS f.a f.lit).toNat))) ∧
    (f.fn = 1 → Issues (.amov f) s (s.toA f.d (BitVec.ofInt 72 (s.srcS f.a f.lit).toInt))) ∧
    (f.fn = 2 → GivesS (.amov f) s f.d 1 (BitVec.ofNat 64 (s.srcA f.a.toNat).toNat)) ∧
    (f.fn = 3 → GivesS (.amov f) s f.d 1 (BitVec.ofNat 64 ((s.srcA f.a.toNat).toNat / 2 ^ 64))) ∧
    (f.fn = 4 → Issues (.amov f) s (s.toA f.d (s.srcA f.a.toNat)))) ∧
  (∀ (f : SR) (s : State), Ready s (.adiff f) →
    GivesS (.adiff f) s f.d 1 (BitVec.ofInt 64 ((s.srcA f.a.toNat).toNat - (s.srcA f.b.toNat).toNat)))) ∧
  ((∀ (s : State) (l : BitVec 2), s.srcS 0 l = 0) ∧
  (∀ (s : State) (l : BitVec 2), (s.srcS 63 l).toInt = (s.lit l.toNat).toInt) ∧
  (∀ (s : State) (f : BitVec 6) (l : BitVec 2), f ≠ 0 → f ≠ 63 → s.srcS f l = s.cur.c.s.get 0 f.toNat) ∧
  (∀ s : State, (s.srcA 31).toNat = (s.lit 0).toNat + 2 ^ 32 * (s.lit 1).toNat + 2 ^ 64 * ((s.lit 2).toNat % 256)) ∧
  (∀ (s : State) (n : Nat), n < 31 → s.srcA n = s.cur.c.a.get 0 n) ∧
  (∀ c : Ctxt, c.preg 0 = true))

/-- LD, LDA, ST and STA, ready, complete: EA is A[addr] plus the sign-extended offset times the size, modulo 2^72. A load
takes a landing entry due 4 × L die cycles on, whose bytes go into its register then; a store leaves an entry with its
bytes at the physical addresses. Neither changes a register or a byte of memory yet. SPL and SPS access the alcove at
U × size; GLD and GST access the gallery at EA. Aligned, in range and on a readable row GLD completes; misaligned or
out of range both trap BAD_ADDR with EA as VADDR. GST changes only its bytes, and zero-fills the rest of an expired
row. -/
def Obligations.ScalarMemoryAndGalleryAccess : Prop :=
  ((∀ (z : BitVec 3) (f : SM) (s : State), Ready s (.ld z f) →
    let n : Nat := 2 ^ (z.toNat % 4)
    let ea := s.srcA f.addr.toNat + BitVec.ofInt 72 (f.off.toInt * n)
    ∃ (s1 : State) (l : Landing), Issues (.ld z f) s s1 ∧ s1.ctx = s.ctx ∧ (∀ a, s1.homeByte a = s.homeByte a) ∧
      s1.cur.seq.landings = s.cur.seq.landings ++ [l] ∧ l.due = s.cur.seq.cycle + 4 * f.land.toNat ∧
      l.dest = .s f.reg.toNat n (z.getLsbD 2) ∧ l.pieces = [{ va := ea, len := n }]) ∧
  (∀ (f : SM) (s : State), Ready s (.lda f) →
    let ea := s.srcA f.addr.toNat + BitVec.ofInt 72 (f.off.toInt * 16)
    ∃ (s1 : State) (l : Landing), Issues (.lda f) s s1 ∧ s1.ctx = s.ctx ∧ (∀ a, s1.homeByte a = s.homeByte a) ∧
      s1.cur.seq.landings = s.cur.seq.landings ++ [l] ∧ l.due = s.cur.seq.cycle + 4 * f.land.toNat ∧
      l.dest = .a f.reg.toNat ∧ l.pieces = [{ va := ea, len := 16 }]) ∧
  (∀ (z : BitVec 2) (f : SM) (s : State), Ready s (.st z f) →
    let n : Nat := 2 ^ z.toNat
    let ea := s.srcA f.addr.toNat + BitVec.ofInt 72 (f.off.toInt * n)
    ∃ s1 : State, Issues (.st z f) s s1 ∧ s1.ctx = s.ctx ∧ (∀ a, s1.homeByte a = s.homeByte a) ∧
      (∀ pa attr, ea.toNat % 2 ^ 16 + n ≤ 2 ^ 16 → attr ≠ 1 →
        s.translate s.issue.die (s.ctxOn s.issue.die) (ea.toNat / 2 ^ 16 * 2 ^ 16) 2 = .ok pa attr →
        ∃ w : Store, s1.cur.seq.stores = s.cur.seq.stores ++ [w] ∧ w.id = s.accessId s.issue.die ∧ w.va = ea ∧ w.fault = none ∧
          w.bytes = (List.range n).map fun k => (pa + ea.toNat % 2 ^ 16 + k, BitVec.ofNat 8 ((s.srcS f.reg).toNat / 256 ^ k)))) ∧
  (∀ (f : SM) (s : State), Ready s (.sta f) →
    let ea := s.srcA f.addr.toNat + BitVec.ofInt 72 (f.off.toInt * 16)
    ∃ s1 : State, Issues (.sta f) s s1 ∧ s1.ctx = s.ctx ∧ (∀ a, s1.homeByte a = s.homeByte a) ∧
      (∀ pa attr, ea.toNat % 2 ^ 16 + 16 ≤ 2 ^ 16 → attr ≠ 1 →
        s.translate s.issue.die (s.ctxOn s.issue.die) (ea.toNat / 2 ^ 16 * 2 ^ 16) 2 = .ok pa attr →
        ∃ w : Store, s1.cur.seq.stores = s.cur.seq.stores ++ [w] ∧ w.id = s.accessId s.issue.die ∧ w.va = ea ∧ w.fault = none ∧
          w.bytes = (List.range 16).map fun k =>
            (pa + ea.toNat % 2 ^ 16 + k, BitVec.ofNat 8 ((s.srcA f.reg.toNat).toNat / 256 ^ k))))) ∧
  ((∀ (z : BitVec 3) (f : SM) (s : State), Ready s (.spl z f) →
    let n : Nat := 2 ^ (z.toNat % 4)
    let at_ : Nat := (f.off.toNat * 32 + f.addr.toNat) * n
    let x := ofLE ((List.range n).map fun k => s.ctx.alcoveByte (at_ + k))
    ∃ v : W64, (if z.getLsbD 2 then v.toInt = Int.bmod x (256 ^ n) else v.toNat = x) ∧ GivesS (.spl z f) s f.reg 1 v) ∧
  (∀ (z : BitVec 2) (f : SM) (s : State), Ready s (.sps z f) →
    let n : Nat := 2 ^ z.toNat
    let at_ : Nat := (f.off.toNat * 32 + f.addr.toNat) * n
    ∃ s1 : State, Issues (.sps z f) s s1 ∧ s1 = { s with dies := s1.dies } ∧ s1.cur = { s.cur with c := s1.cur.c } ∧
      s1.cur.c = { s.cur.c with alcove := s1.cur.c.alcove } ∧
      ∀ k, s1.ctx.alcoveByte k = if at_ ≤ k ∧ k < at_ + n then BitVec.ofNat 8 ((s.srcS f.reg).toNat / 256 ^ (k - at_))
        else s.ctx.alcoveByte k) ∧
  (∀ (z : BitVec 3) (f : SM) (s : State), Ready s (.gld z f) →
    let n : Nat := 2 ^ (z.toNat % 4)
    let ea := s.srcA f.addr.toNat + BitVec.ofInt 72 (f.off.toInt * n)
    let row := ea.toNat / 256
    let x := ofLE ((List.range n).map fun k => s.cur.gbyte (ea.toNat + k))
    (ea.toNat < 2 ^ 26 → ea.toNat % n = 0 → s.cur.rowFault (s.us s.issue.die) row = none →
      ∃ v : W64, (if z.getLsbD 2 then v.toInt = Int.bmod x (256 ^ n) else v.toNat = x) ∧ GivesS (.gld z f) s f.reg 6 v) ∧
    (ea.toNat < 2 ^ 26 → ea.toNat % n = 0 → ∀ c, s.cur.rowFault (s.us s.issue.die) row = some c →
      exec (.gld z f) s = .next (s.beginTrap s.issue.die (s.precise c (BitVec.ofNat 72 ea.toNat)))) ∧
    (2 ^ 26 ≤ ea.toNat ∨ ea.toNat % n ≠ 0 →
      exec (.gld z f) s = .next (s.beginTrap s.issue.die (s.precise .badAddr ea)))) ∧
  (∀ (z : BitVec 2) (f : SM) (s : State), Ready s (.gst z f) →
    let n : Nat := 2 ^ z.toNat
    let ea := s.srcA f.addr.toNat + BitVec.ofInt 72 (f.off.toInt * n)
    (ea.toNat < 2 ^ 26 → ea.toNat % n = 0 →
      ∃ t : State, exec (.gst z f) s = .next t ∧ t = { s with dies := t.dies } ∧ (∀ y, y ≠ s.issue.die → t.die y = s.die y) ∧
        t.cur.c = { s.cur.c with loop := t.cur.c.loop } ∧
        ∀ a, t.cur.gbyte a =
          if ea.toNat ≤ a ∧ a < ea.toNat + n then BitVec.ofNat 8 ((s.srcS f.reg).toNat / 256 ^ (a - ea.toNat))
          else if a / 256 = ea.toNat / 256 ∧ (s.cur.reserved (ea.toNat / 256) = false ∧ s.cur.expired (s.us s.issue.die) (ea.toNat / 256)) then 0
          else if a / 256 = ea.toNat / 256 ∧ s.cur.reserved (ea.toNat / 256) then t.cur.gbyte a
          else s.cur.gbyte a) ∧
    (2 ^ 26 ≤ ea.toNat ∨ ea.toNat % n ≠ 0 →
      exec (.gst z f) s = .next (s.beginTrap s.issue.die (s.precise .badAddr ea)))))

/-- BR, CALL, RET and JMPI, ready, complete at their target, decided 3 die cycles on, with an active loop ended, but for
one that a handler's entry suspended (assumption 34); CALL and a linking JMPI also write the return address. FEND
completes by ending the task's issue, NOP by changing nothing. -/
def Obligations.ControlTransferResults : Prop :=
  (∀ (f : SB) (s : State), Ready s (.br f) →
    ∃ t : State, exec (.br f) s = .next t ∧ Issued (s.jump ((s.issue.addr + f.disp.toInt) % 2 ^ 56).toNat) t ∧
      t.cur.seq.pc = ((s.issue.addr + f.disp.toInt) % 2 ^ 56).toNat ∧ t.cur.seq.decideAt = s.cur.seq.cycle + 3 ∧
      t.cur.c = { s.cur.c with loop := if s.cur.c.inHandler then s.cur.c.loop else none }) ∧
  (∀ (f : SB) (s : State), Ready s (.call f) →
    ∃ t : State, exec (.call f) s = .next t ∧ t.cur.seq.pc = ((s.issue.addr + f.disp.toInt) % 2 ^ 56).toNat ∧
      t.cur.seq.decideAt = s.cur.seq.cycle + 3 ∧ t.cur.c = { s.cur.c with loop := if s.cur.c.inHandler then s.cur.c.loop else none } ∧
      Issued ((s.toS 62 1 (BitVec.ofNat 64 s.issue.next)).jump ((s.issue.addr + f.disp.toInt) % 2 ^ 56).toNat) t) ∧
  (∀ s : State, Ready s .ret →
    ∃ t : State, exec .ret s = .next t ∧ Issued (s.jump (s.ctx.sreg 62).toNat) t ∧ t.cur.seq.pc = (s.ctx.sreg 62).toNat ∧
      t.cur.seq.decideAt = s.cur.seq.cycle + 3 ∧ t.cur.c = { s.cur.c with loop := if s.cur.c.inHandler then s.cur.c.loop else none }) ∧
  (∀ (f : SR) (s : State), Ready s (.jmpi f) →
    ∃ t : State, exec (.jmpi f) s = .next t ∧ t.cur.seq.pc = (s.srcS f.a f.lit).toNat ∧ t.cur.seq.decideAt = s.cur.seq.cycle + 3 ∧
      t.cur.c = { s.cur.c with loop := if s.cur.c.inHandler then s.cur.c.loop else none } ∧
      (f.d = 0 → Issued (s.jump (s.srcS f.a f.lit).toNat) t) ∧
      (f.d ≠ 0 → Issued ((s.toS f.d 1 (BitVec.ofNat 64 s.issue.next)).jump (s.srcS f.a f.lit).toNat) t)) ∧
  (∀ s : State, Ready s .fend → ∃ t : State, exec .fend s = .next t ∧ t.cur.seq.run = .ending ∧ t.cur.seq.pc = s.issue.addr ∧
      t.cur.c = { s.cur.c with loop := t.cur.c.loop } ∧ t = { s with dies := t.dies }) ∧
  (∀ s : State, Ready s .nop → Issues .nop s s) ∧
  (∀ (s : State) (a : Nat), (s.jump a).cur = { s.cur with
      c := { s.cur.c with loop := if s.cur.c.inHandler then s.cur.c.loop else none }, seq := { s.cur.seq with target := some (a, 3) } })

/-- TSTB, ready, on a tile that is not EMPTY and whose status line is not poisoned, on an accumulator set or on VSTAT,
completes: it branches by the displacement of its literal where the masked word is zero exactly as fn bit 2 asks, and
goes on otherwise; on an EMPTY tile it traps TILE_EMPTY. LOOP, ready, over a body whose B bundles lie in its segment,
with no loop active and outside a handler, completes: with every count nonzero the loop state holds the body and the
counts, the pc goes on at the body, and with a count of 0 the pc goes on behind the body. With a loop active or in a
handler it traps ILLEGAL. -/
def Obligations.StatusTestsAndLoops : Prop :=
  (∀ (f : SR) (s : State), Ready s (.tstb f) →
    let w := s.lit f.lit.toNat
    let target := ((s.issue.addr + (w.extractLsb' 9 23).toInt) % 2 ^ 56).toNat
    let taken (x : W64) : Prop := ((∀ k, k < 9 → (x.getLsbD k && w.getLsbD k) = false) ↔ f.fn.getLsbD 2 = true)
    let goes (x : W64) : Prop :=
      (taken x → Issues (.tstb f) s (s.jump target)) ∧ (¬ taken x → Issues (.tstb f) s s)
    let e := s.ctx.tile (64 * f.d.toNat + f.a.toNat)
    (f.fn.toNat % 4 = 1 → goes (s.ctx.zstat.get 0 f.a.toNat)) ∧ (f.fn.toNat % 4 = 2 → goes s.ctx.vstat) ∧
    (f.fn.toNat % 4 = 0 → e.state = .empty →
      exec (.tstb f) s = .next (s.beginTrap s.issue.die (s.precise .tileEmpty))) ∧
    (f.fn.toNat % 4 = 0 → e.state ≠ .empty →
      (∀ a, e.status? = some a → (s.cur.tags.get {} (a / 256)).poison = false) → goes (s.cur.statusWord (s.us s.issue.die) e))) ∧
  (∀ (f : SI) (s : State), Ready s (.loop f) →
    let n := f.imm.toNat % 128 + 1
    let levels := f.imm.toNat / 128 % 4
    let body := s.bundlesFrom s.cur.seq.halfCur n s.issue.next
    let c (k : Nat) : Nat := if k ≤ levels then (s.ctx.sreg (f.a.toNat + k)).toNat % 2 ^ 32 else 1
    let behind := (s.nextBundle s.cur.seq.halfCur (body.getLastD 0) (bundleLen (s.homeByte (body.getLastD 0)))).1
    (s.ctx.loop.isSome ∨ s.ctx.inHandler ∨ body.length ≠ n →
      exec (.loop f) s = .next (s.beginTrap s.issue.die (s.precise .illegal))) ∧
    (s.ctx.loop = none → s.ctx.inHandler = false → body.length = n →
      ∃ t : State, exec (.loop f) s = .next t ∧ t = { s with dies := t.dies } ∧ t.cur.c = { s.cur.c with loop := t.cur.c.loop } ∧
        (c 0 * c 1 * c 2 = 0 → t.cur.seq.pc = behind ∧ t.cur.seq.decideAt = s.cur.seq.cycle + 1 ∧ t.cur.c.loop = none) ∧
        (c 0 * c 1 * c 2 ≠ 0 → s.cur.seq.pc ≠ body.getLastD 0 → t.cur.seq.pc = s.issue.next ∧
          t.cur.c.loop = some { first := s.issue.next, last := body.getLastD 0, after := behind
                                c0 := c 0, c1 := c 1, c2 := c 2, index := 0, pe := f.d.toNat })))

/-- SETSHAPE, ready, with a type code below 14, completes with the request and its grant, or an empty register where V is
0; a type of 14 or 15 traps ILLEGAL. GETSHAPE, NODE and FENCE, ready, complete: the words asked for, and a wait that
later memory accesses stand behind. SYSR, ready, completes with the register's value in d. SYSW, ready, completes with
the write due at the next die cycle (to VSTAT at once, under its mask); to SCM, LXOR or LPERM only where the binding
stays valid and SCM stays within the context's mask, and traps BAD_BIND with nothing changed otherwise. -/
def Obligations.ShapesAndSystemRegisters : Prop :=
  ((∀ (f : SR) (s : State), Ready s (.setshape f) →
    let x := s.srcS f.a f.lit
    let req : W64 := x &&& 0x1FFFFFFFFFFFFFFF
    (14 ≤ x.toNat / 2 ^ 56 % 16 → exec (.setshape f) s = .next (s.beginTrap s.issue.die (s.precise .illegal))) ∧
    (x.toNat / 2 ^ 56 % 16 < 14 → x.getLsbD 60 = false → Issues (.setshape f) s (s.result 1 (.h f.d.toNat {}))) ∧
    (x.toNat / 2 ^ 56 % 16 < 14 → x.getLsbD 60 →
      Issues (.setshape f) s (s.result 1 (.h f.d.toNat { req, grant := grantOf req 128 s.cur.colLim })))) ∧
  (∀ (f : SR) (s : State), Ready s (.getshape f) →
    (f.fn = 0 → GivesS (.getshape f) s f.d 1 (s.ctx.hreg f.a.toNat).req) ∧
    (f.fn = 1 → GivesS (.getshape f) s f.d 1 (s.ctx.hreg f.a.toNat).grant)) ∧
  (∀ (f : SR) (s : State), Ready s (.node f) →
    let w := widthOf s.ctx.mask
    let k := (s.srcS f.a f.lit).toNat
    ∃ v : W64, GivesS (.node f) s f.d 1 v ∧ (f.fn = 0 → v = BitVec.ofNat 64 s.lid) ∧
      (f.fn = 1 → v = BitVec.ofNat 64 (16 * s.pkg + s.issue.die)) ∧ (f.fn = 2 → v = BitVec.ofNat 64 w) ∧
      (f.fn = 3 → v = BitVec.ofNat 64 (widthIn s.ctx.mask)) ∧
      (f.fn = 4 → v = if k < w then BitVec.ofNat 64 (permOf s.ctx.lperm.toNat k) else 15) ∧
      (f.fn = 5 → v = BitVec.ofNat 64 (s.lid / 2 ^ widthIn s.ctx.mask)) ∧
      (f.fn = 6 → v = if k < w then BitVec.ofNat 64 (s.lid ^^^ 2 ^ k) else BitVec.ofNat 64 (2 ^ 64 - 1))) ∧
  (∀ (f : SR) (s : State), Ready s (.fence f) → ∃ s1 ids cmds, Issues (.fence f) s s1 ∧ s1 = { s with dies := s1.dies } ∧
      s1.cur = { s.cur with seq := { s.cur.seq with memWait := s.cur.seq.memWait ++ [.fence ids cmds (f.fn.toNat % 4) (f.fn.getLsbD 3)] } } ∧
      (f.fn.getLsbD 2 = false → ids = [] ∧ cmds = []) ∧
      (f.fn.getLsbD 2 → f.fn.toNat % 4 ≠ 0 → (∀ w ∈ s.cur.seq.stores, w.id ∈ ids) ∧ ∀ c ∈ s.cur.c.copyQ0 ++ s.cur.c.copyQ1, c.cmdix ∈ cmds))) ∧
  ((∀ (f : SI) (s : State), Ready s (.sysr f) →
    (f.imm ≠ 0x12 → f.imm ≠ 0x15 → GivesS (.sysr f) s f.d 1 ((s.sysRead s.issue.die f.imm.toNat).extractLsb' 0 64)) ∧
    (f.imm = 0x12 ∨ f.imm = 0x15 → Issues (.sysr f) s (s.toA f.d (s.sysRead s.issue.die f.imm.toNat)))) ∧
  (∀ (f : SI) (s : State), Ready s (.sysw f) →
    let v : W72 := if f.imm = 0x12 ∨ f.imm = 0x15 then s.srcA f.a.toNat else (s.srcS f.a).setWidth 72
    (f.imm = 1 ∨ f.imm = 2 ∨ f.imm = 3 →
      (s.bindingOk f.imm.toNat (v.extractLsb' 0 64) → Issues (.sysw f) s (s.result 1 (.sys f.imm.toNat v))) ∧
      (s.bindingOk f.imm.toNat (v.extractLsb' 0 64) = false →
        exec (.sysw f) s = .next (s.beginTrap s.issue.die (s.precise .badBind)))) ∧
    (f.imm = 0x21 → ∃ s1 : State, Issues (.sysw f) s s1 ∧ s1 = { s with dies := s1.dies } ∧
      s1.cur = { s.cur with c := { s.cur.c with vstat := s.srcS f.a &&& 0x1BF } }) ∧
    (f.imm ≠ 1 → f.imm ≠ 2 → f.imm ≠ 3 → f.imm ≠ 0x21 → Issues (.sysw f) s (s.result 1 (.sys f.imm.toNat v)))) ∧
  (∀ (s : State) (v : W64) (m : BitVec 14) (k : Context), s.contexts.get? (s.ctxOn s.issue.die) = some k →
    s.bindingOk 1 v → (v.extractLsb' 0 14).getLsbD m.toNat → m.toNat < 14 → k.scm.getLsbD m.toNat))

/-- TRAP, ready, completes: its bundle commits, and at the boundary after it a stopping event of cause SOFT is taken,
whose VADDR is S[a] + sext(imm12) modulo 2^64, zero-extended; its resume address is the next bundle in program order,
in a loop body too. TRET, ready, in a handler with a readable record whose TSTATUS is well formed, completes: the
predicates, H and the depth are restored, the pc goes on at the record's resume address, decided 12 die cycles on, and
a suspended loop goes on only where that address lies in its body; outside a handler, or on a malformed record, it
traps BAD_TRET; an unreadable record fails the context with REC_FAULT. -/
def Obligations.TrapAndTrapReturn : Prop :=
  (∀ (f : SI) (s : State), Ready s (.trap f) →
    ∃ t, Issued s t ∧ exec (.trap f) s = .next ((t.onDie s.issue.die fun d => d.onSeq fun q => { q with pc := s.issue.next }).beginTrap s.issue.die
      { cause := .soft, faddr := s.issue.addr, vaddr := BitVec.ofNat 72 (BitVec.ofInt 64 ((s.srcS f.a).toInt + f.imm.toInt)).toNat })) ∧
  ((∀ s : State, Ready s .tret → s.ctx.inHandler = false →
    exec .tret s = .next (s.beginTrap s.issue.die (s.precise .badTret))) ∧
  (∀ (s s' : State) (rec : List Byte) (h : Bool) (p : FMap Bool), Ready s .tret → s.ctx.inHandler →
    s.readRecord = .ok (s', rec) → tretWord (BitVec.ofNat 64 (field rec 56 8)) = some (h, p) →
    ∃ t : State, exec .tret s = .next t ∧ t.cur.seq.pc = field rec 16 8 ∧ t.cur.seq.decideAt = s.cur.seq.cycle + 12 ∧
      t.cur.c.inHandler = h ∧ t.cur.c.p = p ∧ t.cur.c.tdepth = s.cur.c.tdepth - 1 ∧ t.cur.c.s = s.cur.c.s ∧
      t.cur.c.a = s.cur.c.a ∧ t.cur.c.v = s.cur.c.v ∧ t.cur.c.vstat = s.cur.c.vstat ∧
      t.cur.c.loop = (s.cur.c.loop.filter fun l => decide (l.first ≤ field rec 16 8 ∧ field rec 16 8 ≤ l.last)) ∧
      ((∀ y, ∀ e ∈ (s.die y).l1, e.2.dirty = false) → ∀ a, t.homeByte a = s.homeByte a)) ∧
  (∀ (s s' : State) (rec : List Byte), Ready s .tret → s.ctx.inHandler → s.readRecord = .ok (s', rec) →
    tretWord (BitVec.ofNat 64 (field rec 56 8)) = none →
    exec .tret s = .next (s.beginTrap s.issue.die (s.precise .badTret))) ∧
  (∀ (s : State) (c : Cause) (va : W72), Ready s .tret → s.ctx.inHandler → s.readRecord = .fault c va →
    ∃ t : State, exec .tret s = .next t ∧ t.cur.seq.run = .ended ∧ t.cur.seq.endCause = some (.failed .recFault 0)) ∧
  (∀ (w : W64) (h : Bool) (p : FMap Bool), tretWord w = some (h, p) →
    h = w.getLsbD 0 ∧ ∀ k, k < 15 → p.get false (k + 1) = w.getLsbD (17 + k)))

/-- VADD, VSUB, VMUL, VMULH, VMAC, VADDS, VSUBS, VMIN, VMAX and VABS, ready, with a valid shape, complete: each enabled
lane holds the result wrapped at the width, or clamped with SAT where a lane was out of range, and no other lane is
written. VAND, VOR, VXOR, VSHL, VSHR, VSAR and VSEL, ready, with a valid shape, complete lane by lane; a shift amount
of the width or more clears the lane, or fills it with its top bit. KOP writes the bits of a mask register. -/
def Obligations.VectorIntegerAndBitResults : Prop :=
  ((∀ (f : VR) (s : State), Ready s (.vadd f) → (s.ctx.hreg f.shape.toNat).valid →
    let w := typeWidth f.type
    let x (l : Nat) := s.lane f f.va l
    let y (l : Nat) := s.lane f f.vb l
    GivesV (.vadd f) s s f.vd 2 w (lanesOn s f) (fun l => x l + y l) 0) ∧
  (∀ (f : VR) (s : State), Ready s (.vsub f) → (s.ctx.hreg f.shape.toNat).valid →
    let w := typeWidth f.type
    let x (l : Nat) := s.lane f f.va l
    let y (l : Nat) := s.lane f f.vb l
    GivesV (.vsub f) s s f.vd 2 w (lanesOn s f) (fun l => x l + 2 ^ w - y l) 0) ∧
  (∀ (f : VR) (s : State), Ready s (.vmul f) → (s.ctx.hreg f.shape.toNat).valid →
    let w := typeWidth f.type
    let x (l : Nat) := s.lane f f.va l
    let y (l : Nat) := s.lane f f.vb l
    GivesV (.vmul f) s s f.vd 2 w (lanesOn s f) (fun l => x l * y l) 0) ∧
  (∀ (f : VR) (s : State), Ready s (.vmac f) → (s.ctx.hreg f.shape.toNat).valid →
    let w := typeWidth f.type
    let x (l : Nat) := s.lane f f.va l
    let y (l : Nat) := s.lane f f.vb l
    GivesV (.vmac f) s s f.vd 2 w (lanesOn s f) (fun l => x l * y l + s.lane f f.vc l) 0) ∧
  (∀ (f : VR) (s : State), Ready s (.vmulh f) → (s.ctx.hreg f.shape.toNat).valid →
    let w := typeWidth f.type
    let x (l : Nat) := s.lane f f.va l
    let y (l : Nat) := s.lane f f.vb l
    let u := f.vc.getLsbD 0
    let X (l : Nat) : Int := intOf f.type u (x l)
    let Y (l : Nat) : Int := intOf f.type u (y l)
    GivesV (.vmulh f) s s f.vd 2 w (lanesOn s f) (fun l => (X l * Y l / 2 ^ w % 2 ^ w).toNat) 0) ∧
  (∀ (f : VR) (s : State), Ready s (.vadds f) → (s.ctx.hreg f.shape.toNat).valid →
    let w := typeWidth f.type
    let x (l : Nat) := s.lane f f.va l
    let y (l : Nat) := s.lane f f.vb l
    let u := f.vc.getLsbD 0
    let X (l : Nat) : Int := intOf f.type u (x l)
    let Y (l : Nat) : Int := intOf f.type u (y l)
    let lo := (intRange f.type u).1
    let hi := (intRange f.type u).2
    GivesV (.vadds f) s s f.vd 2 w (lanesOn s f) (fun l => ((max lo (min hi (X l + Y l))) % 2 ^ w).toNat) (if ∃ l ∈ lanesOn s f, X l + Y l < lo ∨ hi < X l + Y l then fSAT else 0)) ∧
  (∀ (f : VR) (s : State), Ready s (.vsubs f) → (s.ctx.hreg f.shape.toNat).valid →
    let w := typeWidth f.type
    let x (l : Nat) := s.lane f f.va l
    let y (l : Nat) := s.lane f f.vb l
    let u := f.vc.getLsbD 0
    let X (l : Nat) : Int := intOf f.type u (x l)
    let Y (l : Nat) : Int := intOf f.type u (y l)
    let lo := (intRange f.type u).1
    let hi := (intRange f.type u).2
    GivesV (.vsubs f) s s f.vd 2 w (lanesOn s f) (fun l => ((max lo (min hi (X l - Y l))) % 2 ^ w).toNat) (if ∃ l ∈ lanesOn s f, X l - Y l < lo ∨ hi < X l - Y l then fSAT else 0)) ∧
  (∀ (f : VR) (s : State), Ready s (.vmin f) → (s.ctx.hreg f.shape.toNat).valid →
    let w := typeWidth f.type
    let x (l : Nat) := s.lane f f.va l
    let y (l : Nat) := s.lane f f.vb l
    let u := f.vc.getLsbD 0
    let X (l : Nat) : Int := intOf f.type u (x l)
    let Y (l : Nat) : Int := intOf f.type u (y l)
    GivesV (.vmin f) s s f.vd 2 w (lanesOn s f) (fun l => (min (X l) (Y l) % 2 ^ w).toNat) 0) ∧
  (∀ (f : VR) (s : State), Ready s (.vmax f) → (s.ctx.hreg f.shape.toNat).valid →
    let w := typeWidth f.type
    let x (l : Nat) := s.lane f f.va l
    let y (l : Nat) := s.lane f f.vb l
    let u := f.vc.getLsbD 0
    let X (l : Nat) : Int := intOf f.type u (x l)
    let Y (l : Nat) : Int := intOf f.type u (y l)
    GivesV (.vmax f) s s f.vd 2 w (lanesOn s f) (fun l => (max (X l) (Y l) % 2 ^ w).toNat) 0) ∧
  (∀ (f : VR) (s : State), Ready s (.vabs f) → (s.ctx.hreg f.shape.toNat).valid →
    let w := typeWidth f.type
    let x (l : Nat) := s.lane f f.va l
    GivesV (.vabs f) s s f.vd 2 w (lanesOn s f) (fun l => min (intOf f.type false (x l)).natAbs (intRange f.type false).2.toNat) (if ∃ l ∈ lanesOn s f, (intRange f.type false).2 < (intOf f.type false (x l)).natAbs then fSAT else 0))) ∧
  ((∀ (f : VR) (s : State), Ready s (.vand f) → (s.ctx.hreg f.shape.toNat).valid →
    let w := typeWidth f.type
    let x (l : Nat) := s.lane f f.va l
    let y (l : Nat) := s.lane f f.vb l
    GivesV (.vand f) s s f.vd 2 w (lanesOn s f) (fun l => x l &&& y l) 0) ∧
  (∀ (f : VR) (s : State), Ready s (.vor f) → (s.ctx.hreg f.shape.toNat).valid →
    let w := typeWidth f.type
    let x (l : Nat) := s.lane f f.va l
    let y (l : Nat) := s.lane f f.vb l
    GivesV (.vor f) s s f.vd 2 w (lanesOn s f) (fun l => x l ||| y l) 0) ∧
  (∀ (f : VR) (s : State), Ready s (.vxor f) → (s.ctx.hreg f.shape.toNat).valid →
    let w := typeWidth f.type
    let x (l : Nat) := s.lane f f.va l
    let y (l : Nat) := s.lane f f.vb l
    GivesV (.vxor f) s s f.vd 2 w (lanesOn s f) (fun l => x l ^^^ y l) 0) ∧
  (∀ (f : VR) (s : State), Ready s (.vshl f) → (s.ctx.hreg f.shape.toNat).valid →
    let w := typeWidth f.type
    let x (l : Nat) := s.lane f f.va l
    let y (l : Nat) := s.lane f f.vb l
    GivesV (.vshl f) s s f.vd 2 w (lanesOn s f) (fun l => if w ≤ y l then 0 else x l * 2 ^ y l) 0) ∧
  (∀ (f : VR) (s : State), Ready s (.vshr f) → (s.ctx.hreg f.shape.toNat).valid →
    let w := typeWidth f.type
    let x (l : Nat) := s.lane f f.va l
    let y (l : Nat) := s.lane f f.vb l
    GivesV (.vshr f) s s f.vd 2 w (lanesOn s f) (fun l => if w ≤ y l then 0 else x l / 2 ^ y l) 0) ∧
  (∀ (f : VR) (s : State), Ready s (.vsar f) → (s.ctx.hreg f.shape.toNat).valid →
    let w := typeWidth f.type
    let x (l : Nat) := s.lane f f.va l
    let y (l : Nat) := s.lane f f.vb l
    GivesV (.vsar f) s s f.vd 2 w (lanesOn s f) (fun l => ((BitVec.ofNat w (x l)).toInt / 2 ^ (min (y l) w) % 2 ^ w).toNat) 0) ∧
  (∀ (f : VR) (s : State), Ready s (.vsel f) → (s.ctx.hreg f.shape.toNat).valid →
    let w := typeWidth f.type
    let x (l : Nat) := s.lane f f.va l
    let y (l : Nat) := s.lane f f.vb l
    GivesV (.vsel f) s s f.vd 2 w (lanesOn s f) (fun l => if s.ctx.kbit (activeLanes (s.ctx.hreg f.shape.toNat) w) f.vc.toNat l then x l else y l) 0) ∧
  (∀ (f : VR) (s : State), Ready s (.kop f) → (s.ctx.hreg f.shape.toNat).valid →
    let n := activeLanes (s.ctx.hreg f.shape.toNat) (typeWidth f.type)
    let a (l : Nat) := s.ctx.kbit n f.va.toNat l
    let b (l : Nat) := s.ctx.kbit n f.vb.toNat l
    ∃ x m, Issues (.kop f) s (s.result 2 (.k f.vd.toNat x m)) ∧ (∀ l, l < 512 → m.getLsbD l = decide (l ∈ lanesOn s f)) ∧
      ∀ l ∈ lanesOn s f,
        (f.vc = 0 → x.getLsbD l = (a l && b l)) ∧ (f.vc = 1 → x.getLsbD l = (a l || b l)) ∧ (f.vc = 2 → x.getLsbD l = (a l ^^ b l)) ∧
        (f.vc = 3 → x.getLsbD l = (a l && !b l)) ∧ (f.vc = 4 → x.getLsbD l = !a l) ∧ (f.vc = 5 → x.getLsbD l = a l) ∧
        (f.vc = 6 → x.getLsbD l = (a l && (lanesOn s f).all fun j => decide (l ≤ j) || !a j)) ∧
        (f.vc = 7 → x.getLsbD l = true) ∧ (f.vc = 8 → x.getLsbD l = false)))

/-- VFADD, VFSUB, VFMUL, VFMA, VRCP, VRSQ, VEXP2 and VLOG2, ready, with a valid shape, complete: each enabled lane is the
exact value rounded once under RMODE with its draw, the lanes' flags go into VSTAT, and a shape that grants no lanes
does nothing. VFMIN, VFMAX and VFSGN round nothing. Outside stochastic rounding a rounding operation draws nothing and
leaves RMODE; under it the draw is the LFSR after 32 steps, and RMODE alone changes, holding that word. -/
def Obligations.VectorFloatResultsAndDraws : Prop :=
  ((∀ (f : VR) (s : State) (F : Fmt), Ready s (.vfadd f) → (s.ctx.hreg f.shape.toNat).valid → fmtOf f.type = some F →
    let w := typeWidth f.type
    let mode := modeOf s.ctx.rmode
    let q (l : Nat) := drawQ s.draw.1 l
    let x (l : Nat) := F.decode (s.lane f f.va l)
    let y (l : Nat) := F.decode (s.lane f f.vb l)
    let r (l : Nat) := fpAdd F mode (q l) (x l) (y l)
    (activeLanes (s.ctx.hreg f.shape.toNat) w = 0 → Issues (.vfadd f) s s) ∧
    (activeLanes (s.ctx.hreg f.shape.toNat) w ≠ 0 →
      GivesV (.vfadd f) s s.draw.2 f.vd 4 w (lanesOn s f) (fun l => (r l).1) (flagsOf (lanesOn s f) r))) ∧
  (∀ (f : VR) (s : State) (F : Fmt), Ready s (.vfsub f) → (s.ctx.hreg f.shape.toNat).valid → fmtOf f.type = some F →
    let w := typeWidth f.type
    let mode := modeOf s.ctx.rmode
    let q (l : Nat) := drawQ s.draw.1 l
    let x (l : Nat) := F.decode (s.lane f f.va l)
    let y (l : Nat) := F.decode (s.lane f f.vb l)
    let r (l : Nat) := fpAdd F mode (q l) (x l) (y l).negate
    (activeLanes (s.ctx.hreg f.shape.toNat) w = 0 → Issues (.vfsub f) s s) ∧
    (activeLanes (s.ctx.hreg f.shape.toNat) w ≠ 0 →
      GivesV (.vfsub f) s s.draw.2 f.vd 4 w (lanesOn s f) (fun l => (r l).1) (flagsOf (lanesOn s f) r))) ∧
  (∀ (f : VR) (s : State) (F : Fmt), Ready s (.vfmul f) → (s.ctx.hreg f.shape.toNat).valid → fmtOf f.type = some F →
    let w := typeWidth f.type
    let mode := modeOf s.ctx.rmode
    let q (l : Nat) := drawQ s.draw.1 l
    let x (l : Nat) := F.decode (s.lane f f.va l)
    let y (l : Nat) := F.decode (s.lane f f.vb l)
    let r (l : Nat) := fpMul F mode (q l) (x l) (y l)
    (activeLanes (s.ctx.hreg f.shape.toNat) w = 0 → Issues (.vfmul f) s s) ∧
    (activeLanes (s.ctx.hreg f.shape.toNat) w ≠ 0 →
      GivesV (.vfmul f) s s.draw.2 f.vd 4 w (lanesOn s f) (fun l => (r l).1) (flagsOf (lanesOn s f) r))) ∧
  (∀ (f : VR) (s : State) (F : Fmt), Ready s (.vfma f) → (s.ctx.hreg f.shape.toNat).valid → fmtOf f.type = some F →
    let w := typeWidth f.type
    let mode := modeOf s.ctx.rmode
    let q (l : Nat) := drawQ s.draw.1 l
    let x (l : Nat) := F.decode (s.lane f f.va l)
    let y (l : Nat) := F.decode (s.lane f f.vb l)
    let z (l : Nat) := F.decode (s.lane f f.vc l)
    let r (l : Nat) := fpFma F mode (q l) (x l) (y l) (z l)
    (activeLanes (s.ctx.hreg f.shape.toNat) w = 0 → Issues (.vfma f) s s) ∧
    (activeLanes (s.ctx.hreg f.shape.toNat) w ≠ 0 →
      GivesV (.vfma f) s s.draw.2 f.vd 4 w (lanesOn s f) (fun l => (r l).1) (flagsOf (lanesOn s f) r))) ∧
  (∀ (f : VR) (s : State) (F : Fmt), Ready s (.vrcp f) → (s.ctx.hreg f.shape.toNat).valid → fmtOf f.type = some F →
    let w := typeWidth f.type
    let mode := modeOf s.ctx.rmode
    let q (l : Nat) := drawQ s.draw.1 l
    let x (l : Nat) := F.decode (s.lane f f.va l)
    let r (l : Nat) := roundWith F mode (q l) (approx 0 (x l)).1 (approx 0 (x l)).2
    (activeLanes (s.ctx.hreg f.shape.toNat) w = 0 → Issues (.vrcp f) s s) ∧
    (activeLanes (s.ctx.hreg f.shape.toNat) w ≠ 0 →
      GivesV (.vrcp f) s s.draw.2 f.vd 8 w (lanesOn s f) (fun l => (r l).1) (flagsOf (lanesOn s f) r))) ∧
  (∀ (f : VR) (s : State) (F : Fmt), Ready s (.vrsq f) → (s.ctx.hreg f.shape.toNat).valid → fmtOf f.type = some F →
    let w := typeWidth f.type
    let mode := modeOf s.ctx.rmode
    let q (l : Nat) := drawQ s.draw.1 l
    let x (l : Nat) := F.decode (s.lane f f.va l)
    let r (l : Nat) := roundWith F mode (q l) (approx 1 (x l)).1 (approx 1 (x l)).2
    (activeLanes (s.ctx.hreg f.shape.toNat) w = 0 → Issues (.vrsq f) s s) ∧
    (activeLanes (s.ctx.hreg f.shape.toNat) w ≠ 0 →
      GivesV (.vrsq f) s s.draw.2 f.vd 8 w (lanesOn s f) (fun l => (r l).1) (flagsOf (lanesOn s f) r))) ∧
  (∀ (f : VR) (s : State) (F : Fmt), Ready s (.vexp2 f) → (s.ctx.hreg f.shape.toNat).valid → fmtOf f.type = some F →
    let w := typeWidth f.type
    let mode := modeOf s.ctx.rmode
    let q (l : Nat) := drawQ s.draw.1 l
    let x (l : Nat) := F.decode (s.lane f f.va l)
    let r (l : Nat) := roundWith F mode (q l) (approx 2 (x l)).1 (approx 2 (x l)).2
    (activeLanes (s.ctx.hreg f.shape.toNat) w = 0 → Issues (.vexp2 f) s s) ∧
    (activeLanes (s.ctx.hreg f.shape.toNat) w ≠ 0 →
      GivesV (.vexp2 f) s s.draw.2 f.vd 8 w (lanesOn s f) (fun l => (r l).1) (flagsOf (lanesOn s f) r))) ∧
  (∀ (f : VR) (s : State) (F : Fmt), Ready s (.vlog2 f) → (s.ctx.hreg f.shape.toNat).valid → fmtOf f.type = some F →
    let w := typeWidth f.type
    let mode := modeOf s.ctx.rmode
    let q (l : Nat) := drawQ s.draw.1 l
    let x (l : Nat) := F.decode (s.lane f f.va l)
    let r (l : Nat) := roundWith F mode (q l) (approx 3 (x l)).1 (approx 3 (x l)).2
    (activeLanes (s.ctx.hreg f.shape.toNat) w = 0 → Issues (.vlog2 f) s s) ∧
    (activeLanes (s.ctx.hreg f.shape.toNat) w ≠ 0 →
      GivesV (.vlog2 f) s s.draw.2 f.vd 8 w (lanesOn s f) (fun l => (r l).1) (flagsOf (lanesOn s f) r))) ∧
  (∀ (f : VR) (s : State) (F : Fmt), Ready s (.vfmin f) → (s.ctx.hreg f.shape.toNat).valid → fmtOf f.type = some F →
    let r (l : Nat) := selectNum F false (s.lane f f.va l) (s.lane f f.vb l)
    GivesV (.vfmin f) s s f.vd 4 (typeWidth f.type) (lanesOn s f) (fun l => (r l).1) (flagsOf (lanesOn s f) r)) ∧
  (∀ (f : VR) (s : State) (F : Fmt), Ready s (.vfmax f) → (s.ctx.hreg f.shape.toNat).valid → fmtOf f.type = some F →
    let r (l : Nat) := selectNum F true (s.lane f f.va l) (s.lane f f.vb l)
    GivesV (.vfmax f) s s f.vd 4 (typeWidth f.type) (lanesOn s f) (fun l => (r l).1) (flagsOf (lanesOn s f) r)) ∧
  (∀ (f : VR) (s : State) (F : Fmt), Ready s (.vfsgn f) → (s.ctx.hreg f.shape.toNat).valid → fmtOf f.type = some F →
    let r (l : Nat) := if (F.decode (s.lane f f.va l)).isNan ∨ (F.decode (s.lane f f.vb l)).isNan then ((F.canon, fNAN) : Nat × Flags)
      else (F.pack (if f.vc = 0 then (s.lane f f.vb l).testBit F.low else if f.vc = 1 then !(s.lane f f.vb l).testBit F.low
        else (s.lane f f.va l).testBit F.low ^^ (s.lane f f.vb l).testBit F.low) (s.lane f f.va l % 2 ^ F.low), 0)
    GivesV (.vfsgn f) s s f.vd 4 (typeWidth f.type) (lanesOn s f) (fun l => (r l).1) (flagsOf (lanesOn s f) r))) ∧
  ((∀ s : State, modeOf s.ctx.rmode ≠ .sto → s.draw.2 = s) ∧
  (∀ s : State, modeOf s.ctx.rmode = .sto →
    let x := lfsrSteps 32 (s.ctx.rmode.extractLsb' 32 32)
    s.draw.1 = x ∧ s.draw.2.cur = { s.cur with c := { s.cur.c with rmode := s.draw.2.cur.c.rmode } } ∧
      s.draw.2.cur.c.rmode.toNat = s.ctx.rmode.toNat % 2 ^ 32 + 2 ^ 32 * x.toNat ∧ s.draw.2 = { s with dies := s.draw.2.dies }) ∧
  (∀ x : BitVec 32, x ≠ 0 → lfsrSteps 32 x ≠ 0))

/-- VWIDEN, VNARROW and VCVT, ready, with a valid shape, complete: the pairs of lanes that the part field names take part,
VNARROW wraps or clamps with SAT, and VCVT rounds under RMODE, doing nothing where the shape grants no lanes. VCMP
writes the condition of each enabled lane into a mask register, unordered lanes as the condition says; VREDA and VREDM
write lane 0 with the sum or the extreme of the enabled lanes. Ready, with a valid shape, they complete. -/
def Obligations.VectorWidthCompareAndReduceResults : Prop :=
  ((∀ (f : VR) (s : State), Ready s (.vwiden f) → (s.ctx.hreg f.shape.toNat).valid →
    let w := typeWidth f.type
    let ps := s.widthPairs (s.ctx.hreg f.shape.toNat) f.mask w (2 * w) (f.vb.toNat % 2)
    let src (l : Nat) : Nat := laneGet (s.srcV f.va f.lit w) w (f.vb.toNat % 2 * (2048 / (2 * w)) + l)
    GivesV (.vwiden f) s s f.vd 2 (2 * w) (ps.map Prod.snd) (fun l => (intOf f.type (f.vc.getLsbD 0) (src l) % 2 ^ (2 * w)).toNat) 0) ∧
  (∀ (f : VR) (s : State), Ready s (.vnarrow f) → (s.ctx.hreg f.shape.toNat).valid →
    let w := typeWidth f.type
    let ps := s.widthPairs (s.ctx.hreg f.shape.toNat) f.mask (2 * w) w (f.vb.toNat % 2)
    let src (l : Nat) : Nat := laneGet (s.srcV f.va f.lit (2 * w)) (2 * w) (l - f.vb.toNat % 2 * (2048 / (2 * w)))
    let v (l : Nat) : Int := if f.type = 1 ∨ f.vc.getLsbD 0 then (src l : Int) else (BitVec.ofNat (2 * w) (src l)).toInt
    let lo := (intRange f.type (f.vc.getLsbD 0)).1
    let hi := (intRange f.type (f.vc.getLsbD 0)).2
    (f.vc.getLsbD 1 = false → GivesV (.vnarrow f) s s f.vd 2 w (ps.map Prod.snd) (fun l => src l) 0) ∧
    (f.vc.getLsbD 1 → GivesV (.vnarrow f) s s f.vd 2 w (ps.map Prod.snd) (fun l => (max lo (min hi (v l)) % 2 ^ w).toNat)
      (if ∃ l ∈ ps.map Prod.snd, v l < lo ∨ hi < v l then fSAT else 0))) ∧
  (∀ (f : VR) (s : State), Ready s (.vcvt f) → (s.ctx.hreg f.shape.toNat).valid →
    let h := s.ctx.hreg f.shape.toNat
    let st := f.vc.extractLsb' 0 4
    let ps := s.widthPairs h f.mask (typeWidth st) (typeWidth f.type) (f.vb.toNat % 8)
    let r (p : Nat × Nat) := convertLane (modeOf s.ctx.rmode) (drawQ s.draw.1 p.2) st (f.vb.getLsbD 3) f.type (f.vb.getLsbD 4)
      (laneGet (s.srcV f.va f.lit (typeWidth st)) (typeWidth st) p.1)
    (h.lanes = 0 → Issues (.vcvt f) s s) ∧
    (h.lanes ≠ 0 → ∃ g, (∀ p ∈ ps, g p.2 = r p) ∧
      GivesV (.vcvt f) s s.draw.2 f.vd 4 (typeWidth f.type) (ps.map Prod.snd) (fun l => (g l).1) (flagsOf (ps.map Prod.snd) g)))) ∧
  ((∀ (f : VR) (s : State), Ready s (.vcmp f) → (s.ctx.hreg f.shape.toNat).valid → fmtOf f.type = none →
    let X (l : Nat) : Int := intOf f.type (f.vc.getLsbD 0) (s.lane f f.va l)
    let Y (l : Nat) : Int := intOf f.type (f.vc.getLsbD 0) (s.lane f f.vb l)
    ∃ g, GivesK (.vcmp f) s s f.vd 4 (lanesOn s f) g 0 ∧ ∀ l,
      (f.vc.toNat / 2 = 0 → (g l ↔ X l = Y l)) ∧ (f.vc.toNat / 2 = 1 → (g l ↔ X l ≠ Y l)) ∧ (f.vc.toNat / 2 = 2 → (g l ↔ X l < Y l)) ∧
      (f.vc.toNat / 2 = 3 → (g l ↔ X l ≤ Y l)) ∧ (f.vc.toNat / 2 = 4 → (g l ↔ Y l < X l)) ∧ (f.vc.toNat / 2 = 5 → (g l ↔ Y l ≤ X l))) ∧
  (∀ (f : VR) (s : State) (F : Fmt), Ready s (.vcmp f) → (s.ctx.hreg f.shape.toNat).valid → fmtOf f.type = some F →
    let x (l : Nat) := F.decode (s.lane f f.va l)
    let y (l : Nat) := F.decode (s.lane f f.vb l)
    let un (l : Nat) : Bool := (x l).isNan || (y l).isNan
    let k := f.vc.toNat / 2
    ∃ g, GivesK (.vcmp f) s s f.vd 4 (lanesOn s f) g (if (2 ≤ k ∧ k ≤ 5) ∧ ∃ l ∈ lanesOn s f, un l then fIV else 0) ∧
      ∀ l, (un l → (g l ↔ k = 1 ∨ k = 6)) ∧
        (un l = false → (k = 0 → (g l ↔ (x l).eqv (y l))) ∧ (k = 1 → (g l ↔ ¬ (x l).eqv (y l))) ∧ (k = 2 → (g l ↔ (x l).lt (y l))) ∧
          (k = 3 → (g l ↔ ¬ (y l).lt (x l))) ∧ (k = 4 → (g l ↔ (y l).lt (x l))) ∧ (k = 5 → (g l ↔ ¬ (x l).lt (y l))) ∧
          (k = 6 → g l = false) ∧ (k = 7 → g l))) ∧
  (∀ (f : VR) (s : State), Ready s (.vreda f) → (s.ctx.hreg f.shape.toNat).valid → activeLanes (s.ctx.hreg f.shape.toNat) (typeWidth f.type) ≠ 0 →
    fmtOf f.type = none →
    let sum : Int := ((lanesOn s f).map fun l => intOf f.type (f.vc.getLsbD 0) (s.lane f f.va l)).sum
    let out : Prop := if f.vc.getLsbD 0 ∨ f.type = 1 then sum < 0 ∨ 2 ^ 64 ≤ sum else sum < -2 ^ 63 ∨ 2 ^ 63 ≤ sum
    (out → GivesV (.vreda f) s s f.vd 6 64 [0] (fun _ => (sum % 2 ^ 64).toNat) fIOV) ∧
    (¬ out → GivesV (.vreda f) s s f.vd 6 64 [0] (fun _ => (sum % 2 ^ 64).toNat) 0)) ∧
  (∀ (f : VR) (s : State) (F : Fmt), Ready s (.vreda f) → (s.ctx.hreg f.shape.toNat).valid →
    activeLanes (s.ctx.hreg f.shape.toNat) (typeWidth f.type) ≠ 0 → fmtOf f.type = some F →
    let w := typeWidth f.type
    let r := reduceSum F (modeOf s.ctx.rmode) s.draw.1
      ((List.range (2048 / w)).map fun l => if l ∈ lanesOn s f then some (s.lane f f.va l) else none)
    GivesV (.vreda f) s s.draw.2 f.vd 6 w [0] (fun _ => r.1) r.2) ∧
  (∀ (f : VR) (s : State), Ready s (.vredm f) → (s.ctx.hreg f.shape.toNat).valid → activeLanes (s.ctx.hreg f.shape.toNat) (typeWidth f.type) ≠ 0 →
    fmtOf f.type = none →
    let X (l : Nat) : Int := intOf f.type (f.vc.getLsbD 0) (s.lane f f.va l)
    ∃ r : Int, GivesV (.vredm f) s s f.vd 6 (typeWidth f.type) [0] (fun _ => (r % 2 ^ typeWidth f.type).toNat) 0 ∧
      (lanesOn s f ≠ [] → ∃ l ∈ lanesOn s f, r = X l) ∧
      (f.vc.getLsbD 1 = false → ∀ l ∈ lanesOn s f, X l ≤ r) ∧ (f.vc.getLsbD 1 → ∀ l ∈ lanesOn s f, r ≤ X l)) ∧
  (∀ (f : VR) (s : State) (F : Fmt), Ready s (.vredm f) → (s.ctx.hreg f.shape.toNat).valid →
    activeLanes (s.ctx.hreg f.shape.toNat) (typeWidth f.type) ≠ 0 → fmtOf f.type = some F →
    let up := !f.vc.getLsbD 1
    let r := ((lanesOn s f).map fun l => s.lane f f.va l).foldl
      (fun (m : Nat × Flags) x => ((selectNum F up m.1 x).1, m.2 ||| (selectNum F up m.1 x).2)) (F.pack up F.infMag, 0)
    GivesV (.vredm f) s s f.vd 6 (typeWidth f.type) [0] (fun _ => r.1) r.2) ∧
  (∀ (f : VR) (s : State), (s.ctx.hreg f.shape.toNat).valid → activeLanes (s.ctx.hreg f.shape.toNat) (typeWidth f.type) = 0 →
    (Ready s (.vreda f) → Issues (.vreda f) s s) ∧ (Ready s (.vredm f) → Issues (.vredm f) s s)))

/-- VPERM, VROT, VBCAST, VEXTR and VINS, ready, with a valid shape, complete: a lane index at or past N gives 0, VROT
rotates or slides, VEXTR takes N lanes of the two sources from the control on, and VINS writes the one enabled lane
the control names. -/
def Obligations.VectorPermuteResults : Prop :=
  (∀ (f : VR) (s : State), Ready s (.vperm f) → (s.ctx.hreg f.shape.toNat).valid →
    let n := activeLanes (s.ctx.hreg f.shape.toNat) (typeWidth f.type)
    let x (l : Nat) := s.lane f f.va l
    let y (l : Nat) := s.lane f f.vb l
    GivesV (.vperm f) s s f.vd 3 (typeWidth f.type) (lanesOn s f) (fun l => if y l < n then x (y l) else 0) 0) ∧
  (∀ (f : VR) (s : State), Ready s (.vrot f) → (s.ctx.hreg f.shape.toNat).valid →
    let n := activeLanes (s.ctx.hreg f.shape.toNat) (typeWidth f.type)
    let x (l : Nat) := s.lane f f.va l
    let c := s.lane f f.vb 0
    GivesV (.vrot f) s s f.vd 3 (typeWidth f.type) (lanesOn s f) (fun l => if f.vc.getLsbD 0 then (if l + c < n then x (l + c) else 0) else x ((l + c) % n)) 0) ∧
  (∀ (f : VR) (s : State), Ready s (.vbcast f) → (s.ctx.hreg f.shape.toNat).valid →
    let n := activeLanes (s.ctx.hreg f.shape.toNat) (typeWidth f.type)
    let x (l : Nat) := s.lane f f.va l
    let c := s.lane f f.vb 0
    GivesV (.vbcast f) s s f.vd 3 (typeWidth f.type) (lanesOn s f) (fun _ => if c < n then x c else 0) 0) ∧
  (∀ (f : VR) (s : State), Ready s (.vextr f) → (s.ctx.hreg f.shape.toNat).valid →
    let n := activeLanes (s.ctx.hreg f.shape.toNat) (typeWidth f.type)
    let x (l : Nat) := s.lane f f.va l
    let y (l : Nat) := s.lane f f.vb l
    let c := s.lane f f.vc 0
    GivesV (.vextr f) s s f.vd 3 (typeWidth f.type) (lanesOn s f) (fun l => if l + c < n then x (l + c) else if l + c < 2 * n then y (l + c - n) else 0) 0) ∧
  (∀ (f : VR) (s : State), Ready s (.vins f) → (s.ctx.hreg f.shape.toNat).valid →
    let x (l : Nat) := s.lane f f.va l
    let c := s.lane f f.vb 0
    GivesV (.vins f) s s f.vd 3 (typeWidth f.type) (if c ∈ lanesOn s f then [c] else []) (fun _ => x 0) 0)

/-- VLD and VST access the enabled units from EA on, in memory or in the gallery; VGLD and VGST a stride apart in memory;
VGATH and VSCAT at indexed gallery addresses. Ready, with a valid shape and aligned addresses in range on readable
rows, they complete: loads of memory take a landing entry, gallery loads give the lanes 6 die cycles on, stores leave
their bytes to be written. Misaligned, they trap BAD_ADDR. Every vector operation, ready but for its shape, whose
shape register is empty takes a precise NO_SHAPE trap, and leaves every register of the die as it is. -/
def Obligations.VectorMemoryAndEmptyShapes : Prop :=
  ((∀ (f : VM) (s : State), Ready s (.vld f) → (s.ctx.hreg f.shape.toNat).valid → (s.ctx.hreg f.shape.toNat).type.toNat < 14 →
    let h := s.ctx.hreg f.shape.toNat
    let w := max 8 (typeWidth h.type)
    let ea := s.srcA f.addr.toNat + BitVec.ofInt 72 (f.off.toInt * 64)
    let us := s.units h f.mask
    (h.lanes = 0 → Issues (.vld f) s s) ∧
    (h.lanes ≠ 0 → ea.toNat % (w / 8) ≠ 0 → exec (.vld f) s = .next (s.beginTrap s.issue.die (s.precise .badAddr ea))) ∧
    (h.lanes ≠ 0 → ea.toNat % (w / 8) = 0 → f.space = 0 →
      ∃ (s1 : State) (l : Landing), Issues (.vld f) s s1 ∧ s1.ctx = s.ctx ∧ (∀ a, s1.homeByte a = s.homeByte a) ∧
        s1.cur.seq.landings = s.cur.seq.landings ++ [l] ∧ l.due = s.cur.seq.cycle + f.land.toNat ∧ l.dest = .v f.v.toNat w us ∧
        l.pieces = us.map fun u => { va := ea + BitVec.ofNat 72 (u * (w / 8)), len := w / 8 }) ∧
    (h.lanes ≠ 0 → ea.toNat % (w / 8) = 0 → f.space = 1 → (∀ u ∈ us, ea.toNat + (u + 1) * (w / 8) ≤ 2 ^ 26 ∧
        s.cur.rowFault (s.us s.issue.die) ((ea.toNat + u * (w / 8)) / 256) = none) →
      GivesV (.vld f) s s f.v 6 w us (fun u => s.cur.gnat (ea.toNat + u * (w / 8)) (w / 8)) 0)) ∧
  (∀ (f : VM) (s : State), Ready s (.vst f) → (s.ctx.hreg f.shape.toNat).valid → (s.ctx.hreg f.shape.toNat).type.toNat < 14 →
    (f.v ≠ 31 ∨ typeWidth (s.ctx.hreg f.shape.toNat).type ≠ 64) →
    let h := s.ctx.hreg f.shape.toNat
    let w := max 8 (typeWidth h.type)
    let ea := s.srcA f.addr.toNat + BitVec.ofInt 72 (f.off.toInt * 64)
    let us := s.units h f.mask
    let x := s.srcV f.v 0 (typeWidth h.type)
    (h.lanes = 0 → Issues (.vst f) s s) ∧
    (h.lanes ≠ 0 → ea.toNat % (w / 8) ≠ 0 → exec (.vst f) s = .next (s.beginTrap s.issue.die (s.precise .badAddr ea))) ∧
    (h.lanes ≠ 0 → ea.toNat % (w / 8) = 0 → f.space = 0 →
      Issues (.vst f) s (s.issueStore s.issue.die ea
        (us.flatMap fun u => vaPlace (ea + BitVec.ofNat 72 (u * (w / 8))) (toLE (w / 8) (laneGet x w u))) true)) ∧
    (h.lanes ≠ 0 → ea.toNat % (w / 8) = 0 → f.space = 1 → (∀ u ∈ us, ea.toNat + (u + 1) * (w / 8) ≤ 2 ^ 26) →
      Issues (.vst f) s (s.slotWrite (us.flatMap fun u => placeAt (ea.toNat + u * (w / 8)) (toLE (w / 8) (laneGet x w u)))))) ∧
  (∀ (f : VM) (s : State) (h : Shape) (as : List (Nat × W72)), Ready s (.vgld f) → s.strided f = .ok (h, as) →
    (h.lanes = 0 → Issues (.vgld f) s s) ∧
    (h.lanes ≠ 0 → ∃ (s1 : State) (l : Landing), Issues (.vgld f) s s1 ∧ s1.ctx = s.ctx ∧ (∀ a, s1.homeByte a = s.homeByte a) ∧
      s1.cur.seq.landings = s.cur.seq.landings ++ [l] ∧ l.due = s.cur.seq.cycle + f.land.toNat ∧
      l.dest = .v f.v.toNat (typeWidth h.type) (as.map (·.1)) ∧ l.pieces = as.map fun a => { va := a.2, len := typeWidth h.type / 8 })) ∧
  (∀ (f : VM) (s : State) (h : Shape) (as : List (Nat × W72)), Ready s (.vgst f) → s.strided f = .ok (h, as) →
    (f.v ≠ 31 ∨ typeWidth h.type ≠ 64) →
    let w := typeWidth h.type
    Issues (.vgst f) s (s.issueStore s.issue.die (s.vea f)
      (lastWins (as.flatMap fun a => vaPlace a.2 (toLE (w / 8) (laneGet (s.srcV f.v 0 w) w a.1)))) true)) ∧
  (∀ (f : VM) (s : State) (h : Shape) (as : List (Nat × W72)), s.strided f = .ok (h, as) →
    h = s.ctx.hreg f.shape.toNat ∧ h.valid ∧ (∀ a ∈ as, a.2.toNat % (typeWidth h.type / 8) = 0) ∧
      as = (s.lanesOf h (typeWidth h.type) f.mask).map fun (l : Nat) =>
        (l, s.srcA f.addr.toNat + BitVec.ofInt 72 (f.off.toInt * 64 + (l : Int) * Int.bmod (s.ctx.areg (f.addr.toNat + 1)).toNat (2 ^ 32)))) ∧
  (∀ (f : VR) (s : State) (as : List (Nat × Nat)), Ready s (.vgath f) → s.gathered f = .ok as →
    (∀ a ∈ as, s.cur.rowFault (s.us s.issue.die) (a.2 / 256) = none) →
    let w := typeWidth f.type
    ∃ g, (∀ a ∈ as, g a.1 = s.cur.gnat a.2 (w / 8)) ∧ GivesV (.vgath f) s s f.vd 6 w (as.map (·.1)) g 0) ∧
  (∀ (f : VR) (s : State) (as : List (Nat × Nat)), Ready s (.vscat f) → s.gathered f = .ok as →
    let w := typeWidth f.type
    (as = [] → Issues (.vscat f) s s) ∧
    (as ≠ [] → Issues (.vscat f) s (s.slotWrite
      (lastWins (as.flatMap fun a => placeAt a.2 (toLE (w / 8) (laneGet (s.srcV f.vd f.lit w) w a.1))))))) ∧
  (∀ (f : VR) (s : State) (as : List (Nat × Nat)), s.gathered f = .ok as → as ≠ [] →
    let n := typeWidth f.type / 8
    let b := laneGet (s.srcV f.va f.lit 32) 32 0
    b % n = 0 ∧ (∀ a ∈ as, a.2 < 2 ^ 26) ∧ as = (lanesOn s f).map fun l =>
      (l, (b + n * (if l < 64 then laneGet (s.srcV f.vb f.lit 32) 32 l else laneGet (s.srcV f.vc f.lit 32) 32 (l - 64))) % 2 ^ 32))) ∧
  ((∀ (f : VR) (i : Instr) (s : State), i ∈ [
      .vadd f, .vsub f, .vmul f, .vmulh f, .vmac f, .vadds f, .vsubs f, .vshl f, .vshr f, .vsar f,
      .vand f, .vor f, .vxor f, .vmin f, .vmax f, .vabs f, .vwiden f, .vnarrow f, .vfadd f, .vfsub f,
      .vfmul f, .vfma f, .vfmin f, .vfmax f, .vfsgn f, .vcvt f, .vcmp f, .vrcp f, .vrsq f, .vexp2 f,
      .vlog2 f, .vsel f, .kop f, .vperm f, .vrot f, .vbcast f, .vextr f, .vins f, .vreda f, .vredm f,
      .vgath f, .vscat f] →
    Ready s i → (s.ctx.hreg f.shape.toNat).valid = false →
    exec i s = .next (s.beginTrap s.issue.die { cause := .noShape, faddr := s.issue.addr })) ∧
  (∀ (f : VM) (i : Instr) (s : State), i ∈ [.vld f, .vst f, .vgld f, .vgst f] →
    Ready s i → (s.ctx.hreg f.shape.toNat).valid = false →
    exec i s = .next (s.beginTrap s.issue.die { cause := .noShape, faddr := s.issue.addr })))

/-- MMA, MMAI, MMAP, ZACC, ZADD, ZRET, TRENEW, TXPOSE, TCVT, TFILL, CBLD, PTB, YLD and YCLR, ready and with their checks
passed, complete: where a dimension they use is granted 0 they only take their command index, and otherwise the
command joins the matrix engine's queue with the shape and tiles captured, its result tile FILLING and its source tile
DRAINING. A check that fails traps precisely with its cause. What a matrix command needs: a valid shape where it names
one, tiles that are not EMPTY, types that pair as Table 16.3 says, extents within the tiles (where no dimension is
granted 0) and a panel span within the 64 panels; then its checks pass, and it is idle exactly where a dimension it
uses is granted 0. -/
def Obligations.MatrixCommands : Prop :=
  (∀ (ft : MT) (fs : MS) (i : Instr) (s : State),
    i ∈ [.mma ft, .mmai ft, .mmap ft, .zacc ft, .zret ft, .yld ft, .yclr ft, .zadd fs, .trenew fs, .txpose fs, .tcvt fs, .tfill fs,
      .cbld fs, .ptb fs] →
    Ready s i →
    (∀ c, s.ctx.plan i = .error c → exec i s = .next (s.beginTrap s.issue.die { cause := c, faddr := s.issue.addr })) ∧
    (∀ u, s.ctx.plan i = .ok u → u.idle →
      ∃ s1 : State, HandsOver i s s1 ∧ s1.cur.c = { s.cur.c with cmdix := s.ctx.cmdix + 1 } ∧ s1 = { s with dies := s1.dies }) ∧
    (∀ u, s.ctx.plan i = .ok u → u.idle = false →
      ∃ (s1 : State) (k : Cmd), HandsOver i s s1 ∧ s1.ctx.matQ = s.ctx.matQ ++ [k] ∧ k.instr = i ∧ k.cmdix = s.ctx.cmdix ∧ k.follow = none ∧
        k.shape = u.shape ∧ k.tile = u.tile ∧ k.tile2 = u.tile2 ∧ k.faddr = s.issue.addr ∧
        (∀ t, s1.ctx.tile t = { s.ctx.tile t with
          state := if t ∈ u.drain then .draining else if t ∈ u.fill then .filling else (s.ctx.tile t).state }))) ∧
  ((∀ (f : MT) (c : Ctxt) (i : Instr), i = .mma f ∨ i = .mmai f ∨ i = .mmap f →
    let h := c.hreg f.shape.toNat
    let e := c.tile f.tile.toNat
    h.valid → e.state ≠ .empty → (pairing i e.type f.fmt).isSome →
    (h.rows = 0 ∨ h.cols = 0 ∨ h.depth = 0 ∨
      if f.ta then h.depth ≤ e.rows.toNat ∧ h.rows ≤ e.cols.toNat else h.rows ≤ e.rows.toNat ∧ h.depth ≤ e.cols.toNat) →
    f.panel.toNat + (h.depth * typeWidth f.fmt + 32767) / 32768 ≤ 64 →
    c.plan i = .ok { shape := h, tile := e, idle := decide (h.rows = 0 ∨ h.cols = 0 ∨ h.depth = 0) }) ∧
  (∀ (f : MT) (c : Ctxt), let h := c.hreg f.shape.toNat
    h.valid → c.plan (.zacc f) = .ok { shape := h, idle := decide (h.rows = 0 ∨ h.cols = 0) }) ∧
  (∀ (f : MS) (c : Ctxt), let h := c.hreg f.shape.toNat
    h.valid → c.plan (.zadd f) = .ok { shape := h, idle := decide (h.rows = 0 ∨ h.cols = 0) }) ∧
  (∀ (f : MT) (c : Ctxt), let h := c.hreg f.shape.toNat
    let e := c.tile f.tile.toNat
    h.valid → e.state ≠ .empty → zretAccepts (c.kinds.get .fp32 f.acc.toNat) e.type →
    (h.rows = 0 ∨ h.cols = 0 ∨
      if f.ta then h.cols ≤ e.rows.toNat ∧ h.rows ≤ e.cols.toNat else h.rows ≤ e.rows.toNat ∧ h.cols ≤ e.cols.toNat) →
    c.plan (.zret f) = .ok { shape := h, tile := e, idle := decide (h.rows = 0 ∨ h.cols = 0), fill := [f.tile.toNat], draws := true }) ∧
  (∀ (f : MT) (c : Ctxt), let h := c.hreg f.shape.toNat
    let e := c.tile f.tile.toNat
    h.valid → e.state ≠ .empty → e.type = f.fmt →
    (h.cols = 0 ∨ h.depth = 0 ∨
      if f.ta then h.cols ≤ e.rows.toNat ∧ h.depth ≤ e.cols.toNat else h.depth ≤ e.rows.toNat ∧ h.cols ≤ e.cols.toNat) →
    f.panel.toNat + (h.depth * typeWidth f.fmt + 32767) / 32768 ≤ 64 →
    c.plan (.yld f) = .ok { shape := h, tile := e, idle := decide (h.cols = 0 ∨ h.depth = 0) }) ∧
  (∀ (f : MS) (c : Ctxt) (ta : Bool), let h := c.hreg f.shape.toNat
    let e := c.tile f.tile.toNat
    let src := c.tile f.tile2.toNat
    h.valid → e.state ≠ .empty → src.state ≠ .empty → f.tile ≠ f.tile2 → (e.type = 11 → src.type = 11) →
    (h.rows = 0 ∨ h.cols = 0 ∨ h.rows ≤ src.rows.toNat ∧ h.cols ≤ src.cols.toNat ∧
      if ta then h.cols ≤ e.rows.toNat ∧ h.rows ≤ e.cols.toNat else h.rows ≤ e.rows.toNat ∧ h.cols ≤ e.cols.toNat) →
    c.plan (if ta then .txpose f else .tcvt f) = .ok { shape := h, tile := e, tile2 := src, idle := decide (h.rows = 0 ∨ h.cols = 0)
                                                       fill := [f.tile.toNat], drain := [f.tile2.toNat], draws := true }) ∧
  (∀ (f : MS) (c : Ctxt), let h := c.hreg f.shape.toNat
    let e := c.tile f.tile.toNat
    h.valid → e.state ≠ .empty → (e.type = 11 → f.imm.toNat < 16) →
    (h.rows = 0 ∨ h.cols = 0 ∨ h.rows ≤ e.rows.toNat ∧ h.cols ≤ e.cols.toNat) →
    c.plan (.tfill f) = .ok { shape := h, tile := e, idle := decide (h.rows = 0 ∨ h.cols = 0), fill := [f.tile.toNat] }) ∧
  (∀ (f : MS) (c : Ctxt), (c.tile f.tile.toNat).state ≠ .empty →
    c.plan (.cbld f) = .ok { tile := c.tile f.tile.toNat } ∧
      c.plan (.trenew f) = .ok { tile := c.tile f.tile.toNat, drain := [f.tile.toNat] }) ∧
  (∀ (f : MT) (g : MS) (c : Ctxt), c.plan (.yclr f) = .ok {} ∧ c.plan (.ptb g) = .ok {}))

/-- TALLOC, ready, with a valid shape of nonzero rows and columns (whole blocks for a block type) whose footprint stays in
its bank, completes: the tile is READY with the shape's rows and columns, its rows expired. TFREE on a tile that is
not EMPTY makes it EMPTY. TSTAT writes the tile's image to the gallery. All take a command index; TALLOC outside these
conditions traps BAD_ADDR and TFREE of an EMPTY tile TILE_EMPTY. -/
def Obligations.TileTableOperations : Prop :=
  (∀ (f : MS) (s : State), Ready s (.talloc f) → (s.ctx.hreg f.shape.toNat).valid →
    let h := s.ctx.hreg f.shape.toNat
    let e : Tile := { base := f.imm.extractLsb' 0 6 ++ f.tile2, rows := BitVec.ofNat 16 h.rqRows, cols := BitVec.ofNat 16 h.rqCols
                      type := f.fmt, cb := f.imm.extractLsb' 6 4, state := .ready }
    let fits := h.rqRows ≠ 0 ∧ h.rqCols ≠ 0 ∧ (f.fmt = 12 ∨ f.fmt = 13 → e.cols.toNat % 32 = 0) ∧
      e.base.toNat % 2 ^ 14 + e.footRows ≤ 2 ^ 14
    (¬ fits → exec (.talloc f) s = .next (s.beginTrap s.issue.die (s.precise .badAddr))) ∧
    (fits → ∃ t : State, exec (.talloc f) s = .next t ∧ t = { s with dies := t.dies } ∧ t.cur.c.tile f.tile.toNat = e ∧
      (∀ n, n ≠ f.tile.toNat → t.cur.c.tile n = s.ctx.tile n) ∧ t.cur.c.cmdix = s.ctx.cmdix + 1 ∧ t.cur.c.s = s.ctx.s ∧
      (e.status? = none → t.cur.gallery = s.cur.gallery ∧ ∀ r ∈ e.footprint, t.cur.tags.get {} r = { s.cur.tags.get {} r with exp := true }))) ∧
  (∀ (f : MS) (s : State), Ready s (.tfree f) →
    ((s.ctx.tile f.tile.toNat).state = .empty → exec (.tfree f) s = .next (s.beginTrap s.issue.die (s.precise .tileEmpty))) ∧
    ((s.ctx.tile f.tile.toNat).state ≠ .empty → ∃ s1 : State, HandsOver (.tfree f) s s1 ∧ s1 = { s with dies := s1.dies } ∧
      ∀ n, s1.ctx.tile n = if n = f.tile.toNat then { s.ctx.tile n with state := .empty } else s.ctx.tile n)) ∧
  (∀ (f : MS) (s : State), Ready s (.tstat f) →
    Issues (.tstat f) s (State.nextCmdix (s.slotWrite (placeAt (f.imm.toNat % 1024 * 2 ^ 16 + f.tile2.toNat * 16)
      (s.cur.tileImage (s.us s.issue.die) (s.ctx.tile f.tile.toNat))))))

/-- MATRIX_COMMAND_COMPLETE carries the oldest command on. ZACC clears the active elements and the status and sets the
kind; YCLR clears its panels; CBLD reads 32 bytes of the tile into the codebook; MMA, MMAI and MMAP go on by some
steps, at most to the next retirement of the accumulator (Table 10.6): a part that reads no bad row, with no bad panel
byte, leaves in each active element its steps summed in order from the old value or 0. How many steps or rows go at a
time is a free value (assumption 37). The command leaves its queue with its last part and keeps its place with what it
has done before that; one that faults gives its fault its event. -/
def Obligations.MatrixCommandEffects : Prop :=
  (∀ (d : Die) (t fr n : Nat) (k : Cmd) (f : MT), k.follow = none → k.instr = .zacc f → k.shape.rows ≤ 128 → k.shape.cols ≤ 128 →
    ∃ d1, d.runMatrix t k fr n = { die := d1 } ∧ d1 = { d with c := d1.c } ∧ d1.c.zstat.get 0 f.acc.toNat = 0 ∧
      ∀ i j, i < 128 → j < 128 → d1.c.zelem f.acc.toNat i j = if i < k.shape.rows ∧ j < k.shape.cols then 0 else d.c.zelem f.acc.toNat i j) ∧
  (∀ (d : Die) (t fr n : Nat) (k : Cmd) (f : MT), k.follow = none → k.instr = .yclr f →
    ∃ d1, d.runMatrix t k fr n = { die := d1 } ∧ d1 = { d with c := d1.c } ∧
      ∀ a, d1.c.y.get 0 a = if f.panel.toNat ≤ a / 524288 ∧ a / 524288 ≤ f.panel.toNat + f.tile.toNat then 0 else d.c.y.get 0 a) ∧
  (∀ (d : Die) (t fr n : Nat) (k : Cmd) (f : MS), k.follow = none → k.instr = .cbld f →
    d.rowFault t k.tile.base.toNat = none →
    ∃ d1, d.runMatrix t k fr n = { die := d1 } ∧ d1 = { d with c := { d.c with cb := d1.c.cb }, port := d1.port } ∧
      (∀ n, d1.c.cb.get 0 n = if n = f.imm.toNat % 16 then BitVec.ofNat 256 (d.gnat k.tile.at_ 32) else d.c.cb.get 0 n)) ∧
  (∀ (d : Die) (t fr n : Nat) (k : Cmd) (f : MT) (u : Mul), k.follow = none → k.instr = .mma f ∨ k.instr = .mmai f ∨ k.instr = .mmap f →
    k.mul k.instr f = some u → u.m ≤ 128 → u.n ≤ 128 → d.c.yBad = [] →
    let left := (min (u.k - k.done) (u.retire - k.done % u.retire) + u.d - 1) / u.d
    let part := (List.range (if n = 0 then left else min n left)).map (k.done / u.d + ·)
    let depth := min (u.d * (k.done / u.d + part.length)) u.k
    (∀ x ∈ part, d.firstFault t (u.stepRows x) = none) →
    ∃ d1, d.runMatrix t k fr n = { die := d1, rest := if depth < u.k then some { k with begun := true, done := depth } else none } ∧
      d1 = { d with c := d1.c } ∧ d1.c.zkind.get .fp32 f.acc.toNat = u.kind ∧
      ∀ i j, i < 128 → j < 128 → d1.c.zelem f.acc.toNat i j =
        if i < u.m ∧ j < u.n then BitVec.ofNat 64 (part.foldl (fun acc x => u.step d i j acc x)
          ((if f.ac ∨ k.done ≠ 0 then d.c.zread f.acc.toNat i j u.kind else 0), 0)).1
        else d.c.zelem f.acc.toNat i j) ∧
  (∀ (k : Cmd) (f : MT) (u : Mul), k.mul k.instr f = some u → u.retire =
    if f.fmt = 7 ∨ f.fmt = 8 then 2048 else if f.fmt = 9 then 1024 else if f.fmt = 10 then 512 else if f.fmt = 11 then 8192 else 4096) ∧
  (∀ (s : State) (k : Cmd) (r : List Cmd), s.unit < 16 → s.still s.unit = false → (s.die s.unit).c.matQ = k :: r → k.follow = none →
    (∀ x ∈ r, x.cmdix ≠ k.cmdix ∧ x.id ≠ k.id) →
    let run := (s.die s.unit).runMatrix (s.us s.unit) k s.free (Config.freeNat s.free)
    (∃ t : State, exec .matrixCommandComplete s = .next t ∧ (t.mem = s.mem ∧ (∀ y, y ≠ s.unit → t.die y = s.die y) ∧
      (run.fail = none → run.rest = none → (t.die s.unit).c.matQ = r ∧ (t.die s.unit).c.z = run.die.c.z ∧
        (t.die s.unit).gallery = run.die.gallery ∧ t.agenda = s.agenda) ∧
      (∀ m, run.fail = none → run.rest = some m → (t.die s.unit).c.matQ = m :: r ∧
        (t.die s.unit).c.z = run.die.c.z ∧ t.agenda = s.agenda ++ [{ unit := s.unit, instr := .matrixCommandComplete }]) ∧
      (∀ x, run.fail = some x → t = { s with agenda := s.agenda ++ [{ unit := s.unit, instr := .engineFault s.unit .matrix }] }))))

/-- CPY, CPYM, TLD, TST, TRED, RWB, RINV and PREF, ready, complete: the command joins its stream's queue with the base
addresses, the nest set and the decrement captured; with direction 1 the tile it names, not EMPTY, is FILLING, TLD's
too, and TST's and TRED's DRAINING; CPYM also places its follow-on behind it in the matrix engine. CNEST and BIND take
a command index and act on their registers. -/
def Obligations.CopyCommandIssue : Prop :=
  (∀ (f : CX) (s : State), Ready s (.cpy f) → f.fd = 0 → ∃ (s1 : State) (k : Cmd), HandsOver (.cpy f) s s1 ∧
    s1.ctx.copyQ (streamOf s.issue.slot) = s.ctx.copyQ (streamOf s.issue.slot) ++ [k] ∧ k.instr = .cpy f ∧ k.cmdix = s.ctx.cmdix ∧
    k.a0 = s.srcA f.src.toNat ∧ k.a1 = s.srcA f.dst.toNat ∧ k.nest = s.ctx.nests.get {} f.nest.toNat) ∧
  (∀ (f : CX) (s : State), Ready s (.rwb f) → ∃ (s1 : State) (k : Cmd), HandsOver (.rwb f) s s1 ∧
    s1.ctx.copyQ (streamOf s.issue.slot) = s.ctx.copyQ (streamOf s.issue.slot) ++ [k] ∧ k.instr = .rwb f ∧ k.cmdix = s.ctx.cmdix ∧ k.a0 = s.srcA f.src.toNat) ∧
  (∀ (f : CX) (s : State), Ready s (.rinv f) → ∃ (s1 : State) (k : Cmd), HandsOver (.rinv f) s s1 ∧
    s1.ctx.copyQ (streamOf s.issue.slot) = s.ctx.copyQ (streamOf s.issue.slot) ++ [k] ∧ k.instr = .rinv f ∧ k.cmdix = s.ctx.cmdix ∧ k.a0 = s.srcA f.src.toNat) ∧
  (∀ (f : CX) (s : State), Ready s (.pref f) → ∃ (s1 : State) (k : Cmd), HandsOver (.pref f) s s1 ∧
    s1.ctx.copyQ (streamOf s.issue.slot) = s.ctx.copyQ (streamOf s.issue.slot) ++ [k] ∧ k.instr = .pref f ∧ k.cmdix = s.ctx.cmdix ∧ k.a0 = s.srcA f.src.toNat) ∧
  (∀ (f : CX) (s : State), Ready s (.cpy f) → f.fd = 1 →
    ((s.ctx.tile f.flags.toNat).state = .empty → exec (.cpy f) s = .next (s.beginTrap s.issue.die (s.precise .tileEmpty))) ∧
    ((s.ctx.tile f.flags.toNat).state ≠ .empty → ∃ (s1 : State) (k : Cmd), HandsOver (.cpy f) s s1 ∧
      s1.ctx.copyQ (streamOf s.issue.slot) = s.ctx.copyQ (streamOf s.issue.slot) ++ [k] ∧ k.instr = .cpy f ∧ k.tile = s.ctx.tile f.flags.toNat ∧
      k.a0 = s.srcA f.src.toNat ∧ k.a1 = s.srcA f.dst.toNat ∧ (s1.ctx.tile f.flags.toNat).state = .filling)) ∧
  (∀ (f : CX) (s : State), Ready s (.cpym f) → (f.fd = 1 → (s.ctx.tile f.flags.toNat).state ≠ .empty) →
    ∃ (t : State) (k m : Cmd), exec (.cpym f) s = .next t ∧ t.cur.c.copyQ (streamOf s.issue.slot) = s.ctx.copyQ (streamOf s.issue.slot) ++ [k] ∧
      t.cur.c.matQ = s.ctx.matQ ++ [m] ∧ k.instr = .cpym f ∧ k.cmdix = s.ctx.cmdix ∧ m.cmdix = s.ctx.cmdix + 1 ∧
      m.follow = some (s.lit64 f.fol.toNat) ∧ t.cur.c.cmdix = s.ctx.cmdix + 2 ∧ t.cur.c.s = s.ctx.s ∧ t.cur.c.a = s.ctx.a ∧
      ∀ a, t.homeByte a = s.homeByte a) ∧
  (∀ (f : CX) (s : State), Ready s (.tld f) →
    let e := s.ctx.tile f.flags.toNat
    (e.state = .empty → exec (.tld f) s = .next (s.beginTrap s.issue.die (s.precise .tileEmpty))) ∧
    (e.state ≠ .empty → ∃ (s1 : State) (k : Cmd), HandsOver (.tld f) s s1 ∧
      s1.ctx.copyQ (streamOf s.issue.slot) = s.ctx.copyQ (streamOf s.issue.slot) ++ [k] ∧ k.instr = .tld f ∧ k.tile = e ∧
      k.a0 = s.ctx.areg f.src.toNat ∧ k.a1 = s.ctx.areg (f.src.toNat + 1) ∧ (s1.ctx.tile f.flags.toNat).state = .filling ∧
      ∀ t, t ≠ f.flags.toNat → s1.ctx.tile t = s.ctx.tile t)) ∧
  (∀ (f : CX) (s : State), Ready s (.tst f) →
    let e := s.ctx.tile f.flags.toNat
    (e.state = .empty → exec (.tst f) s = .next (s.beginTrap s.issue.die (s.precise .tileEmpty))) ∧
    (e.state ≠ .empty → ∃ (s1 : State) (k : Cmd), HandsOver (.tst f) s s1 ∧
      s1.ctx.copyQ (streamOf s.issue.slot) = s.ctx.copyQ (streamOf s.issue.slot) ++ [k] ∧ k.instr = .tst f ∧ k.tile = e ∧
      k.a0 = s.ctx.areg f.dst.toNat ∧ k.a1 = s.ctx.areg (f.dst.toNat + 1) ∧ (s1.ctx.tile f.flags.toNat).state = .draining ∧
      ∀ t, t ≠ f.flags.toNat → s1.ctx.tile t = s.ctx.tile t)) ∧
  (∀ (f : CX) (s : State), Ready s (.tred f) →
    let e := s.ctx.tile f.flags.toNat
    (e.state = .empty → exec (.tred f) s = .next (s.beginTrap s.issue.die (s.precise .tileEmpty))) ∧
    (e.state ≠ .empty → e.type = 9 ∨ e.type = 3 → ∃ (s1 : State) (k : Cmd), HandsOver (.tred f) s s1 ∧
      s1.ctx.copyQ (streamOf s.issue.slot) = s.ctx.copyQ (streamOf s.issue.slot) ++ [k] ∧ k.instr = .tred f ∧ k.tile = e ∧
      k.a0 = s.ctx.areg f.dst.toNat ∧ k.a1 = s.ctx.areg (f.dst.toNat + 1) ∧ (s1.ctx.tile f.flags.toNat).state = .draining ∧
      ∀ t, t ≠ f.flags.toNat → s1.ctx.tile t = s.ctx.tile t)) ∧
  (∀ (f : CN) (s : State), Ready s (.cnest f) →
    let b := s.srcS f.bound
    Issues (.cnest f) s (State.nextCmdix (s.result 1 (.e f.nest.toNat f.level.toNat
      { count := BitVec.ofNat 32 b.toNat, sstride := BitVec.ofNat 32 (s.srcS f.sstride).toNat, dstride := BitVec.ofNat 32 (s.srcS f.dstride).toNat }
      (if f.level = 0 then some (BitVec.ofNat 24 (b.toNat / 2 ^ 32)) else none))))) ∧
  (∀ (f : CX) (s : State), Ready s (.bind f) → ∃ s1 : State, HandsOver (.bind f) s s1 ∧ s1 = { s with dies := s1.dies } ∧
    (∀ n, n ≠ f.flags.toNat % 64 → s1.ctx.bindings.get {} n = s.ctx.bindings.get {} n) ∧
    (f.fd = 1 → (s1.ctx.bindings.get {} (f.flags.toNat % 64)).v = false) ∧
    (f.fd = 0 → s1.ctx.bindings.get {} (f.flags.toNat % 64) = { obj := s.srcA f.src.toNat, base := s.srcA f.dst.toNat, v := true
                                                                len := (s1.ctx.bindings.get {} (f.flags.toNat % 64)).len }))

/-- AMO, CAS, ACQ, REL, WAITA, WAKE, DEC, SCLD and SCST, ready, complete: the command joins its stream's queue with the
address and operands captured, and a result takes a landing entry due 4 × L die cycles on, into its register or pair.
SCLD and SCST without wheel positions trap NO_WHEEL; memory accesses after ACQ wait for it. -/
def Obligations.AtomicCommandIssue : Prop :=
  (∀ (f : CA) (s : State), Ready s (.amo f) → ∃ (s1 : State) (k : Cmd), HandsOver (.amo f) s s1 ∧
    s1.ctx.copyQ (streamOf s.issue.slot) = s.ctx.copyQ (streamOf s.issue.slot) ++ [k] ∧ k.instr = .amo f ∧ k.cmdix = s.ctx.cmdix ∧ k.a0 = s.srcA f.addr.toNat ∧ k.s0 = s.srcS f.opnd ∧
    (f.res = 0 → k.landing = none ∧ s1.cur.seq.landings = s.cur.seq.landings) ∧
    (f.res ≠ 0 → ∃ l : Landing, k.landing = some l.id ∧ s1.cur.seq.landings = s.cur.seq.landings ++ [l] ∧ l.due = s.cur.seq.cycle + 4 * f.land.toNat ∧
      l.dest = .s f.res.toNat (if f.op.getLsbD 3 then 4 else 8) false)) ∧
  (∀ (f : CA) (s : State), Ready s (.cas f) → ∃ (s1 : State) (k : Cmd), HandsOver (.cas f) s s1 ∧
    s1.ctx.copyQ (streamOf s.issue.slot) = s.ctx.copyQ (streamOf s.issue.slot) ++ [k] ∧ k.instr = .cas f ∧ k.cmdix = s.ctx.cmdix ∧ k.a0 = s.srcA f.addr.toNat ∧
    k.s0 = s.ctx.sreg f.opnd.toNat ∧ k.s1 = s.ctx.sreg (f.opnd.toNat + 1) ∧
    (f.res = 0 → k.landing = none ∧ s1.cur.seq.landings = s.cur.seq.landings) ∧
    (f.res ≠ 0 → ∃ l : Landing, k.landing = some l.id ∧ s1.cur.seq.landings = s.cur.seq.landings ++ [l] ∧ l.due = s.cur.seq.cycle + 4 * f.land.toNat ∧
      l.dest = if f.op = 2 then .pair f.res.toNat else .s f.res.toNat (if f.op = 1 then 4 else 8) false)) ∧
  (∀ (f : CA) (s : State), Ready s (.acq f) → ∃ (s1 : State) (k : Cmd), HandsOver (.acq f) s s1 ∧
    s1.ctx.copyQ (streamOf s.issue.slot) = s.ctx.copyQ (streamOf s.issue.slot) ++ [k] ∧ k.instr = .acq f ∧ k.cmdix = s.ctx.cmdix ∧ k.a0 = s.srcA f.addr.toNat ∧
    (f.res = 0 → k.landing = none ∧ s1.cur.seq.landings = s.cur.seq.landings) ∧
    (f.res ≠ 0 → ∃ l : Landing, k.landing = some l.id ∧ s1.cur.seq.landings = s.cur.seq.landings ++ [l] ∧ l.due = s.cur.seq.cycle + 4 * f.land.toNat ∧
      l.dest = .s f.res.toNat 8 false) ∧
    s1.cur.seq.memWait = s.cur.seq.memWait ++ [.command s.ctx.cmdix]) ∧
  (∀ (f : CA) (s : State), Ready s (.rel f) → ∃ (s1 : State) (k : Cmd), HandsOver (.rel f) s s1 ∧
    s1.ctx.copyQ (streamOf s.issue.slot) = s.ctx.copyQ (streamOf s.issue.slot) ++ [k] ∧ k.instr = .rel f ∧ k.cmdix = s.ctx.cmdix ∧ k.a0 = s.srcA f.addr.toNat ∧ k.s0 = s.srcS f.opnd) ∧
  (∀ (f : CA) (s : State), Ready s (.waita f) → ∃ (s1 : State) (k : Cmd), HandsOver (.waita f) s s1 ∧
    s1.ctx.copyQ (streamOf s.issue.slot) = s.ctx.copyQ (streamOf s.issue.slot) ++ [k] ∧ k.instr = .waita f ∧ k.cmdix = s.ctx.cmdix ∧ k.a0 = s.srcA f.addr.toNat ∧ k.s0 = s.srcS f.opnd ∧
    ∃ l : Landing, k.landing = some l.id ∧ s1.cur.seq.landings = s.cur.seq.landings ++ [l] ∧ l.due = s.cur.seq.cycle + 4 * f.land.toNat ∧
      l.dest = .waita f.res.toNat f.op.toNat (s.srcS f.opnd)) ∧
  (∀ (f : CA) (s : State), Ready s (.wake f) → ∃ (s1 : State) (k : Cmd), HandsOver (.wake f) s s1 ∧
    s1.ctx.copyQ (streamOf s.issue.slot) = s.ctx.copyQ (streamOf s.issue.slot) ++ [k] ∧ k.instr = .wake f ∧ k.cmdix = s.ctx.cmdix ∧ k.a0 = s.srcA f.addr.toNat) ∧
  (∀ (f : CA) (s : State), Ready s (.dec f) → ∃ (s1 : State) (k : Cmd), HandsOver (.dec f) s s1 ∧
    s1.ctx.copyQ (streamOf s.issue.slot) = s.ctx.copyQ (streamOf s.issue.slot) ++ [k] ∧ k.instr = .dec f ∧ k.cmdix = s.ctx.cmdix ∧ k.s2.toNat = 2 ^ 32 + (s.srcS f.opnd).toNat % 2 ^ 16) ∧
  (∀ (f : CA) (s : State), Ready s (.scld f) → s.ctx.wheel.extractLsb' 16 9 ≠ 0 → ∃ (s1 : State) (k : Cmd), HandsOver (.scld f) s s1 ∧
    s1.ctx.copyQ (streamOf s.issue.slot) = s.ctx.copyQ (streamOf s.issue.slot) ++ [k] ∧ k.instr = .scld f ∧ k.cmdix = s.ctx.cmdix ∧ k.a0 = s.srcA f.addr.toNat ∧
    (f.res = 0 → k.landing = none ∧ s1.cur.seq.landings = s.cur.seq.landings) ∧
    (f.res ≠ 0 → ∃ l : Landing, k.landing = some l.id ∧ s1.cur.seq.landings = s.cur.seq.landings ++ [l] ∧ l.due = s.cur.seq.cycle + 4 * f.land.toNat ∧
      l.dest = .s f.res.toNat (if f.op = 1 then 4 else 8) false)) ∧
  (∀ (f : CA) (s : State), Ready s (.scst f) → s.ctx.wheel.extractLsb' 16 9 ≠ 0 → ∃ (s1 : State) (k : Cmd), HandsOver (.scst f) s s1 ∧
    s1.ctx.copyQ (streamOf s.issue.slot) = s.ctx.copyQ (streamOf s.issue.slot) ++ [k] ∧ k.instr = .scst f ∧ k.cmdix = s.ctx.cmdix ∧ k.a0 = s.srcA f.addr.toNat ∧ k.s0 = s.srcS f.opnd) ∧
  (∀ (f : CA) (i : Instr) (s : State), i = .scld f ∨ i = .scst f → Ready s i → s.ctx.wheel.extractLsb' 16 9 = 0 →
    exec i s = .next (s.beginTrap s.issue.die (s.precise .noWheel)))

/-- XCH, XCC, SIB, GRS, DBAR and XDIG, ready, with tiles that are not EMPTY, complete: the command joins its stream's
queue with a role for each dimension it names, whose partner differs from the die in that one physical dimension; the
tile of a send role is DRAINING, that of a receive role FILLING. An EMPTY tile traps TILE_EMPTY. A barrier with its
flag holds every later bundle. An exchange by a task that is not pinned traps NOT_PINNED, but for XDIG; one that names
a dimension at or past the width of the subcube traps SUBCUBE; a bundle that holds an XCC whose tiles are no pair of
Table 18.3, its guard true or not, traps ILLEGAL before anything else; an operation none of this concerns traps for
none of it. -/
def Obligations.ExchangeCommands : Prop :=
  ((∀ (f : CD) (i : Instr) (s : State), i ∈ [.xch f, .xcc f, .sib f, .grs f] → Ready s i →
    ((s.ctx.tile f.send.toNat).state = .empty ∨ (s.ctx.tile f.recv.toNat).state = .empty →
      exec i s = .next (s.beginTrap s.issue.die (s.precise .tileEmpty))) ∧
    ((s.ctx.tile f.send.toNat).state ≠ .empty → (s.ctx.tile f.recv.toNat).state ≠ .empty →
      ∃ (s1 : State) (k : Cmd), HandsOver i s s1 ∧ s1.ctx.xchQ (streamOf s.issue.slot) = s.ctx.xchQ (streamOf s.issue.slot) ++ [k] ∧
        k.instr = i ∧ k.cmdix = s.ctx.cmdix ∧ k.tile = s.ctx.tile f.send.toNat ∧ k.tile2 = s.ctx.tile f.recv.toNat ∧
        (∀ r ∈ k.roles, r.ldim ∈ (rolesAt s.lid i).1.toList ++ (rolesAt s.lid i).2.toList ∧
          r.peer = (16 * s.pkg + s.issue.die) ^^^ 2 ^ permOf s.ctx.lperm.toNat r.ldim) ∧
        (∀ t, s1.ctx.tile t = { s.ctx.tile t with
          state := if t = f.recv.toNat ∧ (rolesAt s.lid i).2.isSome then .filling
            else if t = f.send.toNat ∧ (rolesAt s.lid i).1.isSome then .draining else (s.ctx.tile t).state }))) ∧
  (∀ (f : CD) (s : State), Ready s (.dbar f) →
    ∃ (s1 : State) (k : Cmd), HandsOver (.dbar f) s s1 ∧ s1.ctx.xchQ (streamOf s.issue.slot) = s.ctx.xchQ (streamOf s.issue.slot) ++ [k] ∧
      k.instr = .dbar f ∧ k.cmdix = s.ctx.cmdix ∧ k.roles.map (·.ldim) = dimsOf (f.send.toNat + f.recv.toNat % 4 * 2 ^ 12) ∧
      s1.cur.seq.memWait = s.cur.seq.memWait ++ (if f.flags.getLsbD 0 then [.barrier s.ctx.cmdix] else [])) ∧
  (∀ (f : CD) (s : State), Ready s (.xdig f) →
    ((s.ctx.tile f.recv.toNat).state = .empty → exec (.xdig f) s = .next (s.beginTrap s.issue.die (s.precise .tileEmpty))) ∧
    ((s.ctx.tile f.recv.toNat).state ≠ .empty →
      ∃ (s1 : State) (k : Cmd), HandsOver (.xdig f) s s1 ∧ s1.ctx.xchQ (streamOf s.issue.slot) = s.ctx.xchQ (streamOf s.issue.slot) ++ [k] ∧
        k.instr = .xdig f ∧ k.cmdix = s.ctx.cmdix ∧ k.tile2 = s.ctx.tile f.recv.toNat ∧
        k.roles.map (·.ldim) = f.dima.toNat :: (if f.dimb = 15 then [] else [f.dimb.toNat]) ∧
        (s1.ctx.tile f.recv.toNat).state = .filling)) ∧
  (∀ (f : CD) (l : Nat), rolesAt l (.xch f) = (some f.dima.toNat, some f.dima.toNat) ∧
    rolesAt l (.xcc f) = (some f.dima.toNat, some f.dima.toNat))) ∧
  ((∀ (f : CD) (i : Instr) (s : State), i ∈ [.xch f, .xcc f, .sib f, .grs f] →
    (∀ t, s.cur.task = some t → t.pinned = false) → s.exchangeTrap i = some .notPinned) ∧
  (∀ (f : CD) (s : State) (t : DieTask), s.cur.task = some t → t.pinned → widthOf s.ctx.mask ≤ f.dima.toNat →
    s.exchangeTrap (.xch f) = some .subcube) ∧
  (∀ (f : CD) (sl : Slot) (all live : List Op) (s : State), (sl, .xcc f) ∈ all → s.cur.seq.barred = false →
    xccFits f.op.toNat (s.ctx.tile f.send.toNat) (s.ctx.tile f.recv.toNat) = false → s.issueTrap all live = some .illegal) ∧
  (∀ (i : Instr) (s : State), xchDims i = [] → (∀ f, i ≠ .dbar f) → s.exchangeTrap i = none))

/-- LANDING_DATA_ARRIVAL of a translated load performs one granule, with nothing earlier of the die in its way: with no
byte of it poisoned or absent the landing takes the bytes as they stand at that instant, and has its data with the
last granule; a poisoned line faults POISON with no data; no byte of memory changes but those an L1 writes back.
WRITE_PERFORMED of a translated store performs one granule, with nothing earlier in its way: its bytes change at their
homes under its mask, or go to the remote home, no other byte does, and with the last granule acknowledged the store
is gone. A store that faulted gives its trap. -/
def Obligations.LoadAndStoreEvents : Prop :=
  (∀ (die entry : Nat) (how : Arrival) (l : Landing) (s : State), (.landingDataArrival die entry how : Instr).problem = none →
    (s.die die).seq.landings.find? (fun l => l.id == entry && l.data.isNone && l.fault.isNone && !l.pieces.isEmpty) = some l →
    l.pas ≠ [] →
    let lines := distinct (((l.pas.filter fun x => x.2.isNone).map Prod.fst).map lineOf)
    let line := lines.getD (how.gran % lines.length) 0
    let need := ((l.pas.filter fun x => x.2.isNone).map Prod.fst).filter fun a => lineOf a == line
    s.inWay die l.id l.attr need [] = false → s.loadInWay die l.id need = false → (l.attr < 2 ∨ paClass (64 * line) ≠ 4) →
    (∃ t : State, exec (.landingDataArrival die entry how) s = .next t ∧ ((∀ a, s.window? a = none → (∀ x, (a, x) ∈ (s.die (s.l1Die die a)).l1 → x.dirty = false) → t.homeByte a = s.homeByte a) ∧
      ((∀ a ∈ need, s.poisoned a = false ∧ s.absent a = false) → ∃ m ∈ (t.die die).seq.landings, m.id = entry ∧ m.dest = l.dest ∧
        m.pas = l.pas.map (fun x => (x.1, if lineOf x.1 = line then some (x.2.getD (s.byteNow die x.1)) else x.2)) ∧
        (lines.length = 1 → m.data = some (m.pas.filterMap Prod.snd)) ∧
        (1 < lines.length → m.data = none ∧ { unit := die, instr := .landingDataArrival die entry {} } ∈ t.agenda)) ∧
      ((∃ a ∈ need, s.poisoned a = true) →
        ∃ m ∈ (t.die die).seq.landings, m.id = entry ∧ m.data = none ∧ ∃ f, m.fault = some f ∧ f.cause = .poison ∧ f.faddr = l.faddr)))) ∧
  (∀ (die id gran : Nat) (w : Store) (s : State), (.writePerformed die { id, gran } : Instr).problem = none →
    (s.die die).seq.stores.find? (fun w => w.id == id && !w.sent) = some w → w.vbytes = [] → w.fault = none →
    let lines := distinct (w.bytes.map fun x => lineOf x.1)
    let line := lines.getD (gran % lines.length) 0
    let now := w.bytes.filter fun x => lineOf x.1 == line
    let left := w.bytes.filter fun x => lineOf x.1 != line
    s.inWay die id w.attr [] (now.map Prod.fst) = false → s.ucInWay die id (now.map Prod.fst) w.attr = false →
    (∃ t : State, exec (.writePerformed die { id, gran }) s = .next t ∧ ((∀ a, a ∉ now.map Prod.fst → s.window? a = none → t.homeByte a = s.homeByte a) ∧
      (paClass (64 * line) ≠ 4 → (∀ x ∈ now, s.window? x.1 = none) → (now.map Prod.fst).Nodup → ∀ x ∈ now, t.homeByte x.1 = x.2) ∧
      (paClass (64 * line) = 4 → now ≠ [] → ∃ r ∈ (t.die die).fab.requests, r.waiter = .store id ∧ r.line = line) ∧
      (paClass (64 * line) ≠ 4 → left = [] → s.storeOutFar die id = false →
        (t.die die).seq.stores = (s.die die).seq.stores.filter fun x => x.id != id) ∧
      (left ≠ [] → ∃ x ∈ (t.die die).seq.stores, x.id = id ∧ x.bytes = left ∧ { unit := die, instr := .writePerformed die { id } } ∈ t.agenda)))) ∧
  (∀ (die id gran : Nat) (w : Store) (f : Trap) (s : State), (.writePerformed die { id, gran } : Instr).problem = none →
    (s.die die).seq.stores.find? (fun w => w.id == id && !w.sent) = some w → w.vbytes = [] → w.fault = some f →
    (∃ t : State, exec (.writePerformed die { id, gran }) s = .next t ∧ (t.mem = s.mem ∧ (t.die die).c.pendTraps = (s.die die).c.pendTraps ++ [f] ∧
      (t.die die).seq.stores = (s.die die).seq.stores.filter fun x => x.id != id)))

/-- BANK_CLASS_RISE, BANK_CLASS_FALL and GALLERY_SWEEP complete: a rise takes the bank to the class, a fall one step down,
with LAST[c] of each class reached or left set to the time; a sweep sets EXP on each expired row of its bank and on no
other, counts the single-bit errors corrected since the sweep before, poisons the rows it finds bad and marks the
panel bytes it finds bad, which stand for any uncorrectable error of the gallery or the mezzanine (the model's own
reading, assumption 50). Nothing else of the die, and nothing of another die, changes. PATROL_SCRUB marks poisoned, at
their homes, the mapped lines of this package that it finds bad and no other (that it stands for any uncorrectable
error of memory is the model's own reading, assumption 50). ATRIUM_EVICTION drops its line and no other, encoding a
dirty line of an active window and writing the held bytes of a line of the pool back to it, so that every byte outside
a window reads as before. -/
def Obligations.SweepScrubAndEvictionEvents : Prop :=
  ((∀ (die bank : Nat) (cls : BitVec 3) (s : State), (.bankClassRise die bank cls : Instr).problem = none →
    let old : Nat := (s.die die).bankCls.get 0 bank
    (∃ t : State, exec (.bankClassRise die bank cls) s = .next t ∧ (t = { s with dies := t.dies } ∧ (∀ y, y ≠ die → t.die y = s.die y) ∧
      t.die die = { s.die die with bankCls := (t.die die).bankCls, bankLast := (t.die die).bankLast } ∧
      (∀ b, (t.die die).bankCls.get 0 b = if b = bank then max old cls.toNat else (s.die die).bankCls.get 0 b) ∧
      (∀ k, (t.die die).bankLast.get? k = if old < cls.toNat ∧ 8 * bank < k ∧ k ≤ 8 * bank + cls.toNat then some (s.us die)
        else (s.die die).bankLast.get? k)))) ∧
  (∀ (die bank : Nat) (s : State), (.bankClassFall die bank : Instr).problem = none →
    let old : Nat := (s.die die).bankCls.get 0 bank
    (∃ t : State, exec (.bankClassFall die bank) s = .next t ∧ (t = { s with dies := t.dies } ∧ (∀ y, y ≠ die → t.die y = s.die y) ∧
      t.die die = { s.die die with bankCls := (t.die die).bankCls, bankLast := (t.die die).bankLast } ∧
      (∀ b, (t.die die).bankCls.get 0 b = if b = bank then old - 1 else (s.die die).bankCls.get 0 b) ∧
      (∀ k, (t.die die).bankLast.get? k = if 8 * bank < k ∧ k ≤ 8 * bank + old then some (s.us die) else (s.die die).bankLast.get? k)))) ∧
  (∀ (die bank n : Nat) (bad panels : List Nat) (s : State), (.gallerySweep die { bank, bad, panels, corrected := n } : Instr).problem = none →
    (∃ t : State, exec (.gallerySweep die { bank, bad, panels, corrected := n }) s = .next t ∧ (t = { s with dies := t.dies } ∧ (∀ y, y ≠ die → t.die y = s.die y) ∧
      t.die die = { s.die die with
        tags := (t.die die).tags, sweepAt := (s.die die).sweepAt.set bank (s.us die), c := (t.die die).c, corrected := (s.die die).corrected + n } ∧
      (t.die die).c = { (s.die die).c with yBad := (t.die die).c.yBad } ∧
      (∀ y, y ∈ (t.die die).c.yBad ↔ y ∈ panels ∨ y ∈ (s.die die).c.yBad) ∧
      ∀ r, (t.die die).tags.get {} r =
        let x := (s.die die).tags.get {} r
        { x with exp := x.exp || decide (r / 2 ^ 14 = bank) && (s.die die).expired (s.us die) r
                 poison := x.poison || decide (r / 2 ^ 14 = bank) && decide (r % 2 ^ 14 ∈ bad) })))) ∧
  ((∀ (bad : List Nat) (s : State), (.patrolScrub bad : Instr).problem = none → 
    (∃ t : State, exec (.patrolScrub bad) s = .next t ∧ (t = { s with poisonLines := t.poisonLines } ∧
      ∀ l, l ∈ t.poisonLines ↔ l ∈ s.poisonLines ∨ l ∈ bad ∧ paClass (64 * l) ≤ 2 ∧ s.mapped (64 * l)))) ∧
  (∀ (line : Nat) (s : State), (.atriumEviction line : Instr).problem = none → 
    (∃ t : State, exec (.atriumEviction line) s = .next t ∧ (t = { s with fmtLines := t.fmtLines, remote := t.remote, mem := t.mem, pool := t.pool, dies := t.dies } ∧
      (∀ y, t.die y = (s.die y).voidFills (· == line)) ∧ (∀ e, e ∈ t.pool ↔ e ∈ s.pool ∧ lineOf e.1 ≠ line) ∧
      (∀ l, t.fmtLines.get? l = if l = line then none else s.fmtLines.get? l) ∧
      (∀ l, t.remote.get? l = if l = line then none else s.remote.get? l) ∧
      ((∀ e ∈ s.pool, lineOf e.1 ≠ line) →
        (∀ x w, s.fmtLines.get? line = some x → x.dirty → s.window? (64 * line) = some w → t.mem = (s.encodeLine w line x.bytes).mem) ∧
        ((∀ x, s.fmtLines.get? line = some x → x.dirty = false) → t.mem = s.mem)) ∧
      ((∀ e ∈ s.pool, paClass e.1 = 2) → (s.pool.map Prod.fst).Nodup → (∀ x, s.fmtLines.get? line = some x → x.dirty = false) →
        ∀ a, paClass a ≠ 4 → s.window? a = none → t.homeByte a = s.homeByte a)))))

/-- FMTW_ENABLE of an idle window takes its formats and begins the enabling; FMTW_RETIRE of an active one begins its
retirement, with EN still 1; each completion drops every line of the window's on-chip range from the atrium and sets
or clears EN; with no dirty line in the range memory does not change, and no line outside it goes. No other window
changes. -/
def Obligations.FormatWindowEvents : Prop :=
  (∀ (w : Nat) (v : W64) (s : State), (.fmtwEnable w v : Instr).problem = none → (s.fmt w).en = false → (s.fmt w).enabling = false → 
    (∃ t : State, exec (.fmtwEnable w v) s = .next t ∧ (t = { s with fmtw := t.fmtw, agenda := t.agenda } ∧
      t.agenda = s.agenda ++ [{ unit := 0, instr := .fmtwEnableComplete w }] ∧
      ∀ x, t.fmt x = if x = w then { s.fmt w with bs8 := v.getLsbD 1, bf16 := v.getLsbD 2, enabling := true } else s.fmt x))) ∧
  (∀ (w : Nat) (s : State), (.fmtwRetire w : Instr).problem = none → (s.fmt w).en → (s.fmt w).retiring = false → 
    (∃ t : State, exec (.fmtwRetire w) s = .next t ∧ (t = { s with fmtw := t.fmtw, agenda := t.agenda } ∧
      t.agenda = s.agenda ++ [{ unit := 0, instr := .fmtwRetireComplete w }] ∧
      ∀ x, t.fmt x = if x = w then { s.fmt w with retiring := true } else s.fmt x))) ∧
  (∀ (w : Nat) (s : State), (.fmtwEnableComplete w : Instr).problem = none →
    let lo : Nat := (s.fmt w).obase.toNat * 2 ^ 16
    let hi : Nat := lo + (s.fmt w).osize.toNat * 2 ^ 30
    (s.fmt w).enabling → 
    (∃ t : State, exec (.fmtwEnableComplete w) s = .next t ∧ (t = { s with fmtw := t.fmtw, fmtLines := t.fmtLines, mem := t.mem } ∧
      (∀ x, t.fmt x = if x = w then { s.fmt w with en := true, enabling := false } else s.fmt x) ∧
      (∀ l, t.fmtLines.get? l = if lo ≤ 64 * l ∧ 64 * l < hi then none else s.fmtLines.get? l) ∧
      ((∀ l x, s.fmtLines.get? l = some x → lo ≤ 64 * l ∧ 64 * l < hi → x.dirty = false) → t.mem = s.mem)))) ∧
  (∀ (w : Nat) (s : State), (.fmtwRetireComplete w : Instr).problem = none →
    let lo : Nat := (s.fmt w).obase.toNat * 2 ^ 16
    let hi : Nat := lo + (s.fmt w).osize.toNat * 2 ^ 30
    (s.fmt w).retiring → 
    (∃ t : State, exec (.fmtwRetireComplete w) s = .next t ∧ (t = { s with fmtw := t.fmtw, fmtLines := t.fmtLines, mem := t.mem } ∧
      (∀ x, t.fmt x = if x = w then { s.fmt w with en := false, retiring := false } else s.fmt x) ∧
      (∀ l, t.fmtLines.get? l = if lo ≤ 64 * l ∧ 64 * l < hi then none else s.fmtLines.get? l) ∧
      ((∀ l x, s.fmtLines.get? l = some x → lo ≤ 64 * l ∧ 64 * l < hi → x.dirty = false) → t.mem = s.mem))))

/-- TLB_INVALIDATE begins an invalidation with the context, scope and address written, or, while one is in progress, is
ignored and sets REJ. It completes once no die of the contexts it concerns has an access under its translations still
to perform, and no write of any die to a remote home goes unanswered: then exactly the translations in its scope are
gone from every die, and BUSY reads 0. -/
def Obligations.TranslationInvalidation : Prop :=
  (∀ (hi : W64) (s : State), (.tlbInvalidate hi : Instr).problem = none → 
    (∃ t : State, exec (.tlbInvalidate hi) s = .next t ∧ ((s.tlbBusy.isSome → t = { s with tlbRej := true }) ∧
      (s.tlbBusy = none → t = { s with tlbBusy := t.tlbBusy, agenda := t.agenda } ∧
        t.agenda = s.agenda ++ [{ unit := 0, instr := .tlbInvalidateComplete }] ∧
        t.tlbBusy = some ((s.tlbinv.extractLsb' 0 10).toNat, (s.tlbinv.extractLsb' 10 2).toNat,
          (hi.extractLsb' 0 8 ++ s.tlbinv.extractLsb' 16 48 ++ (0 : BitVec 16)).toNat))))) ∧
  (∀ (ctx scope va : Nat) (s : State), s.tlbBusy = some (ctx, scope, va) →
    (∀ i, i < 16 → (s.die i).writesSent = false ∧ (scope = 2 ∨ s.ctxOn i = ctx → (s.die i).unperformed = false)) →
    (∃ t : State, exec .tlbInvalidateComplete s = .next t ∧ (t = { s with tlbBusy := none, dies := t.dies } ∧
      ∀ i, i < 16 → ∀ e, e ∈ (t.die i).tlb ↔ e ∈ (s.die i).tlb ∧
        ¬ ((scope = 2 ∨ e.ctx = ctx) ∧ (scope ≠ 0 ∨ e.va ≤ va ∧ va < e.va + e.size))))) ∧
  (∀ (ctx scope va i : Nat) (s : State), s.tlbBusy = some (ctx, scope, va) → i < 16 →
    (s.die i).writesSent ∨ (scope = 2 ∨ s.ctxOn i = ctx) ∧ (s.die i).unperformed → (∃ t : State, exec .tlbInvalidateComplete s = .next t ∧ (t.tlbBusy = s.tlbBusy ∧ t.dies = s.dies)))

/-- CODE_LINE_ARRIVAL of the line that the current half wants next expands it there as it stands in memory, and changes no
byte of memory. COLD_PAGE_FETCH_COMPLETE comes again until the fetch is first of its class; then a page whose source
reads without error and has the hash of its entry gets its patched bytes and V set; for any other nothing is written,
and every die waiting in the page traps COLD_FAULT. -/
def Obligations.CodeDeliveryEvents : Prop :=
  (∀ (die line k : Nat) (s : State), (.codeLineArrival die line : Instr).problem = none → (s.die die).seq.halfCur.live →
    (s.die die).seq.halfCur.wanted = some k → lineOf ((s.die die).seq.halfCur.seg + 64 * k) = line →
    (∃ t : State, exec (.codeLineArrival die line) s = .next t ∧ ((∀ a, t.homeByte a = s.homeByte a) ∧
      (t.die die).seq.halfCur = (s.die die).seq.halfCur.expand k (s.textLine (s.die die).seq.halfCur.seg k) ∧
      ((t.die die).seq.halfCur.lines.get? k = some (s.textLine (s.die die).seq.halfCur.seg k)) ∧ (t.die die).c = (s.die die).c))) ∧
  (∀ (handle page : Nat) (readError : Bool) (o : Obj) (s : State), s.objects.get? handle = some o → page < o.coldUnits →
    (∀ f ∈ s.coldFetches, f.handle = handle → f.page = page → s.coldTurn f) →
    let e := s.coldEntry o page
    let lo := s.objBase o + (o.hotUnits + page) * 2 ^ 16
    let src := s.homeNat (e + 8) 8
    let bytes := (List.range 65536).map fun k => s.homeByte (src + k)
    let good := readError = false ∧ s.mapped src ∧ s.mapped (src + 65535) ∧ (∀ l, l < 1024 → s.poisoned (src + 64 * l) = false) ∧
      (Config.shake256 bytes).take 32 = (List.range 32).map fun k => s.homeByte (e + 16 + k)
    (∃ t : State, exec (.coldPageFetchComplete handle page readError) s = .next t ∧ ((good → t = { (s.homeWrite (placeAt lo (s.coldPatches o page bytes))).homeWrite [(e, 1)] with coldFetches := t.coldFetches, agenda := t.agenda }) ∧
      (¬ good → t.mem = s.mem ∧ ∀ i, i < 16 →
        ((t.die i).seq.coldBad = true ↔ (s.die i).seq.coldBad = true ∨ (s.die i).seq.run ≠ .idle ∧ lo ≤ (s.die i).seq.pc ∧
          (s.die i).seq.pc < lo + 2 ^ 16))))) ∧
  (∀ (handle page : Nat) (readError : Bool) (f : ColdFetch) (s : State), f ∈ s.coldFetches → f.handle = handle → f.page = page →
    s.coldTurn f = false →
    exec (.coldPageFetchComplete handle page readError) s = .next (s.later 0 (.coldPageFetchComplete handle page readError))) ∧
  (∀ (n : Nat) (s s1 : State) (c : Cause), s.codeAt n = .bad s1 c → c = .illegal ∨ c = .fetchBound ∨ c = .coldFault)

/-- The end of a command writes its 16-byte completion entry at the next place of its completion ring, with CID, STATUS,
the phase, QHEAD and VALUE, and changes no other byte outside format windows; the ring index wraps with a change of
phase; HALTERR with a status of 0x10 or more halts the queue; IRQ raises the queue's vector; the command leaves the
queue, and no other queue changes. -/
def Obligations.CommandCompletions : Prop :=
  ∀ (q status value : Nat) (c : Command) (s : State), (s.queue q).cmd = some c →
    let x := s.queue q
    let at_ : Nat := 3 * 2 ^ 52 + (16 * x.cpl.toNat + 16 * x.cplIdx) % 2 ^ 52
    let t := s.finish q status value
    let y := t.queue q
    (List.range 16).map (fun k => t.homeByte (at_ + k)) =
      toLE 2 c.cid.toNat ++ toLE 1 status ++ toLE 1 (if x.phase then 1 else 0) ++ toLE 2 x.head.toNat ++ [0, 0] ++ toLE 8 value ∧
    (∀ a, a < at_ ∨ at_ + 16 ≤ a → s.window? a = none → t.homeByte a = s.homeByte a) ∧
    y.cmd = none ∧ y.blocked = false ∧ y.head = x.head ∧ y.tail = x.tail ∧ y.async = x.async ∧ y.en = (x.en && !x.disabling) ∧
    y.cplIdx = (if x.cplIdx + 1 = 2 ^ max 6 x.log2n.toNat then 0 else x.cplIdx + 1) ∧
    y.phase = (if x.cplIdx + 1 = 2 ^ max 6 x.log2n.toNat then !x.phase else x.phase) ∧
    y.halted = (x.halted || (c.flags.getLsbD 3 && decide (0x10 ≤ status))) ∧
    (∀ v, t.msix.get 0 v = s.msix.get 0 v + if v = q ∧ c.flags.getLsbD 0 then 1 else 0) ∧ ∀ r, r ≠ q → t.queue r = s.queue r

/-- CMD_NOP completes with status 0. SIGNAL, in a context that exists and at an aligned address that translates for
writing, stores its 8 bytes and completes. WAIT completes with the value read once it reaches the threshold, dropping
the package's remote copies; with NOBLOCK it completes BUSY, else it blocks its queue, to read again, and its timeout,
if it has one, begins; once that has passed, WAIT_TIMEOUT completes it TIMEOUT. A context that does not exist is
BADCTX and a misaligned address BADARG. -/
def Obligations.SynchronisationCommands : Prop :=
  (∀ (c : Command) (s : State), s.unit < 64 → (s.queue s.unit).cmd = some c → c.op = 0 → exec .cmdNop s = .next (s.finish s.unit 0 0)) ∧
  (∀ (c : Command) (s : State), s.unit < 64 → (s.queue s.unit).cmd = some c → c.op = 2 → (s.contexts.get? c.ctx.toNat).isSome → c.arg 8 8 % 8 = 0 → 
    (∀ s1, s.devWrite c.ctx.toNat (c.arg 8 8) (toLE 8 (c.arg 16 8)) = .ok s1 → exec .signal s = .next (s1.finish s.unit 0 0)) ∧
    (∀ x a, s.devWrite c.ctx.toNat (c.arg 8 8) (toLE 8 (c.arg 16 8)) = .fault x a → exec .signal s = .next (s.finish s.unit 0x11 0))) ∧
  (∀ (c : Command) (s : State), s.unit < 64 → (s.queue s.unit).cmd = some c → c.op = 2 → 
    (s.contexts.get? c.ctx.toNat = none → exec .signal s = .next (s.finish s.unit 0x12 0)) ∧
    ((s.contexts.get? c.ctx.toNat).isSome → c.arg 8 8 % 8 ≠ 0 → exec .signal s = .next (s.finish s.unit 0x11 0))) ∧
  (∀ (c : Command) (s s1 : State) (v : Nat), s.unit < 64 → (s.queue s.unit).cmd = some c → c.op = 3 →
    (s.contexts.get? c.ctx.toNat).isSome → c.arg 8 8 % 8 = 0 → s.syncRead c = .ok (s1, v) →
    (c.arg 16 8 ≤ v → exec .wait s = .next ((s1.dropCopies fun _ => true).finish s.unit 0 v)) ∧
    (v < c.arg 16 8 → c.flags.getLsbD 2 → exec .wait s = .next (s1.finish s.unit 2 v)) ∧
    (v < c.arg 16 8 → c.flags.getLsbD 2 = false → (∃ t : State, exec .wait s = .next t ∧ (t.mem = s1.mem ∧ t.remote = s1.remote ∧
      t.queue s.unit = { s1.queue s.unit with blocked := true, cmd := some { c with since := c.since.or (some (s1.ftc 0)) } } ∧
      { unit := s.unit, instr := .wait } ∈ t.agenda ∧ (c.since = none → c.arg 24 4 ≠ 0 → { unit := s.unit, instr := .waitTimeout } ∈ t.agenda))))) ∧
  (∀ (c : Command) (s s1 : State) (v since : Nat), s.unit < 64 → (s.queue s.unit).cmd = some c → c.op = 3 → c.since = some since →
    c.arg 24 4 ≠ 0 → since + 1000 * c.arg 24 4 ≤ s.ftc 0 → s.syncRead c = .ok (s1, v) →
    exec .waitTimeout s = .next (s1.finish s.unit 3 v)) ∧
  (∀ (c : Command) (s : State) (p : Nat × Nat) (ps : List (Nat × Nat)), s.devAddrs c.ctx.toNat (c.arg 8 8) 8 1 = .ok (p :: ps) →
    (∀ x ∈ p :: ps, s.poisoned x.1 = false ∧ paClass x.1 ≠ 4) → s.devAddrs c.ctx.toNat (c.arg 8 8) 1 1 = .ok [p] →
    s.syncRead c = .ok (s, ofLE ((p :: ps).map fun x => s.homeByte x.1)))

/-- A doorbell to an enabled queue takes a value within the ring as QTAIL, and to a disabled queue, or with a greater
value, only sets DBERR. QCTL with EN = 1 enables a queue whose ring fits and whose QCPL is set, from QHEAD = QTAIL = 0
and phase 1, and otherwise sets CFGREJ; on an enabled queue PRIO and LOG2N do not change, and EN = 0 disables it once
no command is in progress. A resume clears HALTED. No other queue changes. -/
def Obligations.QueueControl : Prop :=
  (∀ (q : Nat) (v : BitVec 32) (s : State), (.doorbell q v : Instr).problem = none → 
    (∃ t : State, exec (.doorbell q v) s = .next t ∧ ((∀ r, r ≠ q → t.queue r = s.queue r) ∧ t.mem = s.mem ∧
      ((s.queue q).en = false ∨ (s.queue q).size ≤ v.toNat → t.queue q = { s.queue q with dberr := true }) ∧
      ((s.queue q).en → v.toNat < (s.queue q).size →
        (t.queue q).tail = v.setWidth 15 ∧ t.queue q = { s.queue q with tail := (t.queue q).tail, readyAt := (t.queue q).readyAt })))) ∧
  (∀ (q : Nat) (v : W64) (s : State), (.qctlWrite q v : Instr).problem = none → 
    (∃ t : State, exec (.qctlWrite q v) s = .next t ∧ ((∀ r, r ≠ q → t.queue r = s.queue r) ∧ t.mem = s.mem ∧
      ((s.queue q).en = false →
        let x := { s.queue q with prio := v.extractLsb' 1 3, log2n := v.extractLsb' 4 4 }
        t.queue q = if v.getLsbD 0 = false then x else if x.fits = false ∨ x.cpl = 0 then { x with cfgrej := true }
          else { x with en := true, head := 0, tail := 0, phase := true, cplIdx := 0 }) ∧
      ((s.queue q).en → (t.queue q).prio = (s.queue q).prio ∧ (t.queue q).log2n = (s.queue q).log2n ∧
        ((t.queue q).cfgrej ↔ (s.queue q).cfgrej ∨ v.extractLsb' 1 3 ≠ (s.queue q).prio ∨ v.extractLsb' 4 4 ≠ (s.queue q).log2n) ∧
        (t.queue q).en = (v.getLsbD 0 || (s.queue q).cmd.isSome) ∧
        ((t.queue q).disabling ↔ (s.queue q).disabling ∨ v.getLsbD 0 = false ∧ (s.queue q).cmd.isSome))))) ∧
  (∀ s : State, s.unit < 64 → (∃ t : State, exec .qstatHaltedResume s = .next t ∧ ((∀ r, r ≠ s.unit → t.queue r = s.queue r) ∧ t.mem = s.mem ∧
    (t.queue s.unit).halted = false ∧ (t.queue s.unit).tail = (s.queue s.unit).tail ∧ (t.queue s.unit).head = (s.queue s.unit).head)))

/-- In PS0, with no start in progress, QUEUE_SELECT begins the command of a queue that is enabled, not halted and has an
entry to read, with the highest effective priority, the next after the one served last among equals; it reads the
entry, and QHEAD goes on by one. An OP that is not listed completes with 0x10, a reserved bit or operand with 0x11,
and another entry's row follows. With no such queue nothing begins. -/
def Obligations.QueueSelection : Prop :=
  (∀ (q : Nat) (s : State), s.trust.ps = 0 → s.trust.start = 0 → q < 64 → s.entryReady q → (s.queue q).halted = false →
    (∀ r, r < 64 → r ≠ q → s.entryReady r → (s.queue r).halted = false → s.queuePrio r < s.queuePrio q ∨
      s.queuePrio r = s.queuePrio q ∧ (q + 127 - s.lastServed % 64) % 64 < (r + 127 - s.lastServed % 64) % 64) →
    exec .queueSelect s = .next ((s.takeEntry q).again 0 .queueSelect)) ∧
  (∀ s : State, (∀ r, r < 64 → s.entryReady r → (s.queue r).halted) → exec .queueSelect s = .next s) ∧
  (∀ (q : Nat) (s : State), let x := s.queue q
    let b := s.entryAt x
    let head := BitVec.ofNat 15 ((x.head.toNat + 1) % 2 ^ max 6 x.log2n.toNat)
    let c : Command := { op := b.getD 0 0, flags := b.getD 1 0, cid := BitVec.ofNat 16 (field b 2 2), ctx := BitVec.ofNat 16 (field b 4 2), bytes := b }
    let s1 := { s with lastServed := q }.onQueue q fun x => { x with head, readyAt := none, cmd := some c }
    (operandsOf c.op.toNat = none → s.takeEntry q = s1.fails q 0x10) ∧
    (∀ used, operandsOf c.op.toNat = some used → entryBad b used ∨ commandRow b = none → s.takeEntry q = s1.fails q 0x11) ∧
    (∀ used row, operandsOf c.op.toNat = some used → entryBad b used = false → commandRow b = some row →
      s.takeEntry q = s1.later q row))

/-- FLIT_RECEIVE on a link that is up: a flit whose check fails counts and asks for a replay, and the 17th in 1 µs within
the package begins a remap; a null flit only acknowledges; the next sequenced flit is taken, and the others are
dropped when old, and when ahead ask for a replay but for those that follow the first of a run one by one. A packet
whose last flit is taken arrives whole. NAK resends in order every flit from the LSEQ it names. ASEQ_REPORT sends a
null flit that carries the last LSEQ received. FLIT_TRANSMIT of a link that is up sends one flit with a good check,
whose ASEQ is the last LSEQ received, over the lit lanes: first the next flit of a replay, unchanged but for ASEQ;
else the next flit that waits, with the next LSEQ, kept in the replay buffer; else the first flit of the next packet;
else, or with the replay buffer full, a null flit, which takes no LSEQ. Time stamps of timing packets are put in as
they leave. In a remap only control flits go, on the lowest lane, and in a fast switch flits take the new lanes from
the LSEQ that was named; a dark link sends only laser requests and answers (the model's own choice, assumption 48).
Byte k of a flit goes on lane k mod n of its n lanes, in beat k / n. -/
def Obligations.FlitReceptionAndTransmission : Prop :=
  ((∀ (i : Nat) (d : Nat) (f : Flit) (s : State), (.flitReceive i d f : Instr).problem = none → (s.link i d).state = .active ∨ (s.link i d).state = .remap → 
    (∃ t : State, exec (.flitReceive i d f) s = .next t ∧ ((∀ y, y ≠ i → t.die y = s.die y) ∧ t.mem = s.mem))) ∧
  (∀ (i : Nat) (d : Nat) (f : Flit) (s : State), (.flitReceive i d f : Instr).problem = none → (s.link i d).state = .active ∨ (s.link i d).state = .remap → flitGood f = false → (4 ≤ d ∨ ((s.link i d).crcTimes.filter fun u => s.ftc i < u + 1000).length < 16) → 
    (∃ t : State, exec (.flitReceive i d f) s = .next t ∧ (t.agenda = s.agenda ∧ (t.link i d).flitQ = (s.link i d).flitQ ++ [{ ch := 5, payload := controlPayload 1 (toLE 2 (s.link i d).rxSeq.toNat) }] ∧
      (t.link i d).crcerr = min ((s.link i d).crcerr + 1) 65535 ∧ (t.link i d).replays = min ((s.link i d).replays + 1) 65535 ∧ (t.link i d).rxSeq = (s.link i d).rxSeq ∧ (t.link i d).state = (s.link i d).state ∧
      (t.link i d).replay = (s.link i d).replay ∧ (t.link i d).asm = (s.link i d).asm))) ∧
  (∀ (i : Nat) (d : Nat) (f : Flit) (s : State), (.flitReceive i d f : Instr).problem = none → (s.link i d).state = .active → flitGood f = false → d < 4 → 16 ≤ ((s.link i d).crcTimes.filter fun u => s.ftc i < u + 1000).length → (s.link i d).remapping = none → (s.link i d).needed ≤ lanesIn ((s.link i d).rxmap &&& ~~~(s.link i d).failing) → (s.link i d).txmap ≠ 0 → 
    (∃ t : State, exec (.flitReceive i d f) s = .next t ∧ ((t.link i d).state = .remap ∧ (t.link i d).crcTimes = [] ∧
      ∃ q, (t.link i d).remapping = some q ∧ q.mine = (s.link i d).rxmap &&& ~~~(s.link i d).failing ∧ q.fast = false))) ∧
  (∀ (i : Nat) (d : Nat) (f : Flit) (s : State), (.flitReceive i d f : Instr).problem = none → (s.link i d).state = .active ∨ (s.link i d).state = .remap → flitGood f → f.ch = 7 → 
    (∃ t : State, exec (.flitReceive i d f) s = .next t ∧ ((t.link i d) = { (if f.av then (s.link i d).acked f.aseq else s.link i d) with unreported := (s.link i d).unreported + 1 } ∧
      ((s.link i d).unreported < 63 → t.agenda = s.agenda) ∧ (63 ≤ (s.link i d).unreported → { unit := i, instr := .aseqReport i d } ∈ t.agenda)))) ∧
  (∀ (i : Nat) (d : Nat) (f : Flit) (s : State), (.flitReceive i d f : Instr).problem = none → (s.link i d).state = .active ∨ (s.link i d).state = .remap → flitGood f → f.ch ≠ 7 → f.lseq ≠ (s.link i d).rxSeq → 
    (∃ t : State, exec (.flitReceive i d f) s = .next t ∧ (((s.link i d).unreported < 63 → t.agenda = s.agenda) ∧
      (t.link i d) = if lseqBehind (s.link i d).rxSeq f.lseq ≤ 4096 then { (if f.av then (s.link i d).acked f.aseq else s.link i d) with unreported := (s.link i d).unreported + 1 } else ({ (if f.av then (s.link i d).acked f.aseq else s.link i d) with unreported := (s.link i d).unreported + 1 } : Link).gap f.lseq))) ∧
  (∀ (l : Link) (q : BitVec 13), (l.gap q).rxSeq = l.rxSeq ∧ (l.gap q).flitQ =
    if l.gapRun.map (· + 1) = some q then l.flitQ else l.flitQ ++ [{ ch := 5, payload := controlPayload 1 (toLE 2 l.rxSeq.toNat) }]) ∧
  (∀ (i : Nat) (d : Nat) (f : Flit) (s : State), (.flitReceive i d f : Instr).problem = none → (s.link i d).state = .active ∨ (s.link i d).state = .remap → flitGood f → f.ch.toNat < 5 → f.lseq = (s.link i d).rxSeq → (s.link i d).remapping = none → f.eop = false → (s.link i d).unreported < 63 → 
    (∃ t : State, exec (.flitReceive i d f) s = .next t ∧ (t.agenda = s.agenda ∧
      (t.link i d).rxSeq = f.lseq + 1 ∧ (t.link i d).rxAny ∧ (t.link i d).gapRun = none ∧
      (t.link i d).asm.get [] f.ch.toNat = (if f.sop then [] else (s.link i d).asm.get [] f.ch.toNat) ++ [f.payload]))) ∧
  (∀ (i : Nat) (d : Nat) (f : Flit) (p : Packet) (e : Instr) (s : State), (.flitReceive i d f : Instr).problem = none → (s.link i d).state = .active ∨ (s.link i d).state = .remap → flitGood f → f.ch.toNat < 5 → f.lseq = (s.link i d).rxSeq → (s.link i d).remapping = none → f.eop → (s.link i d).unreported < 63 → packetOfImage ((if f.sop then [] else (s.link i d).asm.get [] f.ch.toNat) ++ [f.payload]).flatten = some p → typeFits p.type f.ch → p.dstep = 0 → p.dst.toNat = s.nid i → deliveryOf i f.ch p = some e → 
    (∃ t : State, exec (.flitReceive i d f) s = .next t ∧ (t.agenda = s.agenda ++ [{ unit := i, instr := e }] ∧ (t.link i d).rxSeq = f.lseq + 1 ∧ (t.link i d).asm.get? f.ch.toNat = none))) ∧
  (∀ (i : Nat) (d : Nat) (f : Flit) (e : Instr) (s : State), (.flitReceive i d f : Instr).problem = none → (s.link i d).state = .active ∨ (s.link i d).state = .remap → flitGood f → f.ch = 5 → f.lseq = (s.link i d).rxSeq → (s.link i d).remapping = none → (s.link i d).unreported < 63 → controlEvent i d f.payload = some e → 
    (∃ t : State, exec (.flitReceive i d f) s = .next t ∧ (t.agenda = s.agenda ++ [{ unit := i, instr := e }] ∧ (t.link i d).rxSeq = f.lseq + 1))) ∧
  (∀ (i : Nat) (d : Nat) (lseq : BitVec 13) (s : State), (.nak i d lseq : Instr).problem = none → (s.link i d).remapping = none → 
    (∃ t : State, exec (.nak i d lseq) s = .next t ∧ (t = { s with dies := t.dies } ∧ (t.link i d).resend = (t.link i d).replay ∧ (t.link i d).txSeq = (s.link i d).txSeq ∧
      (t.link i d).replay = (s.link i d).replay.filter fun f => decide (4096 ≤ lseqBehind (lseq - 1) f.lseq)))) ∧
  (∀ (i : Nat) (d : Nat) (lseq : BitVec 13) (r : Remap) (s : State), (.nak i d lseq : Instr).problem = none → (s.link i d).remapping = some r → r.fast = false → r.acked → r.theirs.isSome → 
    (∃ t : State, exec (.nak i d lseq) s = .next t ∧ (
      (r.trained = false → (t.link i d).state = (s.link i d).state ∧ (t.link i d).resend = (t.link i d).replay ∧ (t.link i d).remapping = some { r with naked := true }) ∧
      (r.trained → (t.link i d).state = .active ∧ (t.link i d).remapping = none ∧ (t.link i d).remaps = min ((s.link i d).remaps + 1) 65535)))) ∧
  (∀ (i : Nat) (d : Nat) (s : State), (.aseqReport i d : Instr).problem = none → (s.link i d).state = .active ∨ (s.link i d).state = .remap → d < 4 → 
    (∃ t : State, exec (.aseqReport i d) s = .next t ∧ (∃ f, flitGood f ∧ f.ch = 7 ∧ f.av = (s.link i d).rxAny ∧ (f.av → f.aseq = (s.link i d).rxSeq - 1) ∧
      f.payload = List.replicate 56 0 ∧ t.agenda = s.agenda ++ [{ unit := 0, instr := .flitReceive (i ^^^ 2 ^ d) d f }] ∧
      (t.link i d) = { s.link i d with wire := stripe ((s.link i d).sendMask f.lseq) (flitBody f ++ toLE 4 f.check.toNat), unreported := 0 })))) ∧
  ((∀ (i : Nat) (d : Nat) (f : Flit) (r : List Flit) (s : State), (.flitTransmit i d : Instr).problem = none → (s.link i d).state = .active ∨ (s.link i d).state = .remap → (s.link i d).resend = f :: r → 
    (∃ t : State, exec (.flitTransmit i d) s = .next t ∧ (∃ g, flitGood g ∧ (d < 4 → t.agenda = s.agenda ++ [{ unit := 0, instr := .flitReceive (i ^^^ 2 ^ d) d g }]) ∧
      g.av = (s.link i d).rxAny ∧ (g.av → g.aseq = (s.link i d).rxSeq - 1) ∧ (t.link i d).wire = stripe ((s.link i d).sendMask g.lseq) (flitBody g ++ toLE 4 g.check.toNat) ∧ 
      g = { f with aseq := g.aseq, av := g.av, check := g.check } ∧ (t.link i d).resend = r ∧ (t.link i d).replay = (s.link i d).replay ∧ (t.link i d).txSeq = (s.link i d).txSeq))) ∧
  (∀ (i : Nat) (d : Nat) (o : OutFlit) (r : List OutFlit) (s : State), (.flitTransmit i d : Instr).problem = none → (s.link i d).state = .active → (s.link i d).remapping = none → (s.link i d).resend = [] → (s.link i d).flitQ = o :: r → (s.link i d).replay.length < 4096 → (o.ch ≠ 5 ∨ (s.link i d).pktQ = []) → 
    (∃ t : State, exec (.flitTransmit i d) s = .next t ∧ (∃ g, flitGood g ∧ (d < 4 → t.agenda = s.agenda ++ [{ unit := 0, instr := .flitReceive (i ^^^ 2 ^ d) d g }]) ∧
      g.av = (s.link i d).rxAny ∧ (g.av → g.aseq = (s.link i d).rxSeq - 1) ∧ (t.link i d).wire = stripe ((s.link i d).sendMask g.lseq) (flitBody g ++ toLE 4 g.check.toNat) ∧ 
      g.lseq = (s.link i d).txSeq ∧ (t.link i d).txSeq = (s.link i d).txSeq + 1 ∧
      (t.link i d).replay = (s.link i d).replay ++ [g] ∧ (t.link i d).flitQ = r ∧ (t.link i d).pktQ = (s.link i d).pktQ ∧ g.ch = o.ch ∧ g.sop = o.sop ∧ g.eop = o.eop ∧
      g.payload = (o.stamped (s.die i).fab.stamp).payload))) ∧
  (∀ (i : Nat) (d : Nat) (o : OutFlit) (r : List OutFlit) (s : State), (.flitTransmit i d : Instr).problem = none → (s.link i d).state = .active → (s.link i d).remapping = none → (s.link i d).resend = [] → (s.link i d).flitQ = o :: r → 4096 ≤ (s.link i d).replay.length → (o.ch ≠ 5 ∨ (s.link i d).pktQ = []) → 
    (∃ t : State, exec (.flitTransmit i d) s = .next t ∧ (∃ g, flitGood g ∧ (d < 4 → t.agenda = s.agenda ++ [{ unit := 0, instr := .flitReceive (i ^^^ 2 ^ d) d g }]) ∧
      g.av = (s.link i d).rxAny ∧ (g.av → g.aseq = (s.link i d).rxSeq - 1) ∧ (t.link i d).wire = stripe ((s.link i d).sendMask g.lseq) (flitBody g ++ toLE 4 g.check.toNat) ∧ 
      g.ch = 7 ∧ (t.link i d).flitQ = (s.link i d).flitQ ∧ (t.link i d).replay = (s.link i d).replay ∧ (t.link i d).txSeq = (s.link i d).txSeq))) ∧
  (∀ (o : OutFlit) (stamp : List Byte), stamp.length = 10 → o.payload.length = 56 →
    o.stamped stamp = { o with payload := (o.stamped stamp).payload } ∧ ∀ k, (o.stamped stamp).payload.getD k 0 =
      if o.ch = 2 ∧ o.sop ∧ o.payload.getD 4 0 = 0x16 ∧ 16 ≤ k ∧ k < 26 then stamp.getD (k - 16) 0
      else if o.ch = 2 ∧ o.sop ∧ o.payload.getD 4 0 = 0x17 ∧ 26 ≤ k ∧ k < 36 then stamp.getD (k - 26) 0 else o.payload.getD k 0) ∧
  (∀ (i : Nat) (d : Nat) (o : OutPkt) (r : List OutPkt) (x : OutFlit) (xs : List OutFlit) (s : State), (.flitTransmit i d : Instr).problem = none → (s.link i d).state = .active → (s.link i d).remapping = none → (s.link i d).resend = [] → (s.link i d).flitQ = [] → (s.link i d).pktQ = o :: r → flitsOf o = x :: xs → (s.link i d).replay.length < 4096 → 
    (∃ t : State, exec (.flitTransmit i d) s = .next t ∧ (∃ g, flitGood g ∧ (d < 4 → t.agenda = s.agenda ++ [{ unit := 0, instr := .flitReceive (i ^^^ 2 ^ d) d g }]) ∧
      g.av = (s.link i d).rxAny ∧ (g.av → g.aseq = (s.link i d).rxSeq - 1) ∧ (t.link i d).wire = stripe ((s.link i d).sendMask g.lseq) (flitBody g ++ toLE 4 g.check.toNat) ∧ 
      g.lseq = (s.link i d).txSeq ∧ (t.link i d).txSeq = (s.link i d).txSeq + 1 ∧
      (t.link i d).replay = (s.link i d).replay ++ [g] ∧ (t.link i d).flitQ = xs ∧ (t.link i d).pktQ = r ∧ g.ch = o.ch ∧ g.sop ∧ g.payload = (x.stamped (s.die i).fab.stamp).payload))) ∧
  (∀ (i : Nat) (d : Nat) (s : State), (.flitTransmit i d : Instr).problem = none → (s.link i d).state = .active → (s.link i d).remapping = none → (s.link i d).resend = [] → (s.link i d).flitQ = [] → (s.link i d).pktQ = [] → 
    (∃ t : State, exec (.flitTransmit i d) s = .next t ∧ (∃ g, flitGood g ∧ (d < 4 → t.agenda = s.agenda ++ [{ unit := 0, instr := .flitReceive (i ^^^ 2 ^ d) d g }]) ∧
      g.av = (s.link i d).rxAny ∧ (g.av → g.aseq = (s.link i d).rxSeq - 1) ∧ (t.link i d).wire = stripe ((s.link i d).sendMask g.lseq) (flitBody g ++ toLE 4 g.check.toNat) ∧ 
      g.ch = 7 ∧ g.payload = List.replicate 56 0 ∧ (t.link i d) = { s.link i d with wire := (t.link i d).wire, unreported := 0 }))) ∧
  (∀ (i : Nat) (d : Nat) (o : OutFlit) (s : State), (.flitTransmit i d : Instr).problem = none → (s.link i d).state = .remap → (s.link i d).resend = [] → ((s.link i d).flitQ.find? fun f => f.ch == 5) = some o → (s.link i d).replay.length < 4096 → (∀ q, (s.link i d).remapping = some q → q.fast = false) → 
    (∃ t : State, exec (.flitTransmit i d) s = .next t ∧ (∃ g, flitGood g ∧ (d < 4 → t.agenda = s.agenda ++ [{ unit := 0, instr := .flitReceive (i ^^^ 2 ^ d) d g }]) ∧
      g.av = (s.link i d).rxAny ∧ (g.av → g.aseq = (s.link i d).rxSeq - 1) ∧ (t.link i d).wire = stripe ((s.link i d).sendMask g.lseq) (flitBody g ++ toLE 4 g.check.toNat) ∧ 
      g.lseq = (s.link i d).txSeq ∧ (t.link i d).txSeq = (s.link i d).txSeq + 1 ∧
      (t.link i d).replay = (s.link i d).replay ++ [g] ∧ (t.link i d).flitQ = (s.link i d).flitQ.erase o ∧ (t.link i d).pktQ = (s.link i d).pktQ ∧ g.ch = 5 ∧ g.payload = o.payload))) ∧
  (∀ (i : Nat) (d : Nat) (o : OutFlit) (s : State), (.flitTransmit i d : Instr).problem = none → (s.link i d).state = .off → (s.link i d).flitQ.find? OutFlit.laser = some o → (s.link i d).replay.length < 4096 → (s.link i d).remapping = none → 
    (∃ t : State, exec (.flitTransmit i d) s = .next t ∧ (∃ g, flitGood g ∧ (d < 4 → t.agenda = s.agenda ++ [{ unit := 0, instr := .flitReceive (i ^^^ 2 ^ d) d g }]) ∧
      g.av = (s.link i d).rxAny ∧ (g.av → g.aseq = (s.link i d).rxSeq - 1) ∧ (t.link i d).wire = stripe ((s.link i d).sendMask g.lseq) (flitBody g ++ toLE 4 g.check.toNat) ∧ 
      g.lseq = (s.link i d).txSeq ∧ (t.link i d).txSeq = (s.link i d).txSeq + 1 ∧
      (t.link i d).replay = (s.link i d).replay ++ [g] ∧ (t.link i d).flitQ = (s.link i d).flitQ.erase o ∧ (t.link i d).pktQ = (s.link i d).pktQ ∧ g.ch = 5 ∧ g.payload = o.payload))) ∧
  (∀ (i : Nat) (d : Nat) (s : State), (.flitTransmit i d : Instr).problem = none → ((s.link i d).state = .train ∨ (s.link i d).state = .dead) → 
    (∃ t : State, exec (.flitTransmit i d) s = .next t ∧ (t = s))) ∧
  (∀ (m : BitVec 16) (bs : List Byte) (k : Nat), let w := (List.range 16).filter fun l => m.getLsbD l
    w ≠ [] → bs.length = 64 → k < 64 → (stripe m bs).length = beatsOf w.length ∧
      ∃ beat, (stripe m bs)[k / w.length]? = some beat ∧ beat[k % w.length]? = some (w.getD (k % w.length) 0, bs.getD k 0)) ∧
  (∀ (l : Link) (q : BitVec 13), (l.state = .remap → l.sendMask q = lowestLanes l.txmap 1) ∧
    (l.state = .active → l.remapping = none → l.sendMask q = litLanes l.txmap l.ls) ∧
    (∀ (r : Remap) (m : BitVec 16) (p : BitVec 13), l.state = .active → l.remapping = some r → r.fast → r.theirs = some m → r.txFrom = some p →
      l.sendMask q = if (q - p).toNat < 4096 then m else litLanes l.txmap l.ls)))

/-- LINK_TRAINING_COMPLETE leaves a training link ACTIVE with the lanes that pass, within the kept maps where they are
offered, or DEAD where one direction has fewer than MINW. In a remap, MAPPROP takes the far end's mask and answers, a
copy of it changes nothing and another mask restarts the sequence, MAPACK notes the answer to this end's, and
REMAP_RETRAIN_COMPLETE takes both masks and asks for the replay, with which the far end's NAK ends it ACTIVE, restarts
it with the receive lanes left, or after three restarts leaves the link DEAD. A lit receive lane that fails starts a
remap, an unlit one only leaves its set. LCTL.ENABLE trains a link or takes it down, and LCTL.REMAP starts a remap of
an ACTIVE link; that it is refused on any other is the model's own reading (assumption 48). -/
def Obligations.TrainingAndRemap : Prop :=
  (∀ (i : Nat) (d : Nat) (tx : BitVec 16) (rx : BitVec 16) (s : State), (.linkTrainingComplete i d tx rx : Instr).problem = none → (s.link i d).state = .train → 
    (∃ t : State, exec (.linkTrainingComplete i d tx rx) s = .next t ∧ (
      if (s.link i d).needed ≤ lanesIn (if (s.link i d).keepMaps ∧ (s.link i d).txmap ≠ 0 then tx &&& (s.link i d).txmap else tx) ∧ (s.link i d).needed ≤ lanesIn (if (s.link i d).keepMaps ∧ (s.link i d).rxmap ≠ 0 then rx &&& (s.link i d).rxmap else rx) then
        (t.link i d).state = .active ∧ (t.link i d).txmap = (if (s.link i d).keepMaps ∧ (s.link i d).txmap ≠ 0 then tx &&& (s.link i d).txmap else tx) ∧ (t.link i d).rxmap = (if (s.link i d).keepMaps ∧ (s.link i d).rxmap ≠ 0 then rx &&& (s.link i d).rxmap else rx) ∧ (t.link i d).ls = 0
      else (t.link i d).state = .dead ∧ (t.link i d).deadev))) ∧
  (∀ (i : Nat) (d : Nat) (mask : BitVec 16) (reason : Byte) (r : Remap) (s : State), (.mapprop i d mask reason : Instr).problem = none → (s.link i d).state = .remap → (s.link i d).remapping = some r → r.fast = false → r.theirs = none → (s.link i d).needed ≤ lanesIn mask → 
    (∃ t : State, exec (.mapprop i d mask reason) s = .next t ∧ (t = { s with dies := t.dies } ∧
      let next := (s.link i d).txSeq + BitVec.ofNat 13 (((s.link i d).flitQ.filter fun f => f.ch == 5).length + 1)
      (t.link i d) = { (s.link i d).control 3 (toLE 2 mask.toNat ++ toLE 2 next.toNat) with remapping := some { r with theirs := some mask, txFrom := some next } }))) ∧
  (∀ (i : Nat) (d : Nat) (mask : BitVec 16) (reason : Byte) (r : Remap) (s : State), (.mapprop i d mask reason : Instr).problem = none → (s.link i d).state = .active ∨ (s.link i d).state = .remap → (s.link i d).remapping = some r → r.theirs = some mask → 
    (∃ t : State, exec (.mapprop i d mask reason) s = .next t ∧ (t = s))) ∧
  (∀ (i : Nat) (d : Nat) (mask : BitVec 16) (reason : Byte) (r : Remap) (m : BitVec 16) (s : State), (.mapprop i d mask reason : Instr).problem = none → (s.link i d).state = .remap → (s.link i d).remapping = some r → r.fast = false → r.theirs = some m → m ≠ mask → (s.link i d).restarts < 3 → (s.link i d).needed ≤ lanesIn r.mine → (s.link i d).txmap ≠ 0 → (s.link i d).needed ≤ lanesIn mask → 
    (∃ t : State, exec (.mapprop i d mask reason) s = .next t ∧ ((t.link i d).state = .remap ∧ (t.link i d).restarts = (s.link i d).restarts + 1 ∧
      ∃ q, (t.link i d).remapping = some q ∧ q.mine = r.mine ∧ q.theirs = some mask ∧ q.acked = false))) ∧
  (∀ (i : Nat) (d : Nat) (mask : BitVec 16) (reason : Byte) (r : Remap) (s : State), (.mapprop i d mask reason : Instr).problem = none → (s.link i d).state = .remap → (s.link i d).remapping = some r → r.fast = false → r.theirs = none → lanesIn mask < (s.link i d).needed → 
    (∃ t : State, exec (.mapprop i d mask reason) s = .next t ∧ ((t.link i d).state = .dead))) ∧
  (∀ (i : Nat) (d : Nat) (mask : BitVec 16) (lseq : BitVec 13) (r : Remap) (s : State), (.mapack i d mask lseq : Instr).problem = none → (s.link i d).remapping = some r → r.fast = false → 
    (∃ t : State, exec (.mapack i d mask lseq) s = .next t ∧ (t = { s with dies := t.dies } ∧
      (t.link i d) = { s.link i d with remapping := some (if r.mine = mask then { r with acked := true, rxFrom := some lseq } else r) }))) ∧
  (∀ (i : Nat) (d : Nat) (tx : BitVec 16) (rx : BitVec 16) (r : Remap) (m : BitVec 16) (s : State), (.remapRetrainComplete i d tx rx : Instr).problem = none → (s.link i d).remapping = some r → r.fast = false → r.acked → r.theirs = some m → r.trained = false → 
    (∃ t : State, exec (.remapRetrainComplete i d tx rx) s = .next t ∧ (
      (r.mine &&& ~~~rx = 0 → m &&& ~~~tx = 0 → r.ls ≠ some 3 → r.naked = false → (t.link i d).state = (s.link i d).state ∧ (t.link i d).txmap = m ∧ (t.link i d).rxmap = r.mine ∧
        (t.link i d).remapping = some { r with trained := true } ∧ (t.link i d).flitQ = (s.link i d).flitQ ++ [{ ch := 5, payload := controlPayload 1 (toLE 2 (s.link i d).rxSeq.toNat) }]) ∧
      (r.mine &&& ~~~rx = 0 → m &&& ~~~tx = 0 → r.ls ≠ some 3 → r.naked → (t.link i d).state = .active ∧ (t.link i d).txmap = m ∧ (t.link i d).rxmap = r.mine ∧
        (t.link i d).remaps = min ((s.link i d).remaps + 1) 65535) ∧
      (r.mine &&& ~~~rx = 0 → m &&& ~~~tx = 0 → r.ls = some 3 → (t.link i d).state = .off ∧ (t.link i d).ls = 3 ∧ (t.link i d).remaps = min ((s.link i d).remaps + 1) 65535) ∧
      (r.mine &&& ~~~rx ≠ 0 → 3 ≤ (s.link i d).restarts → (t.link i d).state = .dead) ∧
      (r.mine &&& ~~~rx = 0 → m &&& ~~~tx ≠ 0 → (t.link i d).state = (s.link i d).state ∧ (t.link i d).remapping = some r) ∧
      (r.mine &&& ~~~rx ≠ 0 → (s.link i d).restarts < 3 → (s.link i d).needed ≤ lanesIn (r.mine &&& rx) → (s.link i d).txmap ≠ 0 →
        (t.link i d).state = .remap ∧ (t.link i d).restarts = (s.link i d).restarts + 1 ∧ ∃ q, (t.link i d).remapping = some q ∧ q.mine = r.mine &&& rx ∧ q.fast = false)))) ∧
  (∀ (i : Nat) (d : Nat) (lane : Nat) (rx : Bool) (s : State), (.laneFailing i d lane rx : Instr).problem = none → rx → (s.link i d).state = .active → (s.link i d).remapping = none → 
    (∃ t : State, exec (.laneFailing i d lane rx) s = .next t ∧ (
      ((t.link i d).lanes.get {} lane).fail ∧
      ((s.link i d).rxmap.getLsbD lane → (litLanes (s.link i d).rxmap (s.link i d).ls).getLsbD lane = false →
        (t.link i d).state = .active ∧ (t.link i d).rxmap = (s.link i d).rxmap &&& ~~~BitVec.ofNat 16 (2 ^ lane)) ∧
      ((litLanes (s.link i d).rxmap (s.link i d).ls).getLsbD lane → (s.link i d).rxmap.getLsbD lane →
        (s.link i d).rxmap ≠ BitVec.ofNat 16 (2 ^ lane) → (s.link i d).needed ≤ lanesIn ((s.link i d).rxmap &&& ~~~BitVec.ofNat 16 (2 ^ lane)) → (s.link i d).txmap ≠ 0 →
        (t.link i d).state = .remap ∧ (t.link i d).restarts = 0 ∧ ∃ q, (t.link i d).remapping = some q ∧ q.mine = (s.link i d).rxmap &&& ~~~BitVec.ofNat 16 (2 ^ lane))))) ∧
  (∀ (i : Nat) (d : Nat) (lane : Nat) (rx : Bool) (s : State), (.laneFailing i d lane rx : Instr).problem = none → rx = false → 
    (∃ t : State, exec (.laneFailing i d lane rx) s = .next t ∧ (t = { s with dies := t.dies } ∧
      (t.link i d) = if (litLanes (s.link i d).txmap (s.link i d).ls).getLsbD lane then s.link i d else { s.link i d with txmap := (s.link i d).txmap &&& ~~~BitVec.ofNat 16 (2 ^ lane) }))) ∧
  (∀ (i : Nat) (d : Nat) (en : Bool) (s : State), (.lctlEnable i d en : Instr).problem = none → 
    (∃ t : State, exec (.lctlEnable i d en) s = .next t ∧ ((t.link i d).enable = en ∧ t.mem = s.mem ∧
      (en → (t.link i d).state = if (s.link i d).enable then (s.link i d).state else .train) ∧
      (en = false → (t.link i d).state = (if (s.link i d).state = .dead then .dead else .down) ∧ (t.link i d).remapping = none ∧ (t.link i d).ramp = none ∧ (t.link i d).lighting = false)))) ∧
  (∀ (i : Nat) (d : Nat) (s : State), (.lctlRemap i d : Instr).problem = none → 
    (∃ t : State, exec (.lctlRemap i d) s = .next t ∧ (((s.link i d).state ≠ .active ∨ (s.link i d).remapping.isSome → (t.link i d) = { s.link i d with maprej := true }) ∧
      ((s.link i d).state = .active → (s.link i d).remapping = none → (s.link i d).needed ≤ lanesIn ((s.link i d).propose &&& ~~~(s.link i d).failing) → (s.link i d).txmap ≠ 0 →
        (t.link i d).state = .remap ∧ ∃ q, (t.link i d).remapping = some q ∧ q.mine = (s.link i d).propose &&& ~~~(s.link i d).failing ∧ q.reason = 1))))

/-- LSREQ on an optical link is answered by LSACK, rejected in PS2 and PS3 and where this end refuses the state, else with
the lower of the states asked for, and the change begins, for LS3 asked for by both with both answers (the model's
reading, assumption 48); LSACK begins this end's change or sets LSREJ. LCTL.LSSET asks the far end, or holds the
request during a remap or a change, or wakes a link that is OFF; a request not answered for 1 ms sets LSREJ. A step up
of a lit link lights its lasers and a step down begins the switch at once. LASER_RAMP_COMPLETE goes on to the remap
that closes a step up. LIGHTING_SLOT lights one link at a time, 20 µs apart, the lowest first and no more than LRAMP
allows. POLICY_WINDOW reports the counts of the window and begins anew. LPOL takes only a value whose thresholds are
ordered. That a link in LS3 lights to LS0, whichever state was agreed, is the model's own choice (assumption 48). -/
def Obligations.LaserStates : Prop :=
  (∀ (i : Nat) (d : Nat) (ls : BitVec 2) (s : State), (.lsreq i d ls : Instr).problem = none → 7 ≤ d → 
    (∃ t : State, exec (.lsreq i d ls) s = .next t ∧ (
      (2 ≤ s.trust.ps → t = { s with dies := t.dies } ∧ (t.link i d) = (s.link i d).control 5 [ls.setWidth 8, 1]) ∧
      (s.trust.ps < 2 → (s.link i d).state = .remap ∨ (s.link i d).lsbusy ∧ (s.link i d).lsReq = none → t = { s with agenda := s.agenda ++ [{ unit := i, instr := .lsreq i d ls }] }) ∧
      (s.trust.ps < 2 → (s.link i d).state = .active ∨ (s.link i d).state = .off → (s.link i d).lsbusy = false ∨ (s.link i d).lsReq.isSome →
        let agreed : Nat := ((s.link i d).lsReq.map fun r => min r.1 ls.toNat).getD ls.toNat
        (s.refusesLs i d agreed → t = { s with dies := t.dies } ∧ (t.link i d) = if (s.link i d).lsReq.isSome
          then { (s.link i d).control 5 [ls.setWidth 8, 1] with lsrej := true, lsReq := none, lsbusy := false } else (s.link i d).control 5 [ls.setWidth 8, 1]) ∧
        (s.refusesLs i d agreed = false → agreed = 3 → (s.link i d).lsReq.isSome → t = { s with dies := t.dies } ∧ (t.link i d) = (s.link i d).control 5 [3, 0]) ∧
        (s.refusesLs i d agreed = false → agreed ≠ 3 ∨ (s.link i d).lsReq = none →
          t = (s.onLink i d fun l => { l.control 5 [BitVec.ofNat 8 agreed, 0] with lsReq := none }).beginChange i d agreed))))) ∧
  (∀ (i : Nat) (d : Nat) (ls : BitVec 2) (rejected : Bool) (s : State), (.lsack i d ls rejected : Instr).problem = none → 7 ≤ d → (s.link i d).lsReq.isSome → 
    (∃ t : State, exec (.lsack i d ls rejected) s = .next t ∧ (
      (rejected → (s.link i d).lsHeld = none → (t.link i d) = { s.link i d with lsrej := true, lsReq := none, lsbusy := false, waking := false }) ∧
      (rejected = false → t = s.beginChange i d ls.toNat)))) ∧
  (∀ (i d ls : Nat) (s : State), let l := s.link i d
    let m := (s.beginChange i d ls).link i d
    (ls = l.ls → l.lsHeld = none → m = { l with lsbusy := false, lsReq := none, upWait := none }) ∧
    (ls ≠ l.ls → l.ls = 3 → m.lsbusy ∧ m.lighting ∧ m.waking ∧ m.lsReq = none ∧ m.upWait = none ∧ m.state = l.state ∧ m.ls = 3) ∧
    (ls < l.ls → l.ls ≠ 3 → s.upsBegun < s.maxUp → m = { l with lsbusy := true, lsReq := none, ramp := some ls, upWait := none }) ∧
    (ls < l.ls → l.ls ≠ 3 → s.maxUp ≤ s.upsBegun → m = { l with lsbusy := true, lsReq := none, upWait := some ls }) ∧
    (l.ls < ls → ls < 3 → m.lsbusy ∧ m.state = l.state ∧
      ∃ q, m.remapping = some q ∧ q.fast ∧ q.mine = litLanes l.rxmap ls ∧ q.ls = some ls ∧ q.reason = 2) ∧
    (l.ls < ls → ls = 3 → l.needed ≤ lanesIn (l.rxmap &&& ~~~l.failing) → l.txmap ≠ 0 → m.state = .remap ∧
      ∃ q, m.remapping = some q ∧ q.fast = false ∧ q.mine = l.rxmap &&& ~~~l.failing ∧ q.ls = some 3 ∧ q.reason = 2) ∧
    s.maxUp = max 1 (min 112 s.lramp.toNat)) ∧
  (∀ (i : Nat) (d : Nat) (ls : BitVec 2) (s : State), (.lctlLsset i d ls : Instr).problem = none → 7 ≤ d → 
    (∃ t : State, exec (.lctlLsset i d ls) s = .next t ∧ (t = { s with dies := t.dies, agenda := t.agenda } ∧ (t.link i d).lsset = ls ∧
      ((s.link i d).state = .active → (s.link i d).lsbusy = false → (t.link i d).lsReq = some (ls.toNat, s.ftc i) ∧ (t.link i d).lsbusy ∧
        (t.link i d).flitQ = (s.link i d).flitQ ++ [{ ch := 5, payload := controlPayload 4 [BitVec.ofNat 8 ls.toNat] }]) ∧
      ((s.link i d).state ≠ .active → (s.link i d).state ≠ .off → (t.link i d).lsHeld = some (ls.toNat, ((s.link i d).lsHeld.map Prod.snd).getD (s.ftc i)) ∧ (t.link i d).flitQ = (s.link i d).flitQ) ∧
      ((s.link i d).state = .active → (s.link i d).lsbusy → (t.link i d).lsHeld = some (ls.toNat, ((s.link i d).lsHeld.map Prod.snd).getD (s.ftc i)) ∧ (t.link i d).flitQ = (s.link i d).flitQ) ∧
      ((s.link i d).state = .off → (s.link i d).waking = false → (s.link i d).lsbusy = false → (t.link i d).waking ∧ (t.link i d).lsReq = some (ls.toNat, s.ftc i) ∧ (t.link i d).pktQ = [])))) ∧
  (∀ (i : Nat) (d : Nat) (s : State), (.lsRequestHoldTimeout i d : Instr).problem = none → 7 ≤ d → 
    (∃ t : State, exec (.lsRequestHoldTimeout i d) s = .next t ∧ ((t.link i d) = if (∃ r, (s.link i d).lsReq = some r ∧ r.2 + 1000000 < s.ftc i) ∨ (∃ r, (s.link i d).lsHeld = some r ∧ r.2 + 1000000 < s.ftc i)
      then { s.link i d with lsrej := true } else s.link i d))) ∧
  (∀ (i : Nat) (d : Nat) (ls : Nat) (s : State), (.laserRampComplete i d : Instr).problem = none → (s.link i d).ramp = some ls → (s.link i d).remapping = none → 
    (∃ t : State, exec (.laserRampComplete i d) s = .next t ∧ (
      t = if (s.link i d).ls = 3 then s.beginRemap i d ((s.link i d).rxmap &&& ~~~(s.link i d).failing) 2 false (some ls)
        else s.beginRemap i d (litLanes (s.link i d).rxmap ls) 2 true (some ls)))) ∧
  (∀ (i d : Nat) (s : State), opticalLinks.find? (fun (d, i) => (s.link i d).lighting) = some (d, i) →
    (∀ u, s.lastLight = some u → u + 20000 ≤ s.ftc 0) → s.upsBegun < s.maxUp →
    (∃ t : State, exec .lightingSlot s = .next t ∧ (t.lastLight = some (s.ftc 0) ∧ t.upsBegun = s.upsBegun + 1 ∧
      (t.link i d) = { s.link i d with lighting := false, ramp := some 0 } ∧
      { unit := i, instr := .laserRampComplete i d } ∈ t.agenda))) ∧
  (∀ s : State, (∃ t : State, exec .policyWindow s = .next t ∧ (t.upsBegun ≤ s.maxUp ∧ t.mem = s.mem ∧
    ∀ i d, i < 16 → d < 14 → (t.link i d).flits = (s.link i d).flitsNow ∧ (t.link i d).qmax = (s.link i d).qmaxNow ∧ (t.link i d).flitsNow = 0))) ∧
  (∀ (i : Nat) (d : Nat) (v : W64) (s : State), (.lpolWrite i d v : Instr).problem = none → 7 ≤ d → 
    (∃ t : State, exec (.lpolWrite i d v) s = .next t ∧ (
      let p (k : Nat) : Nat := (v.extractLsb' (8 * k) 8).toNat
      (t.link i d) = if p 2 ≤ p 1 ∧ p 1 ≤ p 0 ∧ p 0 < p 3 ∧ p 1 < p 4 then { s.link i d with lpol := v &&& 0x3FFFFFFFFFFFF }
        else { s.link i d with polrej := true })))

/-- HEALTH_SAMPLE of a lit lane replaces its readings and accumulates its counts, and makes a lane that passes a threshold
of R37 fail; CLRCNT clears the error and use counts and DIGCLR the digests of its link, FSTAT_CLR the counts of the
node; an announcement sets what the node holds of its neighbour's link; DETOUR takes effect, or waits while a drain is
in progress, and unacknowledged drain markers are sent again after 100 µs. None of them changes memory or another die. -/
def Obligations.LinkRegisterEvents : Prop :=
  (∀ (i : Nat) (d : Nat) (lane : Nat) (h : Health) (s : State), (.healthSample i d lane h : Instr).problem = none → (litLanes (s.link i d).rxmap (s.link i d).ls).getLsbD lane → 
    (∃ t : State, exec (.healthSample i d lane h) s = .next t ∧ (t.mem = s.mem ∧ (∀ y, y ≠ i → t.die y = s.die y) ∧
      let h' : Health := if d < 4 then { h with berm := 0, bere := 0, corr := 0, uncw := 0, codewords := [] } else coded h
      let fails := failsBy d h' (((s.link i d).watch.get {} lane).count h' (s.ftc i))
      let o := (s.link i d).lanes.get {} lane
      let n := (t.link i d).lanes.get {} lane
      n = { h' with fail := o.fail || fails, corr := n.corr, uncw := n.uncw, loss := n.loss } ∧
        n.corr.toNat = min (o.corr.toNat + h'.corr.toNat) (2 ^ 32 - 1) ∧ n.uncw.toNat = min (o.uncw.toNat + h'.uncw.toNat) 65535 ∧
        n.loss.toNat = min (o.loss.toNat + h'.loss.toNat) 65535 ∧ (t.link i d).uncorr = min ((s.link i d).uncorr + h'.uncw.toNat) 65535 ∧
        (∀ k, k ≠ lane → (t.link i d).lanes.get {} k = (s.link i d).lanes.get {} k) ∧
        (fails = false → t = { s with dies := t.dies } ∧ (t.link i d).state = (s.link i d).state ∧ (t.link i d).rxmap = (s.link i d).rxmap)))) ∧
  (∀ (d : Nat) (h : Health) (w : Watch), failsBy d h w ↔ h.fail ∨ h.loss ≠ 0 ∨ 4 ≤ d ∧ 4 ≤ (w.uncw.map Prod.snd).sum ∨ 4 ≤ d ∧ 3 ≤ w.run ∨
    7 ≤ d ∧ h.rxpwr.toInt < -1000) ∧
  (∀ h : Health, coded h = { h with corr := (coded h).corr, uncw := (coded h).uncw, codewords := [] } ∧
    (coded h).corr.toNat = min (2 ^ 32 - 1) (h.codewords.filter fun n => decide (n ≤ 8)).sum ∧
    (coded h).uncw.toNat = min 65535 (h.codewords.filter fun n => decide (8 < n)).length) ∧
  (∀ (i : Nat) (d : Nat) (s : State), (.lctlClrcnt i d : Instr).problem = none → 
    (∃ t : State, exec (.lctlClrcnt i d) s = .next t ∧ (t = { s with dies := t.dies } ∧ (t.link i d) = { s.link i d with
        crcerr := 0, replays := 0, remaps := 0, uncorr := 0, flits := 0, qmax := 0, lanes := (t.link i d).lanes } ∧
      ∀ k h, (s.link i d).lanes.get? k = some h → (t.link i d).lanes.get? k = some { h with corr := 0, uncw := 0, loss := 0 }))) ∧
  (∀ (i : Nat) (d : Nat) (s : State), (.digclr i d : Instr).problem = none → 
    (∃ t : State, exec (.digclr i d) s = .next t ∧ (t = { s with dies := t.dies } ∧ (t.link i d) = { s.link i d with digtx := [], digrx := [] }))) ∧
  (∀ s : State, s.unit < 16 → (∃ t : State, exec .fstatClr s = .next t ∧ ((∀ y, y ≠ s.unit → t.die y = s.die y) ∧
    (t.die s.unit).fab = { (s.die s.unit).fab with dups := 0, detdrop := 0, noreach := 0, badpkt := 0 } ∧ (t.die s.unit).c = (s.die s.unit).c))) ∧
  (∀ (i : Nat) (via : Nat) (dim : Nat) (st : BitVec 3) (ls : BitVec 2) (s : State), (.linkStateAnnouncement i via dim st ls : Instr).problem = none → 
    (∃ t : State, exec (.linkStateAnnouncement i via dim st ls) s = .next t ∧ ((∀ y, y ≠ i → t.die y = s.die y) ∧
      ((t.die i).fab.views.get? (16 * via + dim)).map Prod.snd = some ls.toNat ∧
      (st = 2 → (t.die i).fab.views.get? (16 * via + dim) = some (.active, ls.toNat)) ∧
      (st = 4 → (t.die i).fab.views.get? (16 * via + dim) = some (.dead, ls.toNat)) ∧
      ∀ k, k ≠ 16 * via + dim → (t.die i).fab.views.get? k = (s.die i).fab.views.get? k))) ∧
  (∀ (i : Nat) (d : Nat) (v : W64) (s : State), (.detourWrite i d v : Instr).problem = none → 
    (∃ t : State, exec (.detourWrite i d v) s = .next t ∧ (t.mem = s.mem ∧
      ((s.link i d).draining → t = { s with dies := t.dies } ∧ (t.link i d) = { s.link i d with detourWrites := (s.link i d).detourWrites ++ [v] }) ∧
      ((s.link i d).draining = false → (t.link i d).den = v.getLsbD 4 ∧ ((s.link i d).held = [] → (t.link i d).dfail = ((s.link i d).dfail && !v.getLsbD 7)) ∧
        (t.link i d).ddim = (if v.toNat % 16 = d ∨ 13 < v.toNat % 16 then (s.link i d).ddim else v.extractLsb' 0 4) ∧
        (t.link i d).wrej = ((s.link i d).wrej && !v.getLsbD 8 || decide (v.toNat % 16 = d ∨ 13 < v.toNat % 16)) ∧
        ((s.link i d).dactive → (t.link i d).ddim ≠ (s.link i d).ddim → (t.link i d).draining ∧ (t.link i d).drainOld = (s.link i d).ddim.toNat))))) ∧
  (∀ (i : Nat) (d : Nat) (s : State), (.drainResend i d : Instr).problem = none → (s.link i d).draining → 
    (∃ t : State, exec (.drainResend i d) s = .next t ∧ ((s.ftc i < (s.link i d).drainAt + 100000 → t.dies = s.dies) ∧
      ((s.link i d).drainAt + 100000 ≤ s.ftc i → (t.link i d).drainAt = s.ftc i ∧ (t.link i d).draining ∧
        ((s.link i d).drainOld ≠ d → (s.link i (s.link i d).drainOld).state = .active →
          (t.link i (s.link i d).drainOld).pktQ.length = (s.link i (s.link i d).drainOld).pktQ.length + 3)) ∧
      { unit := i, instr := .drainResend i d } ∈ t.agenda)))

/-- A request whose payload is in range and which its entry accepts is served at the homes of this package: MRD answers
MRDR with the bytes as they stand, POISON if a line is poisoned; MWR changes the bytes its masks admit, marks its
lines poisoned where it carries POISON, and answers MWRR, the lines of a tile group together once its last has come;
MATOM answers the old value, and writes the new one unless the line is poisoned; MSYNC adds a release, ends the
monitors a wake names, or counts a decrement, and answers. A payload out of range is a bad packet, counted, and
changes nothing else. -/
def Obligations.MemoryRequestsServed : Prop :=
  (∀ (die : Nat) (p : Packet) (s : State), (.mrd die p : Instr).problem = none → (s.accept die (requestCh p) p).2 →
    let s1 := (s.accept die (requestCh p) p).1
    let b := p.payload
    let a := field b 0 8
    let n := field b 8 1 + 1
    b.length = 16 → a + n ≤ packageBytes → field b 9 1 ≤ 3 → field b 10 6 = 0 →
    exec (.mrd die p) s = .next (s1.reply die p p.tag 0x10 ((List.range n).map fun k => s.homeByte (a + k))
      ((List.range n).any fun k => s.poisoned (a + k)))) ∧
  (∀ (die : Nat) (p : Packet) (s : State), (.mwr die p : Instr).problem = none → (s.accept die (requestCh p) p).2 →
    let s1 := (s.accept die (requestCh p) p).1
    let b := p.payload
    let n := field b 8 1
    b.length = 16 + 72 * n → 1 ≤ n → n ≤ 4 → field b 0 8 % 64 = 0 → field b 0 8 + 64 * n ≤ packageBytes → field b 9 1 < 4 → field b 14 2 = 0 →
    field b 10 4 = 0 →
    let s2 := s1.homeWrite ((mwrLines b).flatMap lineBytes)
    exec (.mwr die p) s = .next ((if p.poison then ((mwrLines b).map Prod.fst).foldl (fun s l => s.poisonLine l) s2 else s2).reply
      die p p.tag 0x11 [] false)) ∧
  (∀ (b : List Byte) (k o : Nat), k < field b 8 1 → o < 64 →
    ∃ l, (mwrLines b)[k]? = some l ∧ l.1 = field b 0 8 / 64 + k ∧
      ∀ x, (64 * l.1 + o, x) ∈ lineBytes l ↔ (field b (16 + 72 * k) 8).testBit o ∧ x = b.getD (24 + 72 * k + o) 0) ∧
  (∀ (die size : Nat) (f : Nat → Nat) (p : Packet) (s : State), (.matom die p : Instr).problem = none → (s.accept die (requestCh p) p).2 →
    let s1 := (s.accept die (requestCh p) p).1
    let a := field p.payload 0 8
    let old := s.homeNat a size
    matomOf p.payload = some (size, f) → a % size = 0 → a + size ≤ packageBytes → field p.payload 10 6 = 0 →
    exec (.matom die p) s = .next
      (if s.poisoned a then s1.reply die p p.tag 0x12 (toLE (max 8 size) old) true
       else (s1.homeWrite (placeAt a (toLE size (f old)))).reply die p p.tag 0x12 (toLE (max 8 size) old) false)) ∧
  (∀ (die : Nat) (p : Packet) (s : State), (.msync die p : Instr).problem = none → (s.accept die (requestCh p) p).2 →
    let s1 := (s.accept die (requestCh p) p).1
    let b := p.payload
    let a := field b 0 8
    b.length = 24 → a % 8 = 0 → a + 8 ≤ packageBytes → field b 9 7 = 0 → s.poisoned a = false →
    (field b 8 1 = 1 → exec (.msync die p) s = .next (s1.reply die p p.tag 0x11 [] false)) ∧
    (field b 8 1 = 2 → exec (.msync die p) s = .next
      ((s1.homeWrite (placeAt a (toLE 8 ((s.homeNat a 8 + field b 16 8) % 2 ^ 64)))).reply die p p.tag 0x11 [] false)) ∧
    (field b 8 1 = 3 → exec (.msync die p) s = .next ((s1.wakeWord a).reply die p p.tag 0x11 [] false)) ∧
    (field b 8 1 = 4 → exec (.msync die p) s = .next
      ((s1.homeWrite (placeAt a (toLE 8 (spillWord (field b 16 8 % 2 ^ 32) (s.homeNat a 8))))).reply die p p.tag 0x11 [] false))) ∧
  (∀ (die : Nat) (p : Packet) (s : State), (.mrd die p : Instr).problem = none →
    (p.payload.length ≠ 16 ∨ packageBytes < field p.payload 0 8 + field p.payload 8 1 + 1 → exec (.mrd die p) s = .next (s.countBad die)) ∧
    (p.payload.length ≠ 24 → exec (.msync die p) s = .next (s.countBad die)) ∧
    (matomOf p.payload = none → exec (.matom die p) s = .next (s.countBad die)))

/-- A reply whose TAG names storage that awaits it completes it: MRDR fills the line's copy, poisoned or not, unless an
acquire has come since, or gives a load its bytes; MATOMR and MWRR end the command or the store they answer; one that
nothing awaits is a duplicate and no part of a digest. A PUSH to a reservation goes into its tile, and an RTOK goes to
the role that awaits it, or takes a free entry of the table, unless a save or a halt has its log take them; others are
duplicates or bad. -/
def Obligations.RepliesAndArrivals : Prop :=
  (∀ (die line : Nat) (r : Request) (p : Packet) (s : State), (.mrdr die p : Instr).problem = none → (s.die die).fab.requests.find? (fun r => r.tag == p.tag && r.peer == p.src.toNat && r.unsent.isNone) = some r → (s.accept die 2 p).2 →
    (∀ q ∈ (s.die die).fab.requests, q.unsent = none) → r.waiter = .fill line → p.payload.length = 64 → (∀ y, y < 16 → (s.die y).prefs.get? line = none) →
    (∃ t : State, exec (.mrdr die p) s = .next t ∧ (t.mem = s.mem ∧ (∀ l, l ≠ line → t.remote.get? l = s.remote.get? l) ∧
      (r.stale = false → t.remote.get? line = some { bytes := p.payload } ∧ (line ∈ t.poisonLines ↔ p.poison = true)) ∧
      (r.stale → t.remote = s.remote ∧ t.poisonLines = s.poisonLines) ∧
      ∀ q ∈ (t.die die).fab.requests, ¬ (q.tag = p.tag ∧ q.peer = p.src.toNat)))) ∧
  (∀ (die id : Nat) (r : Request) (l : Landing) (p : Packet) (s : State), (.mrdr die p : Instr).problem = none → (s.die die).fab.requests.find? (fun r => r.tag == p.tag && r.peer == p.src.toNat && r.unsent.isNone) = some r → (s.accept die 2 p).2 →
    (∀ q ∈ (s.die die).fab.requests, q.unsent = none) → r.waiter = .load id → p.payload.length ≤ 64 → p.poison = false → l.lacks r.line ≠ [] →
    (s.die die).seq.landings.find? (fun l => l.id == id && l.data.isNone && l.fault.isNone) = some l →
    let lo := (l.lacks r.line).foldl min ((l.lacks r.line).headD 0)
    (∃ t : State, exec (.mrdr die p) s = .next t ∧ (t.mem = s.mem ∧ t.remote = s.remote ∧ ∃ m ∈ (t.die die).seq.landings, m.id = id ∧
      m.pas = l.pas.map fun x => if x.2.isNone ∧ lineOf x.1 = r.line then (x.1, some (p.payload.getD (x.1 - lo) 0)) else x))) ∧
  (∀ (die id : Nat) (r : Request) (p : Packet) (s : State), (.mwrr die p : Instr).problem = none → (s.die die).fab.requests.find? (fun r => r.tag == p.tag && r.peer == p.src.toNat && r.unsent.isNone) = some r → (s.accept die 2 p).2 →
    (∀ q ∈ (s.die die).fab.requests, q.unsent = none) → r.waiter = .store id → p.payload = [] → (∃ w ∈ (s.die die).seq.stores, w.id = id ∧ w.sent) →
    (∀ q ∈ (s.die die).fab.requests, q.waiter = .store id → q.tag = p.tag ∧ q.peer = p.src.toNat) →
    (∃ t : State, exec (.mwrr die p) s = .next t ∧ (t.mem = s.mem ∧ ∀ w ∈ (t.die die).seq.stores, w.id ≠ id))) ∧
  (∀ (die n : Nat) (r : Request) (p : Packet) (s : State), (.matomr die p : Instr).problem = none → (s.die die).fab.requests.find? (fun r => r.tag == p.tag && r.peer == p.src.toNat && r.unsent.isNone) = some r → (s.accept die 2 p).2 →
    r.waiter = .atomic n → p.payload.length = 8 ∨ p.payload.length = 16 →
    let s1 := (s.accept die 2 p).1
    exec (.matomr die p) s = .next (((s1.onDie die fun d => d.onFab fun x =>
      { x with requests := x.requests.filter fun y => !(y.tag == p.tag && y.peer == p.src.toNat && y.unsent.isNone) }).performedFar
        die n p.payload p.poison).sendWaiting die)) ∧
  (∀ (die : Nat) (p : Packet) (i : Instr) (s : State), i ∈ [.mrdr die p, .mwrr die p, .matomr die p] → i.problem = none →
    (s.accept die 2 p (counts := false)).2 → (s.die die).fab.requests.find? (fun r => r.tag == p.tag && r.peer == p.src.toNat && r.unsent.isNone) = none →
    exec i s = .next ((s.accept die 2 p (counts := false)).1.countDup die)) ∧
  (∀ (die : Nat) (ch : BitVec 3) (p : Packet) (r : Resv) (s : State), (.push die ch p : Instr).problem = none →
    s.pushResv die ch p = some r → s.logs die r.key.toNat = false →
    let a := s.accept die ch p (counts := (s.pushFor die r).isSome)
    a.2 → exec (.push die ch p) s = .next (a.1.pushIn die r p)) ∧
  (∀ (die : Nat) (ch : BitVec 3) (p : Packet) (s : State), (.push die ch p : Instr).problem = none →
    s.pushResv die ch p = none →
    let a := s.accept die ch p (counts := false)
    a.2 → exec (.push die ch p) s = .next (a.1.countDup die)) ∧
  (∀ (die : Nat) (p : Packet) (b : TokenBits) (s : State), (.rtok die p : Instr).problem = none → tokenBits p = some b →
    b.cancel = false → s.logs die b.key.toNat = false → (s.accept die 2 p).2 →
    (∀ c ∈ (s.die die).fab.dead, ¬ (c.seq = b.seq ∧ c.sameLine
      { peer := p.src.toNat, dim := b.dim, ch := b.ch, seq := b.seq, key := b.key, srole := true })) →
    let waits : Prop := ∃ c, s.ownerCtxt die b.key.toNat = some c ∧ ∃ k ∈ c.xchQ b.ch, k.begun ∧ ∃ r ∈ k.roles,
      r.begun ∧ (if b.dbar then k.isBarrier else r.send.isSome) ∧ r.token = none ∧ r.broken = none ∧ r.dim = b.dim ∧ r.peer = p.src.toNat ∧ r.sseq = b.seq
    (∃ t : State, exec (.rtok die p) s = .next t ∧ (t.mem = s.mem ∧ (waits → (t.die die).fab.resv = (s.die die).fab.resv) ∧
      (¬ waits → (t.die die).fab.resv = (s.die die).fab.resv ++
        [{ own := false, index := (s.die die).fab.freeIndex, peer := p.src.toNat, dim := b.dim, ch := b.ch, seq := b.seq, key := b.key
           bytes := b.bytes, dbar := b.dbar, tag := p.tag }])))) ∧
  (∀ (die : Nat) (p : Packet) (s : State), (.rtok die p : Instr).problem = none → tokenBits p = none →
    exec (.rtok die p) s = .next (s.countBad die))

/-- A sequenced packet takes its entry's next ESEQ and epoch and is kept until acknowledged. The receiver accepts, in the
ordered classes, just the next number, counts older ones as duplicates and drops later ones, and schedules an EACK. An
EACK frees what it acknowledges, and only that. A timeout sends every unacknowledged packet again with RETX, and at
the last one the peer is unreachable. Entries are freed after 1 ms and 2 ms without use. -/
def Obligations.EndToEndDelivery : Prop :=
  (∀ (i : Nat) (ch : BitVec 3) (p : Packet) (e : SendEntry) (s : State), sequenced p.type →
    s.sendEntry? i p.dst.toNat (classOf ch) = some e → (s.die i).fab.unackedCount < 2048 → (s.die i).fab.stalled = [] →
    ∃ o, (s.originate i ch p).sendEntry? i p.dst.toNat (classOf ch) =
        some { e with next := e.next + 1, unacked := e.unacked ++ [o], timer := if e.unacked = [] then s.ftc i else e.timer, idle := s.ftc i } ∧
      o.ch = ch ∧ o.pkt.payload = p.payload ∧ o.pkt.eseq.toNat = e.next % 2 ^ 32 ∧ o.pkt.epoch = e.epoch ∧ o.pkt.src.toNat = s.nid i % 2 ^ 14) ∧
  (∀ (i : Nat) (ch : BitVec 3) (p : Packet) (e : RecvEntry) (s : State),
    s.recvEntry? i p.src.toNat (classOf ch) = some e → p.epoch = e.epoch → classOf ch ≠ 1 →
    (p.eseq.toNat = e.expect → (s.accept i ch p).2 = true ∧ ∃ f, (s.accept i ch p).1.recvEntry? i p.src.toNat (classOf ch) = some f ∧
      f.expect = e.expect + 1 ∧ f.eack) ∧
    (p.eseq.toNat < e.expect → (s.accept i ch p).2 = false ∧ ((s.accept i ch p).1.die i).fab.dups = min ((s.die i).fab.dups + 1) 65535) ∧
    (e.expect < p.eseq.toNat → (s.accept i ch p).2 = false ∧
      (s.accept i ch p).1.recvEntry? i p.src.toNat (classOf ch) = some { e with idle := s.ftc i })) ∧
  (∀ (i : Nat) (ch : BitVec 3) (p : Packet) (s : State), s.recvEntry? i p.src.toNat (classOf ch) = none → p.syn = false →
    s.accept i ch p = (s.countBad i, false)) ∧
  (∀ (die : Nat) (p : Packet) (e : SendEntry) (s : State), (.eack die p : Instr).problem = none →
    let b := p.payload
    let cls := field b 0 1
    let base := field b 1 4
    let acked (o : OutPkt) : Bool := decide (o.pkt.eseq.toNat < base ∨
      cls = 1 ∧ o.pkt.eseq.toNat < base + 64 ∧ (field b 5 8).testBit (o.pkt.eseq.toNat - base))
    b.length = 14 → cls ≤ 3 → field b 13 1 ≤ 1 → (cls ≠ 1 → field b 5 8 = 0) → s.sendEntry? die p.src.toNat cls = some e → e.epoch = p.epoch →
    (s.die die).fab.stalled = [] →
    (∃ t : State, exec (.eack die p) s = .next t ∧ (t.mem = s.mem ∧ ∃ f, t.sendEntry? die p.src.toNat cls = some f ∧ f.unacked = e.unacked.filter (fun o => !acked o) ∧
      f.next = e.next ∧ f.epoch = e.epoch ∧ ((∃ o r, e.unacked = o :: r ∧ acked o) → f.timeouts = 0 ∧ f.timer = s.ftc die)))) ∧
  (∀ (die peer cls : Nat) (e : RecvEntry) (s : State), (.eackSend die peer cls : Instr).problem = none →
    s.recvEntry? die peer cls = some e → e.eack →
    ∃ p, exec (.eackSend die peer cls) s = .next ((s.putRecv die { e with eack := false, busy := false }).originate die 2 p) ∧
      p.type = 0x14 ∧ p.dst = BitVec.ofNat 14 peer ∧ p.epoch = e.epoch ∧ field p.payload 0 1 = cls % 256 ∧
      field p.payload 1 4 = e.expect % 2 ^ 32 ∧ field p.payload 13 1 = (if e.busy then 1 else 0) ∧
      ∀ k, k < 64 → (field p.payload 5 8).testBit k = (cls == 1 && e.arrived.contains (e.expect + k))) ∧
  (∀ (die peer cls : Nat) (e : SendEntry) (s : State), (.e2eTimeout die peer cls : Instr).problem = none →
    s.sendEntry? die peer cls = some e → e.unacked ≠ [] → e.busy = false →
    e.timer + 1000 * max 1 (s.die die).fab.e2eto.toNat ≤ s.ftc die →
    (e.timeouts + 1 < max 1 (s.die die).fab.e2erty.toNat → exec (.e2eTimeout die peer cls) s = .next
      ((e.unacked.foldl (fun s o => s.forward die { o with pkt := { o.pkt with retx := true } })
        (s.putSend die { e with timeouts := e.timeouts + 1, busy := false, timer := s.ftc die })).again die (.e2eTimeout die peer cls))) ∧
    (max 1 (s.die die).fab.e2erty.toNat ≤ e.timeouts + 1 → (∃ t : State, exec (.e2eTimeout die peer cls) s = .next t ∧ (((∀ r ∈ (s.die die).fab.requests, r.peer = e.peer → ∀ rid m, r.waiter ≠ .spill rid m) → t.mem = s.mem) ∧
      (t.die die).fab.noreach = min ((s.die die).fab.noreach + 1) 255)))) ∧
  (∀ (die peer cls : Nat) (e : SendEntry) (s : State), (.sendEntryIdleFree die peer cls : Instr).problem = none →
    s.sendEntry? die peer cls = some e → e.unacked = [] → (s.die die).fab.stalled = [] →
    (∃ t : State, exec (.sendEntryIdleFree die peer cls) s = .next t ∧ (t.sendEntry? die peer cls = if e.idle + 1000000 ≤ s.ftc die then none else some e))) ∧
  (∀ (die peer cls : Nat) (e : RecvEntry) (s : State), (.receiveEntryIdleFree die peer cls : Instr).problem = none →
    s.recvEntry? die peer cls = some e →
    (∃ t : State, exec (.receiveEntryIdleFree die peer cls) s = .next t ∧ (t.recvEntry? die peer cls = if e.idle + 2000000 ≤ s.ftc die then none else some e)))

/-- DRAIN markers of the three ordered classes from a neighbour are answered by DRAINACK, which ends the drain there, held
packets going out and a DETOUR write that waited taking effect. A node other than the master sends TSYNC to its parent
at each period, the parent answers with its time, and a clean answer gives the offset: one beyond a microsecond steps
the counter, or holds it when it is behind, and a lesser one slews it. Without a valid sample for 10 ms the node is
not synchronised. -/
def Obligations.DrainsAndFabricTime : Prop :=
  (∀ (die d : Nat) (ch : BitVec 3) (p : Packet) (s : State), (.drain die ch p : Instr).problem = none →
    neighbourDim (s.nid die) p.src.toNat = some d →
    let old := (s.link die d).drains
    let seen := if classOf ch ∈ old then old else old ++ [classOf ch]
    (seen.length < 3 → (∃ t : State, exec (.drain die ch p) s = .next t ∧ (t = { s with dies := t.dies } ∧ t.link die d = { s.link die d with drains := seen }))) ∧
    (3 ≤ seen.length → ∃ q : Packet, q.type = 0x15 ∧ q.dst = p.src ∧ q.payload = [] ∧
      exec (.drain die ch p) s = .next ((s.onLink die d fun l => { l with drains := [] }).originate die 2 q))) ∧
  (∀ (die d : Nat) (p : Packet) (s : State), (.drainack die p : Instr).problem = none → neighbourDim (s.nid die) p.src.toNat = some d →
    (s.link die d).draining →
    ∃ s1 : State, exec (.drainack die p) s =
        .next (((s.link die d).held.foldl (fun s o => s.placeOn die d o) s1).writeDetours die d (s.link die d).detourWrites) ∧
      s1 = { s with dies := s1.dies } ∧ s1.link die d = { s.link die d with
        draining := false, held := [], detourWrites := [], dactive := (s.link die d).dactive && (s.link die d).state != .active }) ∧
  (∀ (die : Nat) (p : Packet) (s : State), (.tsync die p : Instr).problem = none → p.payload.length = 10 →
    ∃ q : Packet, q.type = 0x17 ∧ q.dst = p.src ∧ q.payload.length = 20 ∧
      field q.payload 0 8 = (s.die die).fab.ftc.toNat ∧ field q.payload 10 8 = (s.die die).fab.ftc.toNat ∧
      exec (.tsync die p) s = .next (s.originate die 2 q)) ∧
  (∀ (b : Nat) (s : State), s.unit < 16 → s.nid s.unit ≠ s.master → (s.die s.unit).fab.syncAt + 100000 ≤ s.ftc s.unit →
    s.ftc s.unit ≤ (s.die s.unit).fab.lastSample + 10000000 → s.parentDim s.unit = some b →
    ∃ (s1 : State) (q : Packet), exec .ftcSyncPeriod s = .next (s1.originate s.unit 2 q) ∧ q.type = 0x16 ∧ q.dst = BitVec.ofNat 14 (s.nid s.unit ^^^ 2 ^ b) ∧
      field q.payload 0 8 = s.ftc s.unit ∧ { unit := s.unit, instr := .ftcSyncPeriod } ∈ s1.agenda ∧
      (s1.die s.unit).fab = { (s.die s.unit).fab with
        parent := BitVec.ofNat 4 b, sample := some ((s.die s.unit).fab.picos, (s.link s.unit b).remapping.isSome), syncAt := s.ftc s.unit
        good := if (s.die s.unit).fab.sample.isSome then 0 else (s.die s.unit).fab.good }) ∧
  (∀ s : State, s.unit < 16 → s.nid s.unit ≠ s.master → (s.die s.unit).fab.lastSample + 10000000 < s.ftc s.unit →
    (∃ t : State, exec .ftcSampleTimeout s = .next t ∧ (t = { s with dies := t.dies } ∧
      (t.die s.unit).fab = { (s.die s.unit).fab with unsync := true, good := 0 }))) ∧
  (∀ (die t1 : Nat) (p : Packet) (s : State), (.tsyncr die p true : Instr).problem = none → (s.die die).fab.sample = some (t1, false) →
    p.payload.length = 20 → p.src.toNat = s.nid die ^^^ 2 ^ (s.die die).fab.parent.toNat → p.retx = false → p.ddim = 0 → p.edim = 0 →
    let f := (s.die die).fab
    let offset : Int := ((stampPs p.payload 0 - t1 : Int) - (f.picos - stampPs p.payload 10)) / 2
    (∃ t : State, exec (.tsyncr die p true) s = .next t ∧ (t = { s with dies := t.dies } ∧
      let g := (t.die die).fab
      g.sample = none ∧ g.lastSample = (if 1000000 < offset then (f.picos + offset.toNat) / 1000 else f.ftc.toNat) ∧ g.offset = BitVec.ofInt 32 offset ∧ g.good = f.good + 1 ∧ g.unsync = (f.unsync && decide (f.good = 0)) ∧
        (1000000 < offset → f.picos + offset.toNat < 2 ^ 64 * 1000 → (g.picos : Int) = f.picos + offset) ∧
        (offset < -1000000 → g.hold = (-offset).toNat ∧ g.ftc = f.ftc) ∧
        (-1000000 ≤ offset → offset ≤ 1000000 → g.slewUp = offset.toNat ∧ g.slewDown = (-offset).toNat ∧ g.ftc = f.ftc)))) ∧
  (∀ (die : Nat) (p : Packet) (clean : Bool) (s : State), (.tsyncr die p clean : Instr).problem = none →
    clean = false ∨ p.retx ∨ p.ddim ≠ 0 ∨ p.edim ≠ 0 ∨ (∃ x, (s.die die).fab.sample = some (x, true)) →
    (∃ t : State, exec (.tsyncr die p clean) s = .next t ∧ (t.mem = s.mem ∧ (t.die die).fab.ftc = (s.die die).fab.ftc ∧ (t.die die).fab.hold = (s.die die).fab.hold ∧
      (t.die die).fab.lastSample = (s.die die).fab.lastSample ∧
      ((s.die die).fab.sample.isSome → p.payload.length = 20 → p.src.toNat = s.nid die ^^^ 2 ^ (s.die die).fab.parent.toNat →
        (t.die die).fab.good = 0 ∧ (t.die die).fab.sample = none))))

/-- On a die that is neither halted nor frozen, the oldest command of the matrix engine, of a copy stream or of an
exchange stream that is done leaves its queue with its effect, its tiles READY and its decrement made. A command that
faults is discarded with those behind it that have not begun, and its fault waits for a boundary; a role overdue at
XWAIT is cancelled with the XWAIT fault, and a WAITA overdue ends with TIMEOUT. On a halted die, or one that is being
saved, no copy goes on, and the matrix engine of a halted or frozen die stands still. -/
def Obligations.EngineCompletions : Prop :=
  (∀ (k : Cmd) (r : List Cmd) (x : Fail) (s : State), s.unit < 16 → s.still s.unit = false → (s.die s.unit).c.matQ = k :: r →
    k.follow = none → let run := (s.die s.unit).runMatrix (s.us s.unit) k s.free (Config.freeNat s.free)
    (run.fail = some x → exec .matrixCommandComplete s = .next (s.later s.unit (.engineFault s.unit .matrix)) ∧
      exec (.engineFault s.unit .matrix) s = .next (({ s with free := s.free + matrixDraws } : State).setDie s.unit (run.die.engineFails .matrix k x))) ∧
    (run.fail = none → run.rest = none → (∀ m ∈ r, m.cmdix ≠ k.cmdix ∧ m.id ≠ k.id) → exec .matrixCommandComplete s =
      .next (({ s with free := s.free + matrixDraws } : State).setDie s.unit (run.die.onC fun c => c.finish .matrix k)))) ∧
  (∀ (die n g : Nat) (k : Cmd) (r : List Cmd) (s s1 : State), die < 16 → n < 2 → s.still die = false → (s.die die).c.copyQ n = k :: r → k.parked = none →
    (∀ m ∈ r, isSc m.instr = false) →
    (s.copyTry die n k g false = .done s1 → exec (.copyCommandComplete die n g) s = .next (s1.copyFinish die n k)) ∧
    (s.copyTry die n k 0 false = .done s1 → exec (.tileLocksAcquired die n) s = .next (s1.copyFinish die n k)) ∧
    (∀ va, s.copyTry die n k g false = .park s1 va → exec (.copyCommandComplete die n g) s = .next (s1.parkCopy die n k va)) ∧
    (∀ x, s.copyTry die n k g false = .fail s1 x → (∃ t : State, exec (.copyCommandComplete die n g) s = .next t ∧ (t.dies = s.dies ∧
      { unit := die, instr := .engineFault die (copyEngine n) } ∈ t.agenda))) ∧
    (∀ x, s.copyTry die n k 0 false = .fail s1 x →
      exec (.engineFault die (copyEngine n)) s = .next (s1.onDie die fun d => d.engineFails (copyEngine n) k x)) ∧
    (k.armed → s.overdue die k → s.copyTry die n k 0 true = .done s1 → exec (.waitaTimeout die n) s = .next (s1.copyFinish die n k))) ∧
  (∀ (die n : Nat) (k : Cmd) (s : State), k.moved = [] → k.s2.toNat / 2 ^ 32 ≠ 1 →
    (s.die die).c.badFollowOf k = false → s.copyFinish die n k = s.onDie die fun d => d.onC fun c => c.finish (copyEngine n) k) ∧
  (∀ (e : Engine) (k : Cmd) (c : Ctxt), e ≠ .sequencer → ∀ t, ((c.finish e k).tile t) =
      if t ∈ k.moved ∧ (c.tile t).state ≠ .empty then { c.tile t with state := .ready } else c.tile t) ∧
  (∀ (die n : Nat) (k : Cmd) (s s1 : State), die < 16 → n < 2 → s.still die = false → s.xchHead die n = some k → k.begun → k.isDigest = false →
    s.exchangeTry die n k false = .done s1 →
    exec (.exchangeComplete die n) s =
      .next ((s1.onDie die fun d => d.onC fun c => c.finish (xchEngine n) ((s1.xchHead die n).getD k)).again die (.exchangeComplete die n))) ∧
  (∀ (die n : Nat) (k : Cmd) (x : Fail) (s s1 : State), die < 16 → n < 2 → s.still die = false → s.xchHead die n = some k → k.begun → s.overdue die k →
    s.exchangeTry die n k true = .fail s1 x → exec (.xwaitExpiry die n) s = .next (s1.xchFail die n k x)) ∧
  (∀ (e : Engine) (k : Cmd) (x : Fail) (d : Die), e ≠ .sequencer →
    (d.engineFails e k x).c.pendTraps = d.c.pendTraps ++ [x.trap e k] ∧
    (e ≠ .matrix → (d.engineFails e k x).c.queueOf e = (d.c.queueOf e).filter fun m => !(m.cmdix == k.cmdix || (decide (k.id < m.id) && !isSc m.instr)))) ∧
  (∀ (die n g : Nat) (s : State), die < 16 → n < 2 → s.halted die ∨ s.resting die →
    (∃ t : State, exec (.copyCommandComplete die n g) s = .next t ∧ (t.dies = s.dies ∧ t.mem = s.mem))) ∧
  (∀ s : State, s.unit < 16 → s.still s.unit → (∃ t : State, exec .matrixCommandComplete s = .next t ∧ (t.dies = s.dies ∧ t.mem = s.mem)))

/-- At a word of this package that no earlier access of the die has in its way and whose line is not poisoned: an AMO or a
CAS delivers the old value and its home holds the new one; a REL, once every earlier write of the die is performed at
its scope, adds its value; an ACQ delivers the value and drops the WT lines of the die's L1; a WAITA whose word has
reached the threshold ends with status 0. A poisoned line faults POISON and is not written. -/
def Obligations.AtomicsAtTheirHomes : Prop :=
  (∀ (i n pa attr : Nat) (k : Cmd) (s : State), k.performed = false → k.begun = false → (∃ f, k.instr = .amo f) ∨ (∃ f, k.instr = .cas f) →
    s.word i k k.atomic.1 3 = .ok (pa, attr) → paClass pa < 3 →
    let pas := (List.range k.atomic.1).map fun j => pa + j
    s.inWay i k.id attr [] pas = false →
    (s.poisoned pa = false → (∀ a ∈ pas, s.window? a = none) →
      ∃ s1 : State, s.atomicHead i n k = .done s1 ∧
        (∀ j, j < k.atomic.1 → s1.homeByte (pa + j) = (toLE k.atomic.1 (k.atomic.2 (ofLE (s.engRead i pas).2))).getD j 0) ∧
        ∀ id, k.landing = some id → ∀ l ∈ (s1.die i).seq.landings, l.id = id → l.data = some (s.engRead i pas).2) ∧
    (s.poisoned pa → ∃ s1 : State, s.atomicHead i n k = .fail s1 { cause := .poison, va := k.a0 } ∧ s1.mem = s.mem)) ∧
  (∀ (k : Cmd) (f : CA) (old : Nat),
    (k.instr = .amo f → f.op = 0 → k.atomic = (8, k.atomic.2) ∧ k.atomic.2 old = (old + k.s0.toNat) % 2 ^ 64) ∧
    (k.instr = .amo f → f.op = 12 → k.atomic.1 = 4 ∧
      k.atomic.2 old = if (BitVec.ofNat 32 old).toInt < (k.s0.extractLsb' 0 32).toInt then old else k.s0.toNat % 2 ^ 32) ∧
    (k.instr = .cas f → f.op = 0 → k.atomic.1 = 8 ∧ k.atomic.2 old = if old = k.s0.toNat then k.s1.toNat else old)) ∧
  (∀ (i n pa attr : Nat) (k : Cmd) (f : CA) (s : State), k.performed = false → k.begun = false → k.instr = .rel f → s.object i k 3 = .ok (pa, attr) →
    paClass pa < 3 →
    let pas := (List.range 8).map fun j => pa + j
    s.inWay i k.id 0 [] pas = false → (∀ a ∈ pas, s.window? a = none) → s.poisoned pa = false →
    (s.writesDone i k.id k.scope k.cmdix = false → s.relHead i n k = .wait s) ∧
    (s.writesDone i k.id k.scope k.cmdix → ∃ s1 : State, s.relHead i n k = .done s1 ∧
      ∀ j, j < 8 → s1.homeByte (pa + j) = (toLE 8 ((ofLE (s.engRead i pas).2 + k.s0.toNat) % 2 ^ 64)).getD j 0)) ∧
  (∀ (i n pa attr : Nat) (k : Cmd) (f : CA) (s : State), k.instr = .acq f → s.object i k 1 = .ok (pa, attr) → paClass pa < 3 →
    s.inWay i k.id 0 ((List.range 8).map fun j => pa + j) [] = false → (k.scope = 3 → s.boundWait i k = none) → s.poisoned pa = false →
    ∃ s1 : State, s.acqHead i n k = .done s1 ∧ (s.fused.get false (i / 4) = false → ∀ e ∈ (s1.die i).l1, e.2.swm) ∧
      ∀ id, k.landing = some id → ∀ l ∈ (s1.die i).seq.landings, l.id = id →
        l.data = some (s.engRead i ((List.range 8).map fun j => pa + j)).2) ∧
  (∀ (i n pa attr : Nat) (timeout : Bool) (k : Cmd) (s : State), s.object i k 1 = .ok (pa, attr) → paClass pa < 3 → k.done ≠ 16 →
    let pas := (List.range 8).map fun j => pa + j
    s.inWay i k.id 0 pas [] = false → s.poisoned pa = false → k.s0.toNat ≤ ofLE (s.engRead i pas).2 →
    s.waitaHead i n k timeout = .done ((s.engRead i pas).1.deliver i k ((s.engRead i pas).2 ++ toLE 8 0))) ∧
  (∀ (i n : Nat) (k : Cmd) (f : CA) (s : State), (k.instr = .amo f → s.copyTry i n k 0 false = s.atomicHead i n k) ∧
    (k.instr = .rel f → s.copyTry i n k 0 false = s.relHead i n k) ∧ (k.instr = .acq f → s.copyTry i n k 0 false = s.acqHead i n k) ∧
    (k.instr = .waita f → ∀ b, s.copyTry i n k 0 b = s.waitaHead i n k b))

/-- TASK_DISPATCH gives a free die the first of its candidates. A fresh task starts with S1 to S3 holding the replay's
number, the node and the ordinal, A0 its parameters, J0 to J5 its indices, every other register 0 and every mask,
predicate, tile and accumulator clear, at its node's entry. TASK_END frees the die and the save slot: after FEND the
iteration is counted off and, the last one, the node completes; a failed iteration that may run again waits to be
dispatched, and another aborts the replay with its cause. A decrement takes one from the node's count, and at 1 the
node is ready; of a node past the graph it aborts the replay with XSTAT 2, of one without a count with XSTAT 3.
SPILL_DECREMENT counts in the node's spill word, and the node is ready when the count reaches NPRED + EXTRA.
REPLAY_TIMEOUT aborts a replay past its time with XSTAT 4. REPLAY_RETIRE of a replay whose nodes have all completed
writes its done area once and drops it. An aborted replay keeps the cause of its first abort. -/
def Obligations.TasksCountsAndReplays : Prop :=
  ((∀ (k : Task) (s : State), s.unit < 16 → Opened s → s.waitingGangs = [] → (s.die s.unit).task = none → s.dieFree s.unit → s.pick s.unit = some k →
    exec .taskDispatch s = .next (s.give [(s.unit, k)] id)) ∧
  (∀ s : State, s.unit < 16 → Opened s → s.waitingGangs = [] → (s.die s.unit).task = none → s.dieFree s.unit = false ∨ s.pick s.unit = none →
    exec .taskDispatch s = .next s) ∧
  (∀ (y : Nat) (k : Task) (r : Replay) (fl : Flight) (c : Context) (o : Obj) (s : State), s.flight? k.rid k.node = some (r, fl, c) →
    s.objects.get? r.handle = some o → r.aborted = none → k.saved = none → fl.node.pre = false → (∀ v ∈ s.saved, v.kind ≠ .resident y) →
    (s.die y).half ∨ 8 ≤ (s.die y).groups →
    let d := (s.give [(y, k)] id).die y
    (d.task.map fun x => x.task) = some k ∧ d.seq.run = .running ∧ d.seq.pc = s.objBase o + fl.node.entry ∧
      (∀ i, d.c.s.get 0 i = if i = 1 then BitVec.ofNat 64 r.number else if i = 2 then BitVec.ofNat 64 k.node
        else if i = 3 then BitVec.ofNat 64 k.ordinal else 0) ∧
      (∀ i, d.c.a.get 0 i = if i = 0 then BitVec.ofNat 72 (r.slotVa + fl.node.param) else 0) ∧
      (∀ l, l < 6 → d.c.j.get 0 l = BitVec.ofNat 32 (k.tuple.getD l 0)) ∧
      d.c.v = [] ∧ d.c.k = [] ∧ d.c.p = [] ∧ d.c.h = [] ∧ d.c.tiles = [] ∧ d.c.z = [] ∧ d.c.y = [] ∧ d.c.vstat = 0 ∧ d.c.tvec = 0 ∧
      d.c.tdepth = 0 ∧ d.c.cmdix = 0) ∧
  (∀ (y : Nat) (s : State), let d := s.die y
    (d.half → s.startTask y = (s.onDie y fun d => { d with halfOn := true, groups := 4 }).beginTask y) ∧
    (d.half = false → 8 ≤ d.groups → s.startTask y = (s.onDie y fun d => { d with halfOn := false }).beginTask y) ∧
    (d.half = false → d.groups < 8 → (∃ z t, z < 16 ∧ (s.die z).groupAt = some t ∧ s.wc < t + 2000) → s.startTask y = s.again y .taskDispatch) ∧
    (d.half = false → d.groups < 7 → (∀ z t, z < 16 → (s.die z).groupAt = some t → t + 2000 ≤ s.wc) →
      s.startTask y = (s.onDie y fun d => { d with halfOn := false, groups := d.groups + 1, groupAt := some s.wc }).again y .taskDispatch)) ∧
  (∀ (x : DieTask) (r : Replay) (fl : Flight) (c : Context) (s : State), s.unit < 16 → Opened s → (s.die s.unit).task = some x → (s.die s.unit).seq.run = .ended →
    s.flight? x.task.rid x.task.node = some (r, fl, c) → r.aborted = none → (s.die s.unit).seq.endCause = some .fend → 1 < fl.left →
    (∃ t : State, exec .taskEnd s = .next t ∧ ((t.die s.unit).task = none ∧ (t.die s.unit).seq.run = .idle ∧ (x.ctx, x.slot) ∉ t.slotsUsed ∧ t.mem = s.mem ∧
      ∃ q, t.replay? x.task.rid = some q ∧ q.aborted = none ∧ (q.flights.get? x.task.node).map Flight.left = some (fl.left - 1)))) ∧
  (∀ (x : DieTask) (r : Replay) (fl : Flight) (c : Context) (s s1 : State), s.unit < 16 → (s.die s.unit).task = some x → (s.die s.unit).seq.run = .ended →
    s.flight? x.task.rid x.task.node = some (r, fl, c) → r.aborted = none → (s.die s.unit).seq.endCause = some .fend → fl.left ≤ 1 →
    s.completeNode x.task.rid x.task.node fl.node = .ok s1 →
    (∃ t : State, exec .taskEnd s = .next t ∧ ((t.die s.unit).task = none ∧ (t.die s.unit).seq.run = .idle ∧ (x.ctx, x.slot) ∉ t.slotsUsed))) ∧
  (∀ (x : DieTask) (r : Replay) (fl : Flight) (c : Context) (cause : Cause) (e : Nat) (s : State), s.unit < 16 → (s.die s.unit).task = some x →
    (s.die s.unit).seq.run = .ended → s.flight? x.task.rid x.task.node = some (r, fl, c) → r.aborted = none → (s.die s.unit).seq.endCause = some (.failed cause e) →
    let again := fl.node.pinned = false ∧ x.task.reruns < fl.node.retry ∧ rerunnable cause e
    (∃ t : State, exec .taskEnd s = .next t ∧ ((t.die s.unit).task = none ∧ (t.die s.unit).seq.run = .idle ∧
      (¬ again → ∃ q, t.replay? x.task.rid = some q ∧ q.aborted = some { xstat := 1, cause := cause.code, node := x.task.node }) ∧
      (again → Opened s → ∃ q f, t.replay? x.task.rid = some q ∧ q.flights.get? x.task.node = some f ∧
        { x.task with reruns := x.task.reruns + 1, saved := none } ∈ f.requeued))))) ∧
  ((∀ (rid n : Nat) (r : Replay) (s : State), s.replay? rid = some r → r.aborted = none →
    (n < r.desc.nodes → ∀ k, 1 < k → r.hw.get? n = some k →
      (s.decrement rid n).replay? rid = some { r with hw := r.hw.set n (k - 1) } ∧ (s.decrement rid n).mem = s.mem) ∧
    (n < r.desc.nodes → r.hw.get? n = some 1 → Opened s → s.poolUsed < 8192 →
      (s.decrement rid n).replay? rid = some { r with hw := r.hw.erase n, readyList := r.readyList ++ [(n, s.ftc 0)], pooled := r.pooled ++ [n] }) ∧
    (r.desc.nodes ≤ n → ((s.decrement rid n).replay? rid).map Replay.aborted = some (some { xstat := 2, cause := 0, node := n % 2 ^ 16 })) ∧
    (n < r.desc.nodes → r.hw.get? n = none → n ∉ r.spilled →
      ((s.decrement rid n).replay? rid).map Replay.aborted = some (some { xstat := 3, cause := 0, node := n }))) ∧
  (∀ (rid n : Nat) (r : Replay) (s sa sb : State) (pas : List (Nat × Nat)) (b nb : List Byte), n < 65536 → s.replay? rid = some r →
    r.aborted = none → n ∈ r.spilled →
    let va := (r.desc.spill + r.desc.region * r.region + 8 * n) % 2 ^ 72
    let old := ofLE b
    let word := if old / 2 ^ 32 = r.number then r.number * 2 ^ 32 + (old + 1) % 2 ^ 32 else r.number * 2 ^ 32 + 1
    let total := (nodeOf nb).npred + (nodeOf nb).extra
    let ready (s : State) : State := ((s.onReplay rid fun r => { r with spilled := r.spilled.filter (· != n) }).nodeReady rid n).settle
    s.devAddrs r.ctx va 8 3 = .ok pas → s.devRead r.ctx va 8 = .ok (sa, b) → s.nodeBytes r n = .ok (sb, nb) →
    ((∀ x ∈ pas, paClass x.1 ≠ 4) →
      let s1 := s.homeWrite ((pas.map fun x => x.1).zip (toLE 8 word))
      exec (.spillDecrement rid n) s = .next (if word % 2 ^ 32 = total then ready s1 else s1)) ∧
    ((∃ x ∈ pas, paClass x.1 = 4) → n ∈ r.spillRead → field b 0 4 ≤ total →
      let s1 := s.onReplay rid fun r => { r with spillRead := r.spillRead.erase n }
      exec (.spillDecrement rid n) s = .next (if field b 0 4 = total then ready s1 else s1))) ∧
  (∀ (rid n pa at_ : Nat) (r : Replay) (s : State) (l : List (Nat × Nat)), n < 65536 → s.replay? rid = some r → r.aborted = none →
    n ∈ r.spilled → n ∉ r.spillRead → s.devAddrs r.ctx ((r.desc.spill + r.desc.region * r.region + 8 * n) % 2 ^ 72) 8 3 = .ok ((pa, at_) :: l) →
    (∃ x ∈ (pa, at_) :: l, paClass x.1 = 4) →
    exec (.spillDecrement rid n) s =
      .next (s.sendRequest 0 pa (.spill rid n) 4 (toLE 8 (pa % 2 ^ 42) ++ [4] ++ toLE 7 0 ++ toLE 8 r.number) (some rid))) ∧
  (∀ (rid : Nat) (r : Replay) (s : State), s.replay? rid = some r → r.aborted = none → r.desc.tmo ≠ 0 →
    (s.ftc 0 < r.accepted + 1000000 * r.desc.tmo → (∃ t : State, exec (.replayTimeout rid) s = .next t ∧ (t.replays = s.replays))) ∧
    (r.accepted + 1000000 * r.desc.tmo ≤ s.ftc 0 → (∃ t : State, exec (.replayTimeout rid) s = .next t ∧ (t.mem = s.mem ∧
      ∃ q, t.replay? rid = some q ∧ q.aborted = some { xstat := 4, cause := 0, node := 0xFFFF } ∧ q.readyList = [] ∧ q.pooled = [] ∧
        q.overflow = [] ∧ q.hw = r.hw)))) ∧
  (∀ (rid : Nat) (r : Replay) (s : State), s.replay? rid = some r → s.retires r = true →
    (r.doneOk.isSome → (∀ pa, s.graphOpen r.ctx r.graph ≠ .wait pa) → s.writesOut rid = false →
      exec (.replayRetire rid) s = .next (s.dropReplay r)) ∧
    (∀ (s1 : State) (q : Replay) (g : List (Nat × Nat)), r.doneOk = none → s.graphOpen r.ctx r.graph = .ok g → s.writeDone r = .ok s1 →
      s1.replay? rid = some q →
      exec (.replayRetire rid) s = .next (if s1.writesOut rid then s1.again 0 (.replayRetire rid) else s1.dropReplay q))) ∧
  (∀ (rid : Nat) (r : Replay) (s : State), s.replay? rid = some r → s.retires r = false → exec (.replayRetire rid) s = .next s) ∧
  (∀ (r : Replay) (pas : List (Nat × Nat)) (s : State), s.replay? r.rid = some r → s.devAddrs r.ctx r.desc.doneVa 32 2 = .ok pas →
    (∀ x ∈ pas, paClass x.1 ≠ 4 ∧ s.poisoned x.1 = false ∧ s.window? x.1 = none) → (pas.map Prod.fst).Nodup →
    let g := (s.graph r.ctx r.graph).count r
    ∃ s1 : State, s.writeDone r = .ok s1 ∧ (s1.replay? r.rid).map Replay.doneOk = some (some true) ∧
      ∀ x ∈ (pas.map Prod.fst).zip (toLE 8 g.retired ++ toLE 8 g.abortedN ++ toLE 4 g.xrep ++ toLE 1 g.xstat ++ toLE 1 g.xcause
        ++ toLE 2 g.xnode ++ toLE 8 0), s1.homeByte x.1 = x.2) ∧
  (∀ (r : Replay) (s : State), (s.dropReplay r).replay? r.rid = none) ∧
  (∀ (rid : Nat) (x : Abort) (r : Replay) (s : State), s.replay? rid = some r → r.aborted.isSome → s.abort rid x = s))

/-- BUDGET_OVERRUN past the budget asks the die to pre-empt, and PREEMPTION_POINT stops it, its writes made, once nothing
it has sent is outstanding; SAVE_COMPLETE keeps the context, with its pc and the waits of its fences and barriers, and
frees the die; RESTORE_COMPLETE puts it back where it stood, or drops a task of a replay that has been aborted, and
traps SHAPE_REGRANT where a shape's grant has changed. A renewal gives a row that is past half its retention a fresh
tag, and no byte of the gallery changes. -/
def Obligations.BudgetsSavesAndRestores : Prop :=
  (∀ (x : DieTask) (s : State), s.unit < 16 → (s.die s.unit).task = some x → x.budget ≠ 0 → (s.die s.unit).seq.run = .running → s.halted s.unit = false →
    s.stallsParked s.unit = false → x.started →
    let used : Nat := x.used + (s.ftc s.unit - x.since.getD (s.ftc s.unit))
    (used < x.budget → (∃ t : State, exec .budgetOverrun s = .next t ∧ ((t.die s.unit).seq = (s.die s.unit).seq ∧ { unit := s.unit, instr := .budgetOverrun } ∈ t.agenda))) ∧
    (x.budget ≤ used → x.pinned = false → (∃ t : State, exec .budgetOverrun s = .next t ∧ ((t.die s.unit).seq = { (s.die s.unit).seq with preempt := true } ∧ (t.die s.unit).c = (s.die s.unit).c ∧
      { unit := s.unit, instr := .preemptionPoint } ∈ t.agenda))) ∧
    (x.budget ≤ used → x.pinned → (∃ t : State, exec .budgetOverrun s = .next t ∧ (∀ z, z < 16 → (s.die z).gang = some (x.task.rid, x.task.node) →
      (s.die z).task.isSome → (s.die z).seq.run = .running → (t.die z).seq.preempt = true)))) ∧
  (∀ s : State, s.unit < 16 → (s.die s.unit).seq.preempt → (s.die s.unit).task.isSome → (s.die s.unit).seq.run = .running ∨ (s.die s.unit).seq.run = .ending →
    (s.die s.unit).dbgBlock.halted = false → (s.die s.unit).seq.haltReq = none → (s.die s.unit).seq.taking = none → (s.die s.unit).dueFaults.nextEvent = none → s.coldWait s.unit = false →
    s.wouldTrap s.unit = false →
    (s.settledFor s.unit → (∃ t : State, exec .preemptionPoint s = .next t ∧ (t.mem = s.mem ∧ (t.die s.unit).seq.run = .ended ∧ (t.die s.unit).seq.endCause = some .overran ∧
      (t.die s.unit).seq.pc = (s.die s.unit).seq.pc ∧ (t.die s.unit).seq.preempt = false ∧ (t.die s.unit).seq.pend = [] ∧ (t.die s.unit).seq.landings = (s.die s.unit).seq.landings ∧
      (t.die s.unit).c.s = (s.die s.unit).c.s ∧ { unit := s.unit, instr := .saveComplete } ∈ t.agenda))) ∧
    (s.settledFor s.unit = false → (∃ t : State, exec .preemptionPoint s = .next t ∧ (t.dies = s.dies ∧ { unit := s.unit, instr := .preemptionPoint } ∈ t.agenda)))) ∧
  (∀ (x : DieTask) (r : Replay) (fl : Flight) (c : Context) (s s2 : State), s.unit < 16 → Opened s → (s.die s.unit).task = some x → (s.die s.unit).seq.run = .ended →
    (s.die s.unit).seq.endCause = some .overran → s.flight? x.task.rid x.task.node = some (r, fl, c) → s.contexts.get? x.ctx = some c → r.aborted = none →
    fl.node.ovrabort = false →
    let d := (s.die s.unit)
    let s1 := (s.l1Dies s.unit).foldl (fun s z => s.l1WriteBack z fun _ => true) s
    State.writeAreas { s1 with free := s1.free + 3456 } x.ctx (c.slotVa x.slot) (d.saveWrites (s1.us s.unit) s1.free d.c.logFits
      (saveHeader (if d.c.logFits then 1 else 2) 128 d.colLim d.seq.pc (s1.ftc s.unit) d.c.panelsUsed)) = .ok s2 →
    (∃ t : State, exec .saveComplete s = .next t ∧ ((t.die s.unit).task = none ∧ (t.die s.unit).seq.run = .idle ∧ t.nextSave = s2.nextSave + 1 ∧
      ∃ v ∈ t.saved, v.id = s2.nextSave ∧ v.pc = d.seq.pc ∧ v.ctxt = d.c ∧ v.die = s.unit ∧ v.task.task = x.task ∧
        v.landings = d.seq.landings.map (fun l => { l with due := l.due - d.seq.cycle }) ∧ v.kind = (if d.c.logFits then .full else .resident s.unit) ∧
        v.memWait = d.seq.memWait.map MemWait.saved))) ∧
  (∀ (x : DieTask) (v : Saved) (c : Context) (id : Nat) (s s2 : State) (m : SlotImage), s.unit < 16 → (s.die s.unit).task = some x →
    s.replayDead x.task.rid = false → x.task.saved = some id → s.saved.find? (fun v => v.id == id) = some v → s.contexts.get? x.ctx = some c → (s.die s.unit).half ∨ 8 ≤ (s.die s.unit).groups →
    (s.takeMode s.unit).1.loadSlot x.ctx (c.slotVa x.slot) v = .ok (s2, m) →
    let kept (h : Shape) : Bool := !h.valid || grantOf h.req 128 (s.die s.unit).nextColLim == h.grant
    ((∀ h ∈ m.ctxt.h, kept h.2) → (∃ t : State, exec .restoreComplete s = .next t ∧ ((t.die s.unit).seq.run = .running ∧ (t.die s.unit).seq.pc = m.pc ∧ (t.die s.unit).c.s = m.ctxt.s ∧
      (t.die s.unit).c.a = m.ctxt.a ∧ (t.die s.unit).seq.memWait = v.memWait ∧ (∃ y, (t.die s.unit).task = some y ∧ y.task = { x.task with saved := none } ∧ y.used = 0 ∧ y.budget = x.budget) ∧
      ∀ w ∈ t.saved, w.id ≠ v.id))) ∧
    ((∃ h ∈ m.ctxt.h, kept h.2 = false) → ∃ s3 : State, exec .restoreComplete s = .next (s3.beginTrap s.unit { cause := .shapeRegrant, faddr := m.pc }) ∧
      (s3.die s.unit).seq.run = .running ∧ (s3.die s.unit).seq.pc = m.pc ∧ (s3.die s.unit).c.s = m.ctxt.s ∧
      (s3.die s.unit).c.h = m.ctxt.h.map fun x => (x.1, if x.2.valid then { x.2 with grant := grantOf x.2.req 128 (s.die s.unit).nextColLim } else x.2))) ∧
  (∀ (x : DieTask) (s : State), s.unit < 16 → (s.die s.unit).task = some x → s.replayDead x.task.rid → ∃ s1 : State,
    exec .restoreComplete s = .next (((s1.onDie s.unit Die.vacate).releaseGangs.checkRetire x.task.rid).settle) ∧ s1.mem = s.mem ∧
      (x.task.saved = none → s1 = s) ∧ (∀ v, x.task.saved = some v → ∀ y ∈ s1.saved, y.id ≠ v)) ∧
  (∀ (die row : Nat) (s : State), (.preloadRenewal die row : Instr).problem = none → row ∈ (s.die die).preloadRows →
    (∃ t : State, exec (.preloadRenewal die row) s = .next t ∧ (t.mem = s.mem ∧ t.die die = { s.die die with tags := (t.die die).tags, port := (t.die die).port } ∧
      (∀ r, r ≠ row → (t.die die).tags.get {} r = (s.die die).tags.get {} r) ∧
      ((s.die die).dueRenewal (s.us die) row → ((t.die die).tags.get {} row).wtime = BitVec.ofNat 32 (s.us die) ∧
        ((t.die die).tags.get {} row).exp = false ∧ ((t.die die).tags.get {} row).poison = ((s.die die).tags.get {} row).poison) ∧
      ((s.die die).dueRenewal (s.us die) row = false → t.dies = s.dies)))) ∧
  (∀ (die row : Nat) (s : State), (.preloadRenewal die row : Instr).problem = none → row ∉ (s.die die).preloadRows →
    exec (.preloadRenewal die row) s = .next (match (s.die die).preloadRows with | r :: _ => s.again die (.preloadRenewal die r) | [] => s)) ∧
  (∀ (d : Die) (r : Nat), r ∈ d.preloadRows ↔ ∃ p, (d.preload = some p ∨ d.load = some p) ∧ p.hasData ∧
    p.bank * 2 ^ 14 ≤ r ∧ r < p.bank * 2 ^ 14 + p.rows) ∧
  (∀ (die row : Nat) (s : State), (.residentRenewal die row : Instr).problem = none → row ∈ s.residentRows die →
    (∃ t : State, exec (.residentRenewal die row) s = .next t ∧ (t.mem = s.mem ∧ t.die die = { s.die die with tags := (t.die die).tags, port := (t.die die).port } ∧
      ((s.die die).dueRenewal (s.us die) row → ((t.die die).tags.get {} row).wtime = BitVec.ofNat 32 (s.us die) ∧
        ((t.die die).tags.get {} row).exp = false))))

/-- LAUNCH of a loaded object on a good descriptor of an existing context goes on to its acceptance, and otherwise
completes BADCTX or BADARG. Accepted, with a replay and a spill region free, the replay takes the graph's next number,
its current version and the command; with none free the queue is blocked. PATCH writes its values into the version no
replay holds, in place or in the other slot, and completes with the version's number; with both held it waits, or
completes BUSY. -/
def Obligations.LaunchAndPatch : Prop :=
  (∀ (c : Command) (s s1 : State) (b : List Byte) (g : GraphState), s.unit < 64 → (s.queue s.unit).cmd = some c → c.op = 1 →
    (s.contexts.get? c.ctx.toNat = none → exec .launch s = .next (s.fails s.unit 0x12)) ∧
    ((s.contexts.get? c.ctx.toNat).isSome → s.objects.get? (c.arg 16 4) = none ∨ c.arg 8 8 % 128 ≠ 0 → exec .launch s = .next (s.fails s.unit 0x11)) ∧
    ((s.contexts.get? c.ctx.toNat).isSome → (s.objects.get? (c.arg 16 4)).isSome → c.arg 8 8 % 128 = 0 →
      s.descRead c.ctx.toNat (c.arg 8 8) = .ok (s1, b, g) →
      exec .launch s = .next (if descBad b then s1.fails s.unit 0x11 else s1.later s.unit .replayAccept))) ∧
  (∀ (c : Command) (s s1 s2 : State) (b : List Byte) (g : GraphState) (region : Nat) (counts : List Nat), s.unit < 64 →
    (s.queue s.unit).cmd = some c → c.op = 1 → (s.contexts.get? c.ctx.toNat).isSome → (s.objects.get? (c.arg 16 4)).isSome →
    s.descRead c.ctx.toNat (c.arg 8 8) = .ok (s1, b, g) →
    let d := descOf b
    (s1.replays.length < 256 → (List.range d.rslots).find? (fun k => !g.regions.contains k) = some region →
      State.startCounts c.ctx.toNat d.nodeBase d.nodes 0 s1 [] = .ok (s2, counts, none) →
      (∃ x, s2.graphOpen c.ctx.toNat (c.arg 8 8) = .ok x) →
      (∃ t : State, exec .replayAccept s = .next t ∧ (t.nextRid = s2.nextRid + 1 ∧ ∃ r ∈ t.replays, r.rid = s2.nextRid ∧ r.number = g.nextReplay ∧
        r.slotVa = (if g.cur = 0 then d.ver0 else d.ver1) ∧ r.region = region ∧ r.ctx = c.ctx.toNat ∧ r.graph = c.arg 8 8 ∧ r.handle = c.arg 16 4 ∧
        r.queue = s.unit ∧ r.cid = c.cid ∧ r.desc = d ∧ r.prio = (s2.queue s.unit).prio.toNat))) ∧
    (256 ≤ s1.replays.length ∨ (∀ k, k < d.rslots → k ∈ g.regions) → exec .replayAccept s = .next (s1.onQueue s.unit fun x => { x with blocked := true }))) ∧
  (∀ (c : Command) (s : State), s.unit < 64 → (s.queue s.unit).cmd = some c → c.op = 1 →
    (s.contexts.get? c.ctx.toNat = none → exec .replayAccept s = .next (s.fails s.unit 0x12)) ∧
    ((s.contexts.get? c.ctx.toNat).isSome → s.objects.get? (c.arg 16 4) = none → exec .replayAccept s = .next (s.fails s.unit 0x11))) ∧
  (∀ (c : Command) (s sd s1 s2 s3 : State) (b l : List Byte) (g : GraphState) (ps : List (Nat × Nat)) (v : Nat), s.unit < 64 →
    (s.queue s.unit).cmd = some c → c.op = 6 → (s.contexts.get? c.ctx.toNat).isSome → 1 ≤ c.arg 24 2 → c.arg 24 2 ≤ 4096 → c.arg 8 8 % 128 = 0 →
    s.descRead c.ctx.toNat (c.arg 8 8) = .ok (sd, b, g) → s.devRead c.ctx.toNat (c.arg 16 8) (16 * c.arg 24 2) = .ok (s1, l) → descBad b = false →
    State.patchesOf c.ctx.toNat (descOf b) (sixteens (c.arg 24 2) l) s1 = .ok (s2, some ps) →
    (s2.applyPatch (descOf b) g ps = .ok (s3, some v) → exec .patch s = .next (s3.finish s.unit 0 v)) ∧
    (s2.applyPatch (descOf b) g ps = .ok (s3, none) → exec .patch s = .next (if c.flags.getLsbD 2 then s3.fails s.unit 2 else s3.block s.unit))) ∧
  (∀ (d : GraphDesc) (g : GraphState) (ps : List (Nat × Nat)) (b : List Byte) (s s1 s2 : State),
    let held (slot : Nat) : Prop := ∃ r ∈ s.replays, r.ctx = g.ctx ∧ r.graph = g.va ∧ r.slotVa = slot
    let cur := if g.cur = 0 then d.ver0 else d.ver1
    let other := if g.cur = 0 then d.ver1 else d.ver0
    d.psize ≠ 0 → (∃ x, s.graphOpen g.ctx g.va = .ok x) → s.devRead g.ctx cur d.psize = .ok (s1, b) →
    (¬ held cur → s1.devWrite g.ctx cur (patched b ps) = .ok s2 →
      s.applyPatch d g ps = .ok (s2.keepGraph { g with number := g.next, next := g.next + 1 }, some g.next)) ∧
    (held cur → ¬ held other → s1.devWrite g.ctx other (patched b ps) = .ok s2 →
      s.applyPatch d g ps = .ok (s2.keepGraph { g with cur := 1 - g.cur, number := g.next, next := g.next + 1 }, some g.next)) ∧
    (held cur → held other → s.applyPatch d g ps = .ok (s, none))) ∧
  (∀ (b : List Byte) (at_ v k : Nat), at_ + 8 ≤ b.length →
    (patched b [(at_, v)])[k]? = if at_ ≤ k ∧ k < at_ + 8 then (toLE 8 v)[k - at_]? else b[k]?)

/-- CTXSET with CREATE takes a good binding block at a readable, aligned address into a context number that is free, where
no more than 16 exchange keys come to be in use, and without it removes a context that no replay uses, with its
translations. LOADCO runs its checks in order and completes with the first that fails, else writes the placed image
and completes with its handle; FREECO removes an object that no replay uses. -/
def Obligations.ContextsAndCodeObjects : Prop :=
  (∀ (c : Command) (s : State), s.unit < 64 → (s.queue s.unit).cmd = some c → c.op = 10 →
    let at_ := c.arg 24 8
    let b := (List.range 64).map fun k => s.homeByte (at_ + k)
    ((s.contexts.get? c.ctx.toNat).isSome → exec .ctxsetCreate s = .next (s.finish s.unit 0x12 0)) ∧
    (s.contexts.get? c.ctx.toNat = none → 4 * 2 ^ 52 ≤ at_ ∨ at_ % 64 ≠ 0 → exec .ctxsetCreate s = .next (s.finish s.unit 0x11 0)) ∧
    (s.contexts.get? c.ctx.toNat = none → at_ < 4 * 2 ^ 52 → at_ % 64 = 0 → (∀ k, k < 64 → s.mapped (at_ + k)) → s.poisoned at_ = false →
      (s.bindingBad b → exec .ctxsetCreate s = .next (s.finish s.unit 0x12 0)) ∧
      (s.bindingBad b = false →
        (∀ y ∈ s.contexts, y.2.xkey ≠ (contextOf (c.arg 8 8) b).xkey) → 16 ≤ (distinct (s.contexts.map fun y => y.2.xkey.toNat)).length →
        exec .ctxsetCreate s = .next (s.finish s.unit 0x17 0)) ∧
      (s.bindingBad b = false →
        (∃ y ∈ s.contexts, y.2.xkey = (contextOf (c.arg 8 8) b).xkey) ∨ (distinct (s.contexts.map fun y => y.2.xkey.toNat)).length < 16 → (∃ t : State, exec .ctxsetCreate s = .next t ∧ (t.contexts.get? c.ctx.toNat = some (contextOf (c.arg 8 8) b) ∧
        (∀ n, n ≠ c.ctx.toNat → t.contexts.get? n = s.contexts.get? n) ∧
        ∃ s1 : State, s1.queues = s.queues ∧ t = s1.finish s.unit 0 0))))) ∧
  (∀ (c : Command) (s : State), s.unit < 64 → (s.queue s.unit).cmd = some c → c.op = 10 →
    let n := c.ctx.toNat
    (s.contexts.get? n = none → exec .ctxsetDestroy s = .next (s.finish s.unit 0x12 0)) ∧
    ((s.contexts.get? n).isSome → (∃ r ∈ s.replays, r.ctx = n) → exec .ctxsetDestroy s = .next (s.finish s.unit 0x19 0)) ∧
    ((s.contexts.get? n).isSome → (∀ r ∈ s.replays, r.ctx ≠ n) → (∃ t : State, exec .ctxsetDestroy s = .next t ∧ (t.contexts.get? n = none ∧
      (∀ m, m ≠ n → t.contexts.get? m = s.contexts.get? m) ∧ (∀ i, i < 16 → (t.die i).tlb = (s.die i).tlb.filter fun e => e.ctx != n) ∧
      ∃ s1 : State, s1.queues = s.queues ∧ t = s1.finish s.unit 0 0)))) ∧
  (∀ (c : Command) (s : State), s.unit < 64 → (s.queue s.unit).cmd = some c → c.op = 4 →
    (s.outside (c.arg 8 8) (c.arg 16 8) = none → exec .loadco s = .next (s.fails s.unit 0x11)) ∧
    (∀ b, s.outside (c.arg 8 8) (c.arg 16 8) = some b → exec .loadco s = .next (s.loadImage s.unit (c.arg 8 8) (c.arg 24 4) b))) ∧
  (∀ (q src wanted : Nat) (b : List Byte) (s s1 : State), let g := gxoOf b
    (gxoBad b → s.loadImage q src wanted b = s.fails q 0x11) ∧
    (∀ st, gxoBad b = false → s.checkSignature g = .error (st, s1) → s.loadImage q src wanted b = s1.fails q st) ∧
    (gxoBad b = false → s.checkSignature g = .ok s1 → field b 7 1 < s1.trust.codefloor → s.loadImage q src wanted b = s1.fails q 0x14) ∧
    (∀ st, gxoBad b = false → s.checkSignature g = .ok s1 → s1.trust.codefloor ≤ field b 7 1 → g.lifetimes = .error st →
      s.loadImage q src wanted b = s1.fails q st) ∧
    (∀ old, gxoBad b = false → s.checkSignature g = .ok s1 → s1.trust.codefloor ≤ field b 7 1 → g.lifetimes = .ok old →
      s1.chooseOffset wanted (field b 12 4) (g.layout 0).units = none → s.loadImage q src wanted b = s1.fails q 0x17) ∧
    (∀ old off vs, gxoBad b = false → s.checkSignature g = .ok s1 → s1.trust.codefloor ≤ field b 7 1 → g.lifetimes = .ok old →
      s1.chooseOffset wanted (field b 12 4) (g.layout 0).units = some off → Gxo.values (g.layout off) (s1.objBase (g.layout off)) g.records = some vs →
      ∃ s2 : State, s.loadImage q src wanted b = s2.finish q (if old = 0 then 0 else 1) (s1.nextHandle % 2 ^ 32 + off * 2 ^ 32 + old % 2 ^ 16 * 2 ^ 48) ∧
        s2.objects = s1.objects.set s1.nextHandle (g.layout off) ∧ s2.nextHandle = s1.nextHandle + 1 ∧
        s2.mem = ((g.image (g.layout off) src vs).foldl (fun s x => s.homeWrite (placeAt (s1.objBase (g.layout off) + x.1) x.2)) s1).mem)) ∧
  (∀ (c : Command) (s : State), s.unit < 64 → (s.queue s.unit).cmd = some c → c.op = 5 →
    let h := c.arg 8 4
    (s.objects.get? h = none → exec .freeco s = .next (s.finish s.unit 0x11 0)) ∧
    ((s.objects.get? h).isSome → (∃ r ∈ s.replays, r.handle = h) → exec .freeco s = .next (s.finish s.unit 0x19 0)) ∧
    ((s.objects.get? h).isSome → (∀ r ∈ s.replays, r.handle ≠ h) →
      ∃ s1 : State, exec .freeco s = .next (s1.finish s.unit 0 0) ∧ s1.objects = s.objects.erase h ∧ s1.queues = s.queues ∧ s1.mem = s.mem))

/-- COPY, with a good length and addresses, joins the copies of its class, and with ASYNC its queue goes on; otherwise it
completes BADCTX or BADARG. HOST_COPY_COMPLETE carries the copy of a class that has the engine on by one chunk: the
chunk's bytes stand at the destination as they stood at the source; a page not present parks it with a fault record,
and another fault ends it. A resume of a record that is in the ring lets what is parked with it go on. -/
def Obligations.HostCopies : Prop :=
  (∀ (c : Command) (s : State), s.unit < 64 → (s.queue s.unit).cmd = some c → c.op = 7 →
    (c.flags.getLsbD 1 = false → ∀ x ∈ s.hostCopies, x.queue ≠ some (s.unit, c.cid, c.flags)) →
    let phys := c.arg 30 1 == 1
    let named (a : Nat) : Prop := a + c.arg 24 6 ≤ 15 * 2 ^ 52 ∧ a < 15 * 2 ^ 52
    let good := 1 ≤ c.arg 24 6 ∧ c.arg 24 6 ≤ 2 ^ 40 ∧ (phys → named (c.arg 8 8) ∧ named (c.arg 16 8))
    (phys = false → s.contexts.get? c.ctx.toNat = none → exec .copy s = .next (s.fails s.unit 0x12)) ∧
    (phys ∨ (s.contexts.get? c.ctx.toNat).isSome → ¬ good → exec .copy s = .next (s.fails s.unit 0x11)) ∧
    (∀ pool, phys ∨ (s.contexts.get? c.ctx.toNat).isSome → good → s.copyIsPool c.ctx.toNat phys (c.arg 8 8) = .ok pool →
      (∃ t : State, exec .copy s = .next t ∧ (t.mem = s.mem ∧
        t.hostCopies = s.hostCopies ++ [{ id := s.nextCopy, ctx := c.ctx.toNat, phys := phys, src := c.arg 8 8, dst := c.arg 16 8, len := c.arg 24 6
                                          pool, queue := some (s.unit, c.cid, c.flags), node := none }] ∧
        { unit := 0, instr := .hostCopyComplete pool } ∈ t.agenda ∧
        (c.flags.getLsbD 1 → (t.queue s.unit).cmd = none ∧ (t.queue s.unit).async = (s.queue s.unit).async + 1) ∧
        (c.flags.getLsbD 1 = false → t.queue s.unit = s.queue s.unit)))) ∧
    (∀ s1, phys = false → (s.contexts.get? c.ctx.toNat).isSome → good → s.copyIsPool c.ctx.toNat phys (c.arg 8 8) = .wait s1 →
      exec .copy s = .next (s1.again s.unit .copy))) ∧
  (∀ (pool : Bool) (s : State), (∀ x ∈ s.hostCopies, x.node = none) →
    let more (s : State) : State := if (s.headCopy pool).isSome then s.again 0 (.hostCopyComplete pool) else s
    (s.headCopy pool = none → exec (.hostCopyComplete pool) s = .next s) ∧
    (∀ c, s.headCopy pool = some c →
      (c.parked.isSome → exec (.hostCopyComplete pool) s = .next s) ∧
      (c.parked = none → c.lost → exec (.hostCopyComplete pool) s = .next (more (s.endCopy c (some .noreach)))) ∧
      (c.parked = none → c.lost = false → (∃ r ∈ (s.die 0).fab.requests, r.waiter = .host pool) → exec (.hostCopyComplete pool) s = .next (more s)) ∧
      (c.parked = none → c.lost = false → (∀ r ∈ (s.die 0).fab.requests, r.waiter ≠ .host pool) →
        let d := { c with done := c.done + c.sent, sent := 0, begun := true }
        let s0 := s.putCopy c d
        (d.len ≤ d.done → exec (.hostCopyComplete pool) s = .next (more (s0.endCopy d none))) ∧
        (d.done < d.len → ∀ s1,
          (∀ n, s0.hostChunk d = .wrote s1 n 0 → d.done + n < d.len → (∃ t : State, exec (.hostCopyComplete pool) s = .next t ∧ (t.mem = s1.mem ∧
            { d with done := d.done + n } ∈ t.hostCopies))) ∧
          (∀ n, s0.hostChunk d = .wrote s1 n 0 → d.len ≤ d.done + n →
            let e := { d with done := d.done + n }
            exec (.hostCopyComplete pool) s = .next (more ((s1.putCopy d e).endCopy e none))) ∧
          (∀ n k, s0.hostChunk d = .wrote s1 n (k + 1) → (∃ t : State, exec (.hostCopyComplete pool) s = .next t ∧ (t.mem = s1.mem ∧
            { d with sent := n } ∈ t.hostCopies))) ∧
          (∀ va w, s0.hostChunk d = .park s1 va w → exec (.hostCopyComplete pool) s = .next (s1.parkHost d va w)) ∧
          (∀ x, s0.hostChunk d = .fail s1 x → exec (.hostCopyComplete pool) s = .next (more (s1.endCopy d (some x)))) ∧
          (s0.hostChunk d = .wait s1 → exec (.hostCopyComplete pool) s = .next (more s1)))))) ∧
  (∀ (c : HostCopy) (s : State) (q : Nat) (cid : BitVec 16) (f : Byte) (x : Option Cause), c.queue = some (q, cid, f) → f.getLsbD 1 = false →
    s.endCopy c x = (s.dropCopy c).finish q (if x.isSome then 0x18 else 0) c.done) ∧
  (∀ (c : HostCopy) (s : State) (src dst : List (Nat × Nat)),
    let a := c.src + c.done
    let b := c.dst + c.done
    let n := min (c.len - c.done) (min (2 ^ 16 - a % 2 ^ 16) (2 ^ 16 - b % 2 ^ 16))
    s.hostAddrs c a n 1 = .ok src → s.hostAddrs c b n 2 = .ok dst → src.length = dst.length →
    (∀ x ∈ src, s.poisoned x.1 = false ∧ paClass x.1 ≠ 4) → (∀ x ∈ dst, paClass x.1 ≠ 4 ∧ s.window? x.1 = none) → (dst.map Prod.fst).Nodup →
    ∃ s1 : State, s.hostChunk c = .wrote s1 n 0 ∧ (∀ x ∈ dst.zip src, s1.homeByte x.1.1 = s.homeByte x.2.1) ∧
      ∀ p, p ∉ dst.map Prod.fst → s.window? p = none → s1.homeByte p = s.homeByte p) ∧
  (∀ (ix : BitVec 16) (s : State), (.fqctlResume ix : Instr).problem = none → (∀ i x, i < 16 → (s.die i).task = some x → s.replayDead x.task.rid = false) →
    (∃ t : State, exec (.fqctlResume ix) s = .next t ∧ (t.mem = s.mem ∧
    (∀ c ∈ t.hostCopies, s.resumes ix.toNat c.parked = false) ∧
    (∀ i k, i < 16 → k ∈ (t.die i).c.copyQ0 ++ (t.die i).c.copyQ1 → s.resumes ix.toNat k.parked = false) ∧
    ∀ v ∈ t.saved, ∀ k ∈ v.ctxt.copyQ0 ++ v.ctxt.copyQ1, s.resumes ix.toNat k.parked = false))) ∧
  (∀ (ix k : Nat) (s : State), (s.resumes ix (some k) ↔ k % 4096 = ix ∧ k < s.fqCount) ∧ s.resumes ix none = false) ∧
  (∀ (ix : BitVec 16) (s : State), 4096 ≤ ix.toNat → exec (.fqctlResume ix) s = .next s)

/-- KEYREG before the lock, of a readable key and a slot of 0 to 7, sets that slot's key and measures it; KEYLOCK locks
the keys; CODEFLOOR raises the floor to B and purges code entries below it; FWUPDATE of a signed image at or above the
fuse counter takes it for the next start, and completes SIG_FAIL or SVN_FAIL otherwise; SVNCOMMIT notes a value
between the fuse counter and the running SVN. Each completes OK and changes nothing else; a condition of the table
completes BADARG with no effect. A cache of at most 64 entries takes another and stays within 64. NONCE gives a new
nonce as its value. UNLOCK in Production and FAENTER outside Failure-analysis read their token: a good one is used up,
the completion is OK, and a warm start into Debug-unlocked with the token's scope, or a cold start with the fuse blown
and no key left, begins; a bad one completes SIG_FAIL. In any other debug state they complete BADARG and read no
token, as does LOCK outside Debug-unlocked. MGMT WARMSTART and COLDSTART complete and begin their start. ATTEST writes
a report of 4,529 + 80N bytes, or completes BADARG. -/
def Obligations.ManagementCommands : Prop :=
  ((∀ (c : Command) (s : State), s.unit < 64 → (s.queue s.unit).cmd = some c → c.op = 8 → (s.trust.locked ∨ 8 ≤ c.arg 24 8 ∨ s.outside (c.arg 16 8) 1793 = none → exec .keyreg s = .next (s.fails s.unit 0x11)) ∧
    (∀ key, s.trust.locked = false → c.arg 24 8 < 8 → s.outside (c.arg 16 8) 1793 = some key →
      exec .keyreg s = .next (State.finish { s with trust := { s.trust with keys := s.trust.keys.set (c.arg 24 8) key, mlog := s.trust.mlog ++ [logEntry 4 (toLE 8 (c.arg 24 8)) (Config.shake256 key)] } } s.unit 0 0))) ∧
  (∀ (c : Command) (s : State), s.unit < 64 → (s.queue s.unit).cmd = some c → c.op = 8 → ∃ d : List Byte, exec .keylock s = .next (State.finish { s with free := s.free + 64, trust := { s.trust with locked := true, mlog := s.trust.mlog ++ [logEntry 5 [] d] } } s.unit 0 0)) ∧
  (∀ (c : Command) (s : State), s.unit < 64 → (s.queue s.unit).cmd = some c → c.op = 8 → (255 < c.arg 24 8 ∨ c.arg 24 8 < s.trust.codefloor → exec .codefloor s = .next (s.fails s.unit 0x11)) ∧
    (s.trust.codefloor ≤ c.arg 24 8 → c.arg 24 8 ≤ 255 → ∃ d : List Byte, exec .codefloor s = .next (State.finish { s with free := s.free + 64, trust := { s.trust with codefloor := c.arg 24 8, cache := s.trust.cache.filter fun e => e.firmware || decide (c.arg 24 8 ≤ e.svn), mlog := s.trust.mlog ++ [logEntry 6 (toLE 8 (c.arg 24 8)) d] } } s.unit 0 (c.arg 24 8)))) ∧
  (∀ (c : Command) (s : State), s.unit < 64 → (s.queue s.unit).cmd = some c → c.op = 8 → (2 ^ 25 < c.arg 24 8 ∨ s.outside (c.arg 16 8) (c.arg 24 8) = none → exec .fwupdate s = .next (s.fails s.unit 0x11)) ∧
    (∀ image, c.arg 24 8 ≤ 2 ^ 25 → s.outside (c.arg 16 8) (c.arg 24 8) = some image →
      (Config.firmwareSigned image = false → exec .fwupdate s = .next (s.fails s.unit 0x13)) ∧
      (Config.firmwareSigned image → Config.firmwareSvn image < s.trust.fuseSvn → exec .fwupdate s = .next (s.fails s.unit 0x14)) ∧
      (Config.firmwareSigned image → s.trust.fuseSvn ≤ Config.firmwareSvn image → (∃ t : State, exec .fwupdate s = .next t ∧ ((∃ cache : List CacheEntry, t = State.finish { s with trust := { s.trust with flash := image, cache } } s.unit 0 0) ∧
        ∃ e ∈ t.trust.cache, e.firmware ∧ e.hash = Config.shake256 image ∧ e.svn = Config.firmwareSvn image))))) ∧
  (∀ (c : Command) (s : State), s.unit < 64 → (s.queue s.unit).cmd = some c → c.op = 8 → (s.trust.fwSvn < c.arg 24 8 ∨ c.arg 24 8 < s.trust.fuseSvn → exec .svncommit s = .next (s.fails s.unit 0x11)) ∧
    (s.trust.fuseSvn ≤ c.arg 24 8 → c.arg 24 8 ≤ s.trust.fwSvn →
      exec .svncommit s = .next (State.finish { s with trust := { s.trust with commit := some (c.arg 24 8) } } s.unit 0 (c.arg 24 8)))) ∧
  (∀ (T : Trust) (e x : CacheEntry), (T.cache.length ≤ 64 → (T.addEntry e).cache.length ≤ 64) ∧ e ∈ (T.addEntry e).cache ∧
    (x ∈ (T.addEntry e).cache → x = e ∨ x ∈ T.cache ∧ ¬ (x.firmware = e.firmware ∧ x.hash = e.hash ∧ x.key = e.key)))) ∧
  ((∀ (c : Command) (s : State), s.unit < 64 → (s.queue s.unit).cmd = some c → c.op = 8 → (∃ t : State, exec .mgmtNonce s = .next t ∧ (∃ n : W64, t = State.finish { s with free := s.free + 8, trust := { s.trust with nonce := some n } } s.unit 0 n.toNat))) ∧
  (∀ (c : Command) (s : State), s.unit < 64 → (s.queue s.unit).cmd = some c → c.op = 8 → (s.trust.dbg ≠ 0 ∨ c.arg 24 8 ≠ 1360 ∨ s.outside (c.arg 16 8) 1360 = none → exec .mgmtUnlock s = .next (s.fails s.unit 0x11)) ∧
    (∀ b, s.trust.dbg = 0 → c.arg 24 8 = 1360 → s.outside (c.arg 16 8) 1360 = some b → s.trust.start = 0 → s.trust.ps = 0 →
      (s.trust.tokenGood 1 b → (∃ t : State, exec .mgmtUnlock s = .next t ∧ (t.mem = (s.finish s.unit 0 0).mem ∧
        t.trust = { s.trust with nonce := none, ps := s.trust.ps, start := 2, step := 1, cold := false, stagger := some 0, psExit := false, dbgNext := some 1, scopeNext := BitVec.ofNat 3 (field b 9 1), v65At := s.trust.v65At.map fun _ => 0 }))) ∧
      (s.trust.tokenGood 1 b = false → exec .mgmtUnlock s = .next (State.fails { s with trust := { s.trust with nonce := none } } s.unit 0x13)))) ∧
  (∀ (c : Command) (s : State), s.unit < 64 → (s.queue s.unit).cmd = some c → c.op = 8 → (s.trust.dbg ≠ 1 → exec .mgmtLock s = .next (s.fails s.unit 0x11)) ∧
    (s.trust.dbg = 1 → s.trust.start = 0 → s.trust.ps = 0 → (∃ t : State, exec .mgmtLock s = .next t ∧ (t.mem = (s.finish s.unit 0 0).mem ∧
      t.trust = { s.trust with start := 2, step := 1, cold := false, stagger := some 0, psExit := false, dbgNext := some 0, v65At := s.trust.v65At.map fun _ => 0 })))) ∧
  (∀ (c : Command) (s : State), s.unit < 64 → (s.queue s.unit).cmd = some c → c.op = 8 → (s.trust.dbg = 2 ∨ c.arg 24 8 ≠ 1360 ∨ s.outside (c.arg 16 8) 1360 = none → exec .mgmtFaenter s = .next (s.fails s.unit 0x11)) ∧
    (∀ b, s.trust.dbg ≠ 2 → c.arg 24 8 = 1360 → s.outside (c.arg 16 8) 1360 = some b →
      (s.trust.tokenGood 2 b → (∃ t : State, exec .mgmtFaenter s = .next t ∧ (t.trust.faFuse ∧ t.trust.idKey = [] ∧ t.trust.attKey = [] ∧ t.trust.keys = [] ∧
        t.trust.nonce = none ∧ (s.trust.trip = false → t.trust.start = 1 ∧ t.trust.step = 1)))) ∧
      (s.trust.tokenGood 2 b = false → exec .mgmtFaenter s = .next (State.fails { s with trust := { s.trust with nonce := none } } s.unit 0x13)))) ∧
  (∀ (c : Command) (s : State), s.unit < 64 → (s.queue s.unit).cmd = some c → c.op = 8 → s.trust.start = 0 → s.trust.ps = 0 → (∃ t : State, exec .mgmtWarmstart s = .next t ∧ (t.mem = (s.finish s.unit 0 0).mem ∧
      t.trust = { s.trust with start := 2, step := 1, cold := false, stagger := some 0, psExit := false, dbgNext := some s.trust.dbg, scopeNext := s.trust.scope, v65At := s.trust.v65At.map fun _ => 0 }))) ∧
  (∀ (c : Command) (s : State), s.unit < 64 → (s.queue s.unit).cmd = some c → c.op = 8 → s.trust.trip = false → (∃ t : State, exec .mgmtColdstart s = .next t ∧ (t.mem = (s.finish s.unit 0 0).mem ∧
      t.trust = { s.trust with ps := 0, start := 1, step := 1, cold := true, stagger := some 0, psExit := false, recLen := 0, recErr := false, dbgNext := none, baseTemp := [], portDark := false, v65At := s.trust.v65At.map fun _ => 0 }))) ∧
  (∀ (c : Command) (s : State), s.unit < 64 → (s.queue s.unit).cmd = some c → c.op = 9 →
    let len : Nat := 4529 + 80 * s.trust.mlog.length
    (s.outside (c.arg 8 8) 32 = none ∨ c.arg 24 4 < len ∨ s.outside (c.arg 16 8) len = none → exec .attest s = .next (s.fails s.unit 0x11)) ∧
    (∀ nonce old, s.outside (c.arg 8 8) 32 = some nonce → len ≤ c.arg 24 4 → s.outside (c.arg 16 8) len = some old →
      exec .attest s = .next ((s.homeWrite (placeAt (c.arg 16 8) (s.trust.report nonce))).finish s.unit 0 len))) ∧
  (∀ (T : Trust) (nonce : List Byte), (∀ e ∈ T.mlog, e.length = 80) → (T.report nonce).length = 4529 + 80 * T.mlog.length) ∧
  (∀ (type : Nat) (data digest : List Byte), (logEntry type data digest).length = 80))

/-- COLD_START, PWRCTL_COLD and, after a trip, START_RETRY_AFTER_TRIP begin a cold start at step 1, and while the package
waits to cool after a trip they do nothing; the registers have their reset values and no replay, queue or die state is
left. WARM_START and FUNCTION_LEVEL_RESET begin a warm start in PS0 with none in progress, to Production after a reset
of an unlocked device, and are otherwise ignored. RECCTL_GO in recovery takes a signed image of at most 32 MiB at or
above the fuse counter and begins a cold start, or sets ERR. -/
def Obligations.StartsBegin : Prop :=
  (∀ (i : Instr) (s : State), (∃ cause, i = .coldStart cause) ∨ i = .pwrctlCold ∨ i = .startRetryAfterTrip ∧ s.trust.trip →
    (s.trust.trip ∧ s.hot → exec i s = .next s) ∧
    (s.trust.trip = false ∨ s.hot = false → (∃ t : State, exec i s = .next t ∧ (t.trust = { s.trust with ps := 0, start := 1, step := 1, cold := true, stagger := some 0, psExit := false, trip := false, recLen := 0, recErr := false, dbgNext := none, baseTemp := [], portDark := false, v65At := s.trust.v65At.map fun _ => 0 } ∧ t.mem = s.mem ∧ t.wc = 0 ∧ t.lpwin = 10 ∧ t.lramp = 8 ∧
      t.pwin = [] ∧ t.fmtw = [] ∧ t.replays = [] ∧ t.queues = [] ∧ ∀ i, i < 16 → t.die i = {})))) ∧
  (∀ s : State, s.trust.trip = false → exec .startRetryAfterTrip s = .next s) ∧
  (∀ (cause : StartCause) (s : State), (s.trust.start ≠ 0 ∨ s.trust.ps ≠ 0 → exec (.warmStart cause) s = .next s) ∧
    (s.trust.start = 0 → s.trust.ps = 0 → cause ≠ .unlock → cause ≠ .lock → cause ≠ .flr → (∃ t : State, exec (.warmStart cause) s = .next t ∧ (t.trust = { s.trust with start := 2, step := 1, cold := false, stagger := some 0, psExit := false, dbgNext := some s.trust.dbg, scopeNext := s.trust.scope, v65At := s.trust.v65At.map fun _ => 0 } ∧
      t.mem = s.mem ∧ t.wc = 0 ∧ t.replays = [] ∧ ∀ i, i < 16 → (t.die i).c = {} ∧ (t.die i).gallery = [] ∧ (t.die i).powered = false))) ∧
    (cause = .unlock ∨ cause = .lock → s.trust.dbgNext = none → exec (.warmStart cause) s = .next s) ∧
    (∀ x, s.trust.start = 0 → s.trust.ps = 0 → cause = .unlock ∨ cause = .lock → s.trust.dbgNext = some x →
      (∃ t : State, exec (.warmStart cause) s = .next t ∧ (t.trust = { s.trust with start := 2, step := 1, cold := false, stagger := some 0, psExit := false, dbgNext := some x, scopeNext := s.trust.scopeNext, v65At := s.trust.v65At.map fun _ => 0 } ∧
      t.mem = s.mem ∧ t.wc = 0 ∧ t.replays = [] ∧ ∀ i, i < 16 → (t.die i).c = {} ∧ (t.die i).gallery = [] ∧ (t.die i).powered = false)))) ∧
  (∀ (i : Instr) (s : State), i = .functionLevelReset ∨ i = .warmStart .flr → (s.trust.start ≠ 0 ∨ s.trust.ps ≠ 0 → exec i s = .next s) ∧
    (s.trust.start = 0 → s.trust.ps = 0 → (∃ t : State, exec i s = .next t ∧ (t.trust = { s.trust with start := 2, step := 1, cold := false, stagger := some 0, psExit := false, dbgNext := some (if s.trust.dbg = 1 then 0 else s.trust.dbg), scopeNext := s.trust.scope, v65At := s.trust.v65At.map fun _ => 0 } ∧
      t.mem = s.mem ∧ t.wc = 0 ∧ t.replays = [] ∧ ∀ i, i < 16 → (t.die i).c = {} ∧ (t.die i).gallery = [] ∧ (t.die i).powered = false)))) ∧
  (∀ (v : W64) (s : State),
    let image := (List.range (v.extractLsb' 0 26).toNat).map fun k => s.trust.recImage.get 0 k
    let err := s.trust.recErr && !v.getLsbD 30
    (v.getLsbD 31 = false ∨ s.trust.start ≠ 3 →
      exec (.recctlGo v) s = .next { s with trust := { s.trust with recLen := v.extractLsb' 0 26, recErr := err } }) ∧
    (v.getLsbD 31 → s.trust.start = 3 →
      (2 ^ 25 < (v.extractLsb' 0 26).toNat ∨ Config.firmwareSigned image = false ∨ Config.firmwareSvn image < s.trust.fuseSvn →
        exec (.recctlGo v) s = .next { s with trust := { s.trust with recLen := v.extractLsb' 0 26, recErr := true } }) ∧
      ((v.extractLsb' 0 26).toNat ≤ 2 ^ 25 → Config.firmwareSigned image → s.trust.fuseSvn ≤ Config.firmwareSvn image →
        (∃ t : State, exec (.recctlGo v) s = .next t ∧ (t.trust.start = 1 ∧ t.trust.step = 1 ∧ t.trust.cold ∧ t.trust.flash = image ∧ t.trust.failcnt = 0 ∧
          t.mem = s.mem ∧ ∃ e ∈ t.trust.cache, e.firmware ∧ e.hash = Config.shake256 image)))))

/-- START_STEP_COMPLETE goes from a step to the next where the step's check passes. A die that fails, a fuse parity error,
an unsigned or mismatching image, an SVN below the fuse counter and a DRAM failure end the start with their codes: a
failed warm start begins a cold start; a failed cold start counts, and the third in a row enters recovery. Step 6
leaves every byte of the atrium and the gallery zero and no other byte changed. Step 12 leaves no queue enabled, no
context, object or key, and the debug state the start leads to. With no start in progress nothing happens. -/
def Obligations.StartSteps : Prop :=
  (∀ (r : StepResult) (s : State), s.trust.start ≠ 1 → s.trust.start ≠ 2 → exec (.startStepComplete r) s = .next s) ∧
  (∀ (r : StepResult) (s : State), s.trust.start = 1 ∨ s.trust.start = 2 →
    let go := exec (.startStepComplete r) s
    let fails (n : Nat) : Prop := go = .next (s.failStart n)
    let stays : Prop := go = .next s
    let on : Prop := go = .next { s with trust := { s.trust with step := s.trust.step + 1 } }
    (s.trust.step = 1 → (r.dieFailed → fails 7) ∧ (r.dieFailed = false → if staggerBoard ≤ s.trust.stagger.getD staggerEnd then on else stays)) ∧
    (s.trust.step = 2 → if s.trust.cold ∧ r.fuseParity then fails 6 else on) ∧
    (s.trust.step = 3 → s.trust.cold → (Config.firmwareSigned s.trust.flash = false → fails 1) ∧
      (Config.firmwareSigned s.trust.flash → go = .next { s with trust :=
        { s.trust with step := 4, fwHash := Config.shake256 s.trust.flash, fwSvn := Config.firmwareSvn s.trust.flash } })) ∧
    (s.trust.step = 3 → s.trust.cold = false → (∀ e ∈ s.trust.cache, e.firmware → e.hash ≠ Config.shake256 s.trust.flash) → fails 5) ∧
    (s.trust.step = 4 → s.trust.cold → s.trust.fwSvn < s.trust.fuseSvn → fails 2) ∧
    (s.trust.step = 4 → s.trust.cold → s.trust.fuseSvn ≤ s.trust.fwSvn → (∃ t : State, exec (.startStepComplete r) s = .next t ∧ (t.trust.step = 5 ∧ t.mem = s.mem ∧
      (∀ v, s.trust.commit = some v → v ≤ s.trust.fwSvn → t.trust.fuseSvn = max s.trust.fuseSvn v ∧ t.trust.commit = none) ∧
      (s.trust.commit = none → t.trust.fuseSvn = s.trust.fuseSvn)))) ∧
    (s.trust.step = 4 → s.trust.cold = false → (∃ t : State, exec (.startStepComplete r) s = .next t ∧ (t.trust.step = 5 ∧ t.trust.fuseSvn = s.trust.fuseSvn ∧
      ∀ e, e ∈ t.trust.cache ↔ e ∈ s.trust.cache ∧ (if e.firmware then s.trust.fuseSvn else s.trust.codefloor) ≤ e.svn))) ∧
    (s.trust.step = 5 → if r.dramFailed then fails (if s.trust.cold then 3 else 4) else on) ∧
    (s.trust.step = 6 → (∃ t : State, exec (.startStepComplete r) s = .next t ∧ (t.trust.step = 7 ∧ t.pool = [] ∧ ∀ a, t.rawByte a = if a < 2 * 2 ^ 52 then 0 else s.rawByte a))) ∧
    (s.trust.step = 7 → if s.trust.stagger.getD staggerEnd ≤ staggerBoard ∨ s.training 0 7 then stays else on) ∧
    (s.trust.step = 8 → if s.trust.stagger.isSome ∨ s.training 7 14 then stays else on) ∧
    (s.trust.step = 9 → on) ∧
    (s.trust.step = 10 → (∃ t : State, exec (.startStepComplete r) s = .next t ∧ (t.trust.step = 11 ∧ t.mem = s.mem))) ∧
    (s.trust.step = 11 → s.synced = false → stays) ∧
    (s.trust.step = 11 → s.synced → (∃ t : State, exec (.startStepComplete r) s = .next t ∧ (t.trust.step = 12 ∧ t.mem = s.mem ∧ 2 ≤ t.trust.mlog.length))) ∧
    (s.trust.step = 12 → (∃ t : State, exec (.startStepComplete r) s = .next t ∧ ((t.pwin.map fun x => x.2.size.toNat).sum ≤ 128 ∧ t.trust.start = 0 ∧ t.trust.step = 0 ∧ t.trust.ps = 0 ∧ t.contexts = [] ∧
      t.objects = [] ∧ t.trust.keys = [] ∧ t.trust.locked = false ∧ (∀ q, (t.queue q).en = false) ∧ t.mem = s.mem ∧
      t.trust.dbg = (if s.trust.faFuse then 2 else if s.trust.cold then 0 else s.trust.dbgNext.getD s.trust.dbg) ∧
      (s.trust.cold → t.trust.failcnt = 0))))) ∧
  (∀ (s : State) (code : Nat), (s.trust.cold = false → (s.failStart code).trust.start = 1 ∧ (s.failStart code).trust.cold ∧
      (s.failStart code).trust.step = 1 ∧ (s.failStart code).trust.failcnt = s.trust.failcnt) ∧
    (s.trust.cold → (s.failStart code).trust.failcnt = s.trust.failcnt + 1 ∧
      (s.failStart code).trust.start = if 3 ≤ s.trust.failcnt + 1 then 3 else 1) ∧
    (s.failStart code).trust.lasterr = code ∧ (s.failStart code).mem = s.mem)

/-- SETPS 1 and 2 complete INUSE, the state unchanged, where work is left; SETPS completes and enters its state: PS2 takes
power from every die and its links from ACTIVE, PS3 leaves a die its sensor and its links' sequence numbers
(assumption 48). PS_EXIT_COMPLETE returns to PS0 once the exit is asked for and its links are up. A junction at 110 °C
trips the package into PS3, as does a supply event. A unit powers up only once the start has reached its step, no
sooner behind the one before than the stagger asks, and where it lights lasers outside a start 20 µs behind the last
link lit. Vector 65 is raised at most once in 20,000 wall cycles, and not while the host port is dark. -/
def Obligations.PowerStatesAndTrips : Prop :=
  (∀ (c : Command) (s : State), s.unit < 64 → (s.queue s.unit).cmd = some c → c.op = 8 → s.psInUse s.unit → exec .setpsPs1 s = .next (s.finish s.unit 0x19 s.trust.ps)) ∧
  (∀ (c : Command) (s : State), s.unit < 64 → (s.queue s.unit).cmd = some c → c.op = 8 → s.psInUse s.unit → exec .setpsPs2 s = .next (s.finish s.unit 0x19 s.trust.ps)) ∧
  (∀ (c : Command) (s : State), s.unit < 64 → (s.queue s.unit).cmd = some c → c.op = 8 → s.psInUse s.unit = false → (∃ t : State, exec .setpsPs1 s = .next t ∧ (∃ s1 : State, s1 = s.finish s.unit 0 1 ∧ t = { s1 with trust := { s.trust with ps := 1 } }))) ∧
  (∀ (c : Command) (s : State), s.unit < 64 → (s.queue s.unit).cmd = some c → c.op = 8 → s.psInUse s.unit = false → (∃ t : State, exec .setpsPs2 s = .next t ∧ (t.trust = { s.trust with ps := 2, stagger := none } ∧
      ∀ i, i < 16 → (t.die i).powered = false ∧ (t.die i).c = {} ∧ (t.die i).gallery = [] ∧
        ∀ d, (s.link i d).state ≠ .dead → (4 ≤ d ∧ d < 7 → (t.link i d).state = .down) ∧
          (7 ≤ d ∧ d < 14 → (s.link i d).enable → (t.link i d).state = .off ∧ (t.link i d).ls = 3) ∧
          (7 ≤ d ∧ d < 14 → (s.link i d).enable = false → (t.link i d).state = .down)))) ∧
  (∀ (c : Command) (s : State), s.unit < 64 → (s.queue s.unit).cmd = some c → c.op = 8 → (∃ t : State, exec .setpsPs3 s = .next t ∧ (t.trust = { s.trust with ps := 3, start := 4, step := 0, stagger := none, psExit := false } ∧
      (t.mem = ((s.finish s.unit 0 3).mem.filter fun c => decide (2 * 2 ^ 52 ≤ c.1))) ∧ t.pool = [] ∧ t.replays = [] ∧
      ∀ i, i < 16 → t.die i = (s.die i).dark))) ∧
  (∀ s : State, (s.trust.psExit = false → exec .psExitComplete s = .next s) ∧
    (s.trust.psExit → s.trust.ps = 2 → s.trust.stagger.getD staggerEnd ≤ staggerBoard ∨ s.training 0 7 → exec .psExitComplete s = .next s) ∧
    (s.trust.psExit → s.trust.ps ≠ 2 ∨ staggerBoard < s.trust.stagger.getD staggerEnd ∧ s.training 0 7 = false → (∃ t : State, exec .psExitComplete s = .next t ∧ (t = { s with trust := { s.trust with ps := 0, psExit := false }, agenda := t.agenda } ∧ { unit := 0, instr := .queueSelect } ∈ t.agenda)))) ∧
  (∀ (die : Nat) (temp : BitVec 12) (s : State), die < 20 → 880 ≤ temp.toInt → (∃ t : State, exec (.thermalTrip die temp) s = .next t ∧ (t.trust.ps = 3 ∧ t.trust.start = 4 ∧ t.trust.trip ∧ t.trust.eventLog = s.trust.eventLog ++ [(die, temp)] ∧ t.replays = [] ∧
    (t.mem = (s.mem.filter fun c => decide (2 * 2 ^ 52 ≤ c.1))) ∧ t.trust.failcnt = s.trust.failcnt ∧ t.pool = [] ∧ ∀ i, i < 16 → (t.die i).powered = false ∧ (t.die i).c = {}))) ∧
  (∀ (die : Nat) (temp : BitVec 12) (s : State), die < 20 → temp.toInt < 880 → (∃ t : State, exec (.thermalTrip die temp) s = .next t ∧ (t.trust = { s.trust with baseTemp := t.trust.baseTemp } ∧ t.mem = s.mem ∧ t.junction die = temp.toInt ∧
    ∀ u, u < 20 → u ≠ die → t.junction u = s.junction u))) ∧
  (∀ (rail : Nat) (s : State), rail < 13 → (∃ t : State, exec (.supplyEvent rail) s = .next t ∧ (t.trust.ps = 3 ∧ t.trust.start = 4 ∧ t.replays = [] ∧
    (t.mem = (s.mem.filter fun c => decide (2 * 2 ^ 52 ≤ c.1))) ∧ t.trust.portDark = (s.trust.portDark || rail == 8) ∧ t.pool = [] ∧ ∀ i, i < 16 → (t.die i).powered = false ∧ (t.die i).c = {}))) ∧
  (∀ (k : Nat) (s : State), let need : Nat := if k < staggerBoard then 1 else if k = staggerBoard then 7 else 8
    let waits : Prop := (s.trust.start = 1 ∨ s.trust.start = 2) ∧ s.trust.step < need
    (s.trust.stagger = none → exec .staggeredPowerUp s = .next s) ∧
    (s.trust.stagger = some k → waits → exec .staggeredPowerUp s = .next s) ∧
    let early : Prop := k ≠ 0 ∧ s.wc < s.trust.staggerAt + 2000 * unitAt k
    let lights : Prop := s.trust.start ≠ 1 ∧ s.trust.start ≠ 2 ∧ s.unitLights k
    (s.trust.stagger = some k → early ∨ lights ∧ s.slotOpen = false → exec .staggeredPowerUp s = .next s) ∧
    (s.trust.stagger = some k → ¬ waits → ¬ early → ¬ (lights ∧ s.slotOpen = false) → (∃ t : State, exec .staggeredPowerUp s = .next t ∧ (t.mem = s.mem ∧
      t.trust = { s.trust with stagger := if k + 1 = staggerEnd then none else some (k + 1), staggerAt := s.wc - 2000 * unitAt k } ∧
      (lights → t.lastLight = some (s.ftc 0)) ∧ (¬ lights → t.lastLight = s.lastLight) ∧
      (k < staggerBoard → k % 9 = 0 → t.die (k / 9) = { s.die (k / 9) with powered := true, groups := 0 }) ∧
      (k < staggerBoard → k % 9 ≠ 0 → t.die (k / 9) = { s.die (k / 9) with groups := min (k % 9) (if (s.die (k / 9)).half then 4 else 8) }) ∧
      (k < staggerBoard → ∀ i, i ≠ k / 9 → t.die i = s.die i))))) ∧
  (∀ s : State, (s.trust.v65At = none → exec .vector65IntervalEnd s = .next s) ∧
    ∀ at_, s.trust.v65At = some at_ →
      (s.wc < at_ + 20000 → exec .vector65IntervalEnd s = .next (s.again 0 .vector65IntervalEnd)) ∧
      (at_ + 20000 ≤ s.wc → s.trust.v65Pending = false ∨ s.trust.portDark →
        exec .vector65IntervalEnd s = .next { s with trust := { s.trust with v65At := none, v65Pending := false } }) ∧
      (at_ + 20000 ≤ s.wc → s.trust.v65Pending → s.trust.portDark = false → (∃ t : State, exec .vector65IntervalEnd s = .next t ∧ (t.msix.get 0 65 = s.msix.get 0 65 + 1 ∧
        t.trust = { s.trust with v65At := some s.wc, v65Pending := false } ∧ { unit := 0, instr := .vector65IntervalEnd } ∈ t.agenda ∧ t.mem = s.mem)))) ∧
  (∀ s : State, (s.trust.portDark → s.mgmtEvent = s) ∧ (s.trust.portDark = false → s.trust.v65At.isSome → s.mgmtEvent.msix = s.msix ∧ s.mgmtEvent.trust.v65Pending) ∧
    (s.trust.portDark = false → s.trust.v65At = none → s.mgmtEvent.msix.get 0 65 = s.msix.get 0 65 + 1 ∧ s.mgmtEvent.trust.v65At = some s.wc))

/-- In Failure-analysis, or Debug-unlocked with the scope, DEBUG_HALT asks a powered, running die to halt with REASON 1,
DEBUG_RESUME and DEBUG_STEP let a halted die go on, the step asking for the next halt, and DBGDATA_ACCESS writes the
selected word of a halted die and sets ACCERR for another; in any other state none has an effect. A cascade notice
asks for a halt with REASON 2 unless one is asked for. A scalar register written so reads back. -/
def Obligations.DebugBlockEvents : Prop :=
  (∀ s : State, s.unit < 16 → (s.trust.dbg = 2 ∨ s.trust.dbg = 1 ∧ s.trust.scope.getLsbD 0) → (∃ t : State, exec .debugHalt s = .next t ∧ (t = { s with dies := t.dies } ∧ (∀ i, i ≠ s.unit → t.die i = s.die i) ∧
    let d := s.die s.unit
    t.die s.unit = if d.dbgBlock.halted ∨ d.powered = false then d else { d with seq := { d.seq with haltReq := d.seq.haltReq.or (some 1) } }))) ∧
  (∀ s : State, s.unit < 16 → (∃ t : State, exec .haltCascadeNotice s = .next t ∧ (t = { s with dies := t.dies } ∧ (∀ i, i ≠ s.unit → t.die i = s.die i) ∧
    let d := s.die s.unit
    t.die s.unit = if d.dbgBlock.halted ∨ d.powered = false then d
      else { d with seq := { d.seq with haltReq := d.seq.haltReq.or (some 2) }, dbgBlock := { d.dbgBlock with origin := d.dbgBlock.origin.or (some 16) } }))) ∧
  (∀ (s : State) (i : Instr), s.unit < 16 → ¬ (s.trust.dbg = 2 ∨ s.trust.dbg = 1 ∧ s.trust.scope.getLsbD 0) → i = .debugHalt ∨ i = .debugResume ∨ i = .debugStep → exec i s = .next s) ∧
  (∀ s : State, s.unit < 16 → (s.trust.dbg = 2 ∨ s.trust.dbg = 1 ∧ s.trust.scope.getLsbD 0) → (s.die s.unit).dbgBlock.halted = false → exec .debugResume s = .next s ∧ exec .debugStep s = .next s) ∧
  (∀ s : State, s.unit < 16 → (s.trust.dbg = 2 ∨ s.trust.dbg = 1 ∧ s.trust.scope.getLsbD 0) → (s.die s.unit).dbgBlock.halted → (s.die s.unit).dbgBlock.log = [] → (s.die s.unit).dbgBlock.group = false →
    let b := (s.die s.unit).dbgBlock
    let on (step : Bool) : Debug := { b with halted := false, reason := 0, log := [], origin := none, stepping := step, pass := some (s.die s.unit).seq.pc }
    ((∃ t : State, exec .debugResume s = .next t ∧ ((t.die s.unit).dbgBlock = on false ∧ (t.die s.unit).seq = (s.die s.unit).seq ∧ t.mem = s.mem ∧
      ∀ i, i ≠ s.unit → t.die i = s.die i))) ∧
    ((∃ t : State, exec .debugStep s = .next t ∧ ((t.die s.unit).dbgBlock = on true ∧ (t.die s.unit).seq = (s.die s.unit).seq ∧ t.mem = s.mem ∧
      ∀ i, i ≠ s.unit → t.die i = s.die i)))) ∧
  (∀ (die : Nat) (v : Option W64) (s : State), die < 16 →
    (¬ (s.trust.dbg = 2 ∨ s.trust.dbg = 1 ∧ s.trust.scope.getLsbD 0 ∧ s.trust.scope.getLsbD 1) → exec (.dbgdataAccess die v) s = .next s) ∧
    ((s.trust.dbg = 2 ∨ s.trust.dbg = 1 ∧ s.trust.scope.getLsbD 0 ∧ s.trust.scope.getLsbD 1) → (s.die die).dbgBlock.halted = false → (∃ t : State, exec (.dbgdataAccess die v) s = .next t ∧ (t = { s with dies := t.dies } ∧
      t.die die = { s.die die with dbgBlock := { (s.die die).dbgBlock with accerr := true } } ∧ ∀ i, i ≠ die → t.die i = s.die i))) ∧
    ((s.trust.dbg = 2 ∨ s.trust.dbg = 1 ∧ s.trust.scope.getLsbD 0 ∧ s.trust.scope.getLsbD 1) → (s.die die).dbgBlock.halted → v = none → exec (.dbgdataAccess die v) s = .next s)) ∧
  (∀ (die n : Nat) (v : W64) (s : State), die < 16 → (s.trust.dbg = 2 ∨ s.trust.dbg = 1 ∧ s.trust.scope.getLsbD 0 ∧ s.trust.scope.getLsbD 1) → (s.die die).dbgBlock.halted → n < 64 → n ≠ 0 →
    (s.die die).dbgBlock.file = 0 → (s.die die).dbgBlock.index.toNat = n → (s.die die).dbgBlock.word = 0 →
    (∃ t : State, exec (.dbgdataAccess die (some v)) s = .next t ∧ (t = { s with dies := t.dies } ∧ (∀ i, i ≠ die → t.die i = s.die i) ∧
      (∀ r, (t.die die).c.sreg r = if r = n then v else (s.die die).c.sreg r) ∧ t.dbgWord die = v))) ∧
  (∀ (d : Die) (sys : W72) (v : W64), 8 ≤ d.dbgBlock.file.toNat → d.dbgWrite sys v = d)

/-- REGISTER_WRITE completes. A BAR0 write that is not of 4 or 8 aligned bytes, or that lies outside the 64 MiB, or that
meets a register which does not answer, has no effect; in PS3 and in recovery only SECSTAT, RECCTL and PWRCTL answer,
and nothing while the host port is without power. An 8-byte write of a laser or ring register sets its fields, of
QCTL, RECCTL and PWRCTL does what the row of that write does, of QBASE and QCPL sets them while the queue is disabled
and only CFGREJ otherwise; of a read-only register or a hole it does nothing. BAR2 reaches queue memory byte by byte,
in recovery the image buffer; host memory takes its bytes. Reads of BAR0 of other sizes give all ones, and BAR4 reads
zero. -/
def Obligations.RegisterWrites : Prop :=
  (∀ (w : HostWrite) (s : State), w.bar = 0 → ¬ (w.bytes.length = 4 ∧ w.off % 4 = 0 ∨ w.bytes.length = 8 ∧ w.off % 8 = 0) ∨ 2 ^ 26 ≤ w.off ∨
      s.answers (regAt (w.off / 8 * 8)) = false → exec (.registerWrite w) s = .next s) ∧
  (∀ (off n : Nat) (s : State), (¬ (n = 4 ∧ off % 4 = 0 ∨ n = 8 ∧ off % 8 = 0) → s.hostRead 0 off n = List.replicate n 0xFF) ∧
    (off % 8 = 0 → s.hostRead 0 off 8 = toLE 8 (s.regRead off).toNat) ∧
    (off % 4 = 0 → s.hostRead 0 off 4 = toLE 4 ((s.regRead (off / 8 * 8)).toNat / 2 ^ (8 * (off % 8)))) ∧
    s.hostRead 4 off n = List.replicate n 0) ∧
  (∀ (a : RegAt) (s : State), s.answers a ↔ s.trust.portDark = false ∧ (s.trust.ps ≠ 3 ∧ s.trust.start ≠ 3 ∨ a = .host 0x18 ∨ a = .host 0x20 ∨ a = .host 0x28)) ∧
  (∀ (off : Nat) (v : W64) (s : State), s.trust.portDark = false → s.trust.ps ≠ 3 → s.trust.start ≠ 3 →
    let go := exec (.registerWrite { bar := 0, off, bytes := toLE 8 v.toNat }) s
    (off = 0x00F00000 → go = .next { s with lpwin := v.extractLsb' 0 10 }) ∧
    (off = 0x00F00008 → go = .next { s with lramp := v.extractLsb' 0 7 }) ∧
    (∀ q, q < 64 → off = 0x03000000 + 0x100 * q → go = exec (.qctlWrite q v) s) ∧
    (∀ q, q < 64 → off = 0x03000008 + 0x100 * q → (∃ t : State, exec (.registerWrite { bar := 0, off, bytes := toLE 8 v.toNat }) s = .next t ∧ ((∀ r, r ≠ q → t.queue r = s.queue r) ∧ t.mem = s.mem ∧
      t.queue q = if (s.queue q).en then { s.queue q with cfgrej := (s.queue q).cfgrej || v.extractLsb' 12 16 != (s.queue q).off }
        else { s.queue q with off := v.extractLsb' 12 16 }))) ∧
    (∀ q, q < 64 → off = 0x03000010 + 0x100 * q → (∃ t : State, exec (.registerWrite { bar := 0, off, bytes := toLE 8 v.toNat }) s = .next t ∧ ((∀ r, r ≠ q → t.queue r = s.queue r) ∧ t.mem = s.mem ∧
      t.queue q = if (s.queue q).en then { s.queue q with cfgrej := (s.queue q).cfgrej || v.extractLsb' 4 60 != (s.queue q).cpl }
        else { s.queue q with cpl := v.extractLsb' 4 60 }))) ∧
    (∀ q, q < 64 → off = 0x03000018 + 0x100 * q ∨ off = 0x03000020 + 0x100 * q → go = .next s) ∧
    (off = 0x03040000 → go = .next { s with trust := { s.trust with arenaSize := v.extractLsb' 56 8 } }) ∧
    (off = 0x03040008 → go = .next { s with fqbase := v.extractLsb' 5 59 }) ∧
    (off = 0x03040018 → go = .next s) ∧
    (off = 0x03040020 → go = exec (.recctlGo (v &&& 0xC3FFFFFF)) s) ∧
    (off = 0x03040028 → go = if v.getLsbD 0 then exec .pwrctlCold s else .next s) ∧
    (off % 8 = 0 → 0x03041000 ≤ off → off < 2 ^ 26 → go = .next s)) ∧
  (∀ (w : HostWrite) (s : State), w.bar = 2 → w.off + w.bytes.length ≤ 2 ^ 28 → s.trust.ps ≠ 3 → s.trust.portDark = false →
    (s.trust.start = 3 → (∃ t : State, exec (.registerWrite w) s = .next t ∧ (t.mem = s.mem ∧ t = { s with trust := { s.trust with recImage := t.trust.recImage } } ∧
      ∀ a, t.trust.recImage.get 0 a = if w.off ≤ a ∧ a < w.off + w.bytes.length then w.bytes.getD (a - w.off) 0 else s.trust.recImage.get 0 a))) ∧
    (s.trust.start ≠ 3 → (∃ t : State, exec (.registerWrite w) s = .next t ∧ (t = { s with mem := t.mem, poisonLines := t.poisonLines } ∧
      ∀ a, t.rawByte a = if s.queueMem + w.off ≤ a ∧ a < s.queueMem + w.off + w.bytes.length then w.bytes.getD (a - (s.queueMem + w.off)) 0
        else s.rawByte a)))) ∧
  (∀ (w : HostWrite) (s : State), w.bar = 2 → 2 ^ 28 < w.off + w.bytes.length ∨ s.trust.ps = 3 ∨ s.trust.portDark → exec (.registerWrite w) s = .next s) ∧
  (∀ (w : HostWrite) (s : State), w.bar = 3 → w.off + w.bytes.length ≤ 2 ^ 52 → (∃ t : State, exec (.registerWrite w) s = .next t ∧ (t = { s with mem := t.mem, poisonLines := t.poisonLines } ∧ ∀ a, t.rawByte a =
      if 3 * 2 ^ 52 + w.off ≤ a ∧ a < 3 * 2 ^ 52 + w.off + w.bytes.length then w.bytes.getD (a - (3 * 2 ^ 52 + w.off)) 0 else s.rawByte a)))

/-- DIE_CYCLE completes. A die without power, or outside PS0, does not change; a halted one draws nothing and an idle one
its baseline and what its engines draw. A running die with a landing due and not there freezes, counted by LFRZ, and
one whose draw would exceed LIM, counted by PFRZ, its count of die cycles unchanged; a held bundle whose hold has not
run out holds one cycle less. FEND ends its task once nothing is left to do. Other dies and memory do not change. At
its decision a bundle with a true guard is held for the largest hold count of its slots, its guards as the predicates
then stand; one whose guards are all false is skipped, whatever it holds, in the same die cycle: it is counted by
INUL, and the next bundle in program order is decided, unless a guard names a predicate whose producer is not ready:
HOLD_SHORT. A bundle that does not decode traps ILLEGAL, and one not wholly within the bounds FETCH_BOUND. -/
def Obligations.DieCyclesAndDecisions : Prop :=
  ((∀ s : State, s.unit < 16 → (s.die s.unit).fab.heldPushes = [] → (s.die s.unit).powered = false ∨ s.trust.ps ≠ 0 → (∃ t : State, exec .dieCycle s = .next t ∧ (t = { s with agenda := t.agenda }))) ∧
  (∀ s : State, let d := s.die s.unit
    s.unit < 16 → d.fab.heldPushes = [] → s.trust.ps = 0 → d.powered → d.dbgBlock.halted → (∃ t : State, exec .dieCycle s = .next t ∧ (t = { s with dies := t.dies, agenda := t.agenda } ∧ (∀ i, i ≠ s.unit → t.die i = s.die i) ∧
      t.die s.unit = { d with seq := { d.seq with window := (0 :: d.seq.window).take 31, frozen := false }, cnt := { d.cnt with cyc := d.cnt.cyc + 1 } }))) ∧
  (∀ s : State, let d := s.die s.unit
    let draw := 200 + d.busyWeight
    s.unit < 16 → d.fab.heldPushes = [] → s.trust.ps = 0 → d.powered → d.dbgBlock.halted = false → d.seq.run = .idle ∨ d.seq.run = .ended → d.seq.haltReq = none →
    d.seq.window.sum ≠ 0 → d.c.lim < d.seq.window.sum + draw → (∃ t : State, exec .dieCycle s = .next t ∧ (t = { s with dies := t.dies, agenda := t.agenda } ∧ (∀ i, i ≠ s.unit → t.die i = s.die i) ∧
      t.die s.unit = { d with seq := { d.seq with window := (0 :: d.seq.window).take 31, frozen := true, frozenTo := 0 }, cnt := { d.cnt with cyc := d.cnt.cyc + 1, pfrz := d.cnt.pfrz + 1 } }))) ∧
  (∀ s : State, let d := s.die s.unit
    let draw := 200 + d.busyWeight
    s.unit < 16 → d.fab.heldPushes = [] → s.trust.ps = 0 → d.powered → d.dbgBlock.halted = false → d.seq.run = .idle ∨ d.seq.run = .ended → d.seq.haltReq = none →
    d.seq.window.sum = 0 ∨ d.seq.window.sum + draw ≤ d.c.lim → (∃ t : State, exec .dieCycle s = .next t ∧ (t = { s with dies := t.dies, agenda := t.agenda } ∧ (∀ i, i ≠ s.unit → t.die i = s.die i) ∧
      (t.die s.unit).seq = { d.seq with window := (draw :: d.seq.window).take 31, frozen := false, cycle := d.seq.cycle + 1 } ∧
      (t.die s.unit).c = d.c ∧ (t.die s.unit).gallery = d.gallery ∧ (t.die s.unit).cnt.cyc = d.cnt.cyc + 1 ∧
      (t.die s.unit).sum = (d.seq.window.sum + draw) % 2 ^ 20))) ∧
  (∀ s : State, let d := s.die s.unit
    s.unit < 16 → d.fab.heldPushes = [] → s.trust.ps = 0 → d.powered → d.dbgBlock.halted = false → d.seq.run = .running → d.seq.taking = none →
    d.seq.haltReq = none → d.seq.preempt = false → d.c.pendTraps = [] → (∀ l ∈ d.seq.landings, l.fault = none) →
    (∃ l ∈ d.seq.landings, l.due ≤ d.seq.cycle ∧ l.data = none) → d.seq.held.isSome ∨ d.seq.cycle < d.seq.decideAt → (∃ t : State, exec .dieCycle s = .next t ∧ (t = { s with dies := t.dies, agenda := t.agenda } ∧ (∀ i, i ≠ s.unit → t.die i = s.die i) ∧
      t.die s.unit = { d with seq := { d.seq with window := (0 :: d.seq.window).take 31, frozen := true, frozenTo := (t.die s.unit).seq.frozenTo }, cnt := { d.cnt with cyc := d.cnt.cyc + 1, lfrz := d.cnt.lfrz + 1 } }))) ∧
  (∀ (h : Held) (b : Bundle) (s : State), let d := s.die s.unit
    let e := d.applyDue (· ≤ d.seq.cycle)
    let draw := 200 + e.busyWeight
    s.unit < 16 → d.fab.heldPushes = [] → s.trust.ps = 0 → d.powered → d.dbgBlock.halted = false → d.seq.run = .running → d.seq.taking = none →
    d.seq.haltReq = none → d.seq.preempt = false → d.c.pendTraps = [] → d.seq.landings = [] → d.seq.memWait = [] → d.seq.held = some h → d.heldBundle = some b → h.wait ≠ 0 →
    (d.seq.window.sum ≠ 0 → e.c.lim < d.seq.window.sum + draw → (∃ t : State, exec .dieCycle s = .next t ∧ ((∀ i, i ≠ s.unit → t.die i = s.die i) ∧ t.mem = s.mem ∧
      t.die s.unit = { e with seq := { e.seq with window := (0 :: d.seq.window).take 31, frozen := true, frozenTo := 0 }, cnt := { e.cnt with cyc := e.cnt.cyc + 1, pfrz := e.cnt.pfrz + 1 } }))) ∧
    (d.seq.window.sum = 0 ∨ d.seq.window.sum + draw ≤ e.c.lim → (∃ t : State, exec .dieCycle s = .next t ∧ ((∀ i, i ≠ s.unit → t.die i = s.die i) ∧ t.mem = s.mem ∧ (t.die s.unit).c = e.c ∧ (t.die s.unit).gallery = d.gallery ∧
      (t.die s.unit).seq = { e.seq with held := some { h with wait := h.wait - 1 }, cycle := d.seq.cycle + 1, window := (draw :: d.seq.window).take 31, frozen := false })))) ∧
  (∀ s : State, let d := s.die s.unit
    s.unit < 16 → d.fab.heldPushes = [] → s.trust.ps = 0 → d.powered → d.dbgBlock.halted = false → d.seq.run = .ending → d.seq.taking = none → d.seq.haltReq = none →
    d.seq.preempt = false → d.c.pendTraps = [] → d.seq.landings = [] → d.seq.stores = [] → d.seq.memWait = [] → d.c.allCmds = [] → d.seq.pend = [] →
    (∃ t : State, exec .dieCycle s = .next t ∧ ((t.die s.unit).seq.run = .ended ∧ (t.die s.unit).seq.endCause = some .fend ∧ (t.die s.unit).c = d.c ∧
      { unit := s.unit, instr := .taskEnd } ∈ t.agenda ∧ t.mem = s.mem)))) ∧
  (∀ (n i : Nat) (s s1 : State) (bytes : List Byte), s.codeAt i = .ready s1 bytes →
    let s2 := s1.onDie i Die.enterBody
    let d := s2.die i
    (∀ x, decodeBundle bytes = .error x → State.decideNext (n + 1) s i = .trap s2 .illegal) ∧
    ∀ b, decodeBundle bytes = .ok b →
      let guards := b.slots.map fun x => d.c.preg x.pfx.guard.toNat != x.pfx.inv
      (¬ (d.c.ctxbase.toNat ≤ d.seq.pc ∧ d.seq.pc + b.len ≤ d.c.ctxbound.toNat) → State.decideNext (n + 1) s i = .trap s2 .fetchBound) ∧
      (d.c.ctxbase.toNat ≤ d.seq.pc → d.seq.pc + b.len ≤ d.c.ctxbound.toNat →
        let r := { s2 with issue := { die := i, addr := d.seq.pc, dec := d.seq.schedAt, sched := d.seq.schedAt, guards := guardRegs b } }
        ((∀ g ∈ guards, g = false) → r.holdShort [] → State.decideNext (n + 1) s i = .trap s2 .holdShort) ∧
        ((∀ g ∈ guards, g = false) → r.holdShort [] = false → let x := s2.nextBundle d.seq.halfCur d.seq.pc b.len
          State.decideNext (n + 1) s i = State.decideNext n (s2.onDie i fun d =>
            let e := d.advance x.1 x.2
            { e with cnt := { e.cnt with inul := e.cnt.inul + 1 } }) i) ∧
        ((∃ g ∈ guards, g = true) → d.dbgBlock.brken = false → ∃ h : Held, h.guards = guards ∧ h.dec = d.seq.schedAt ∧ h.sched = h.dec + h.wait ∧
          (∀ x ∈ b.slots, x.pfx.hold.toNat ≤ h.wait) ∧ (h.wait = 0 ∨ ∃ x ∈ b.slots, x.pfx.hold.toNat = h.wait) ∧
          State.decideNext (n + 1) s i = .held (s2.onDie i fun d => { d with seq := { d.seq with held := some h } }))))

/-- SEL, ready, completes with its first source where pN, N = fn, is true at issue, and S[b] otherwise, in d after latency
S1. -/
def Obligations.SelectsByPredicate : Prop :=
  ∀ (f : SR) (s : State), Ready s (.sel f) →
    GivesS (.sel f) s f.d 1 (if s.ctx.preg f.fn.toNat then s.srcS f.a f.lit else s.srcS f.b f.lit)

/-- The NOP word with a nonzero field decodes to no instruction; NOP, ready, completes with no effect of its own, draws no
weight, and a bundle that holds one is held for at least its hold count. -/
def Obligations.NopDoesNothing : Prop :=
  (∀ w : BitVec 24, decodeS 0 w = if w = 0 then .ok .nop else .bad .unusedField) ∧
  (∀ s : State, Ready s .nop → Issues .nop s s) ∧
  ((useOf .nop).weight = 0 ∧ ∀ s : State, s.banksTouched .nop = 0) ∧
  (∀ (b : Bundle) (x : SlotOp), x ∈ b.slots → x.op = .ok .nop → x.pfx.hold.toNat ≤ holdOf b)

/-- A fixed-latency write due takes effect and one not due waits; of two writes to one register due in one die cycle the
later-issued bundle's stands, and a longer-latency write of an earlier bundle that takes effect in a later cycle
leaves the earlier bundle's value. A register of the file takes its value, and s0, p0 and k0 keep theirs. The effect
of any slot operation at its issue changes no byte of memory, no poisoned line, no queue, context, code object or
replay and nothing of the trust state: stores, copies and exchanges are performed by the engines' own events. -/
def Obligations.WritesTakeEffect : Prop :=
  ((∀ (d : Die) (c n : Nat) (p q : Pend) (x y : W64), d.seq.landings = [] → d.seq.pend = [p, q] ∨ d.seq.pend = [q, p] →
    p.write = .s n x → q.write = .s n y → p.at_ < q.at_ → n ≠ 0 →
    (p.due ≤ c → q.due ≤ c → (d.applyDue (· ≤ c)).c.sreg n = y ∧ (d.applyDue (· ≤ c)).seq.pend = []) ∧
    (c < p.due → q.due ≤ c → (d.applyDue (· ≤ c)).c.sreg n = y ∧ (d.applyDue (· ≤ c)).seq.pend = [p] ∧
      ((d.applyDue (· ≤ c)).applyDue (· ≤ p.due)).c.sreg n = x) ∧
    (c < p.due → c < q.due → (d.applyDue (· ≤ c)).c = d.c ∧ (d.applyDue (· ≤ c)).seq = d.seq)) ∧
  (∀ (d : Die) (c n : Nat) (l : Landing) (b : List Byte), d.seq.pend = [] → d.seq.landings = [l] → l.dest = .s n 8 false → l.due ≤ c → b.length = 8 →
    l.data = some b → (d.applyDue (· ≤ c)).seq.landings = [] ∧ (d.applyDue (· ≤ c)).cnt.landn = d.cnt.landn + 1 ∧
      (n ≠ 0 → (d.applyDue (· ≤ c)).c.sreg n = BitVec.ofNat 64 (ofLE b))) ∧
  (∀ (c : Ctxt) (n m : Nat) (x : W64) (a : W72) (p : Bool) (v w : Vec) (k l : Mask) (h : Shape),
    ((c.writeReg (.s n x)).sreg m = if m = n ∧ n ≠ 0 then x else c.sreg m) ∧ ((c.writeReg (.a n a)).areg m = if m = n then a else c.areg m) ∧
    ((c.writeReg (.p n p)).preg m = if m = n ∧ n ≠ 0 then p else c.preg m) ∧ ((c.writeReg (.h n h)).hreg m = if m = n then h else c.hreg m) ∧
    ((c.writeReg (.v n v w)).v.get 0 m = if m = n then (c.v.get 0 n &&& ~~~w) ||| (v &&& w) else c.v.get 0 m) ∧
    ((c.writeReg (.k n k l)).k.get 0 m = if m = n ∧ n ≠ 0 then (c.k.get 0 n &&& ~~~l) ||| (k &&& l) else c.k.get 0 m))) ∧
  (∀ (i : Instr) (s t : State), runOp i s = .ok t → t.mem = s.mem ∧ t.poisonLines = s.poisonLines ∧ t.queues = s.queues ∧
    t.contexts = s.contexts ∧ t.objects = s.objects ∧ t.replays = s.replays ∧ t.trust = s.trust ∧ t.tape = s.tape)

/-- A bundle of any slots, each with a well-formed operation of its class at every operand value, prefix and literal
count, decodes, whatever follows it, to exactly those operations, prefixes and literal words; and a slot that decodes
to an instruction is the encoding of that instruction with its prefix. No bit of an encoding is dropped, and each
instruction has one encoding in a slot. -/
def Obligations.EncodingsAgree : Prop :=
  (∀ (h : Byte) (ops : List (Slot × Pfx × Instr)) (enc : List (List Byte)) (lits : List (BitVec 32)) (rest : List Byte),
    ops ≠ [] → presentSlots h = ops.map Prod.fst → litCount h = lits.length → (∀ o ∈ ops, o.2.2.problem = none) →
    ops.map (fun o => encodeSlot o.1 o.2.1 o.2.2) = enc.map some →
    decodeBundle (h :: enc.flatten ++ (lits.map fun l => toLE 4 l.toNat).flatten ++ rest) =
      .ok { slots := ops.map fun o => ⟨o.1, o.2.1, .ok o.2.2⟩, lits, len := bundleLen h }) ∧
  (∀ (slot : Slot) (p : Pfx) (i : Instr) (bytes : List Byte), bytes.length = slot.size → decodeSlot slot bytes = ⟨slot, p, .ok i⟩ →
    i.problem = none ∧ encodeSlot slot p i = some bytes) ∧
  (∀ (i : Instr) (lits : List (BitVec 32)) (bytes : List Byte), i.problem = none → lits.length ≤ 3 → encode i lits = some bytes →
    ∃ slot, i.slot? = some slot ∧ decodeBundle bytes = .ok { slots := [⟨slot, {}, .ok i⟩], lits, len := bytes.length })

/-- An opcode that the tables do not list decodes to no instruction in its slot class; a bundle with such a slot traps
ILLEGAL at its issue, whatever its guards, and no register, flag or byte of the gallery has changed by any slot of it;
where every guard of the bundle is false, and may be read, it is skipped, and nothing is raised. -/
def Obligations.UnassignedOpcodesTrap : Prop :=
  (∀ (op : BitVec 8) (w : BitVec 24), op.toNat ∉
      ([0x00, 0x01, 0x02, 0x03, 0x04, 0x05, 0x06, 0x07, 0x08, 0x09, 0x0a, 0x10, 0x11, 0x12, 0x13, 0x14, 0x15, 0x18,
      0x19, 0x1a, 0x1b, 0x1c, 0x1d, 0x20, 0x21, 0x22, 0x23, 0x24, 0x25, 0x26, 0x27, 0x28, 0x29, 0x2a, 0x2b, 0x2c,
      0x2d, 0x2e, 0x30, 0x31, 0x32, 0x33, 0x38, 0x39, 0x3a, 0x3b, 0x3c, 0x40, 0x41, 0x42, 0x43, 0x44, 0x45, 0x46,
      0x48, 0x49, 0x4a, 0x4b, 0x4c, 0x4d, 0x50, 0x51, 0x52, 0x53, 0x54, 0x55, 0x56, 0x58, 0x59, 0x5a, 0x5b, 0x60,
      0x61, 0x62, 0x63, 0x64, 0x65, 0x66, 0x68, 0x69, 0x6a, 0x6b, 0x70, 0x71, 0x72, 0x73, 0x74, 0x75, 0x76, 0x78,
      0x79, 0x7a, 0x7b, 0x7c, 0x7d, 0x7e, 0x7f] : List Nat) →
    decodeS op w = .bad .unassigned) ∧
  (∀ (op : BitVec 8) (w : BitVec 32), op.toNat ∉
      ([0x01, 0x02, 0x03, 0x04, 0x05, 0x06, 0x07, 0x08, 0x09, 0x0a, 0x0b, 0x0c, 0x0d, 0x0e, 0x0f, 0x10, 0x11, 0x12,
      0x20, 0x21, 0x22, 0x23, 0x24, 0x25, 0x26, 0x27, 0x28, 0x29, 0x2a, 0x2b, 0x2c, 0x30, 0x31, 0x38, 0x39, 0x3a,
      0x3b, 0x3c, 0x40, 0x41, 0x48, 0x49, 0x4a, 0x4b, 0x4c, 0x4d] : List Nat) →
    decodeV op w = .bad .unassigned) ∧
  (∀ (op : BitVec 6) (w : BitVec 42), op.toNat ∉
      ([0x01, 0x02, 0x03, 0x04, 0x05, 0x06, 0x10, 0x11, 0x12, 0x13, 0x14, 0x15, 0x16, 0x20, 0x21, 0x28, 0x29] : List Nat) →
    decodeM op w = .bad .unassigned) ∧
  (∀ (op : BitVec 6) (w : BitVec 42), op.toNat ∉
      ([0x01, 0x02, 0x03, 0x04, 0x05, 0x06, 0x07, 0x08, 0x10, 0x11, 0x12, 0x13, 0x14, 0x15, 0x20, 0x21, 0x22, 0x28,
      0x29, 0x2a, 0x2b, 0x2c, 0x2d, 0x30, 0x31] : List Nat) →
    decodeC op w = .bad .unassigned) ∧
  (∀ (i : Nat) (b : Bundle) (h : Held) (s : State), (∃ x ∈ b.slots, x.op = .bad .unassigned) →
    let t := s.issueHeld i b h
    let s1 := s.readyIssue i b h
    t = s1.beginTrap i { cause := .illegal, faddr := (s.die i).seq.pc } ∧
    ((s.die i).seq.landings = [] → (s.die i).seq.pend = [] → (t.die i).c.s = (s.die i).c.s ∧ (t.die i).c.a = (s.die i).c.a ∧
      (t.die i).c.v = (s.die i).c.v ∧ (t.die i).c.p = (s.die i).c.p ∧ (t.die i).c.k = (s.die i).c.k ∧ (t.die i).c.h = (s.die i).c.h ∧
      (t.die i).c.vstat = (s.die i).c.vstat ∧ (t.die i).c.cmdix = (s.die i).c.cmdix ∧ (t.die i).c.alcove = (s.die i).c.alcove ∧
      (t.die i).gallery = (s.die i).gallery)) ∧
  (∀ (n i : Nat) (s s1 : State) (bytes : List Byte) (b : Bundle), s.codeAt i = .ready s1 bytes → decodeBundle bytes = .ok b →
    let s2 := s1.onDie i Die.enterBody
    let d := s2.die i
    d.c.ctxbase.toNat ≤ d.seq.pc → d.seq.pc + b.len ≤ d.c.ctxbound.toNat →
    (∀ x ∈ b.slots, d.c.preg x.pfx.guard.toNat = x.pfx.inv) →
    ({ s2 with issue := { die := i, addr := d.seq.pc, dec := d.seq.schedAt, sched := d.seq.schedAt, guards := guardRegs b } } : State).holdShort [] = false →
    ∃ s3 : State, State.decideNext (n + 1) s i = State.decideNext n s3 i ∧ s3.mem = s2.mem ∧
      (s3.die i).c = { d.c with loop := (s3.die i).c.loop } ∧ (s3.die i).gallery = d.gallery)

/-- With nothing on the tape and nothing of the machine's own due, the step of a running die whose bundle's hold has run
out, the bytes at its pc decoding to one operation with a true guard, is exec of that operation at that state, due
writes made; around it stand the die cycle's count and draw, pushes that waited for the ports, the links, the look of
the armed monitors at their words and the passing of the turn. An event of the tape, or one due on the agenda, is
stepped as exec of its row, the monitors' look behind it. -/
def Obligations.StepRunsDecodedInstruction : Prop :=
  (∀ (h : Held) (bytes : List Byte) (b : Bundle) (slot : Slot) (p : Pfx) (i : Instr) (s s2 t : State), s.tape = [] → s.agenda = [] ∨ s.round = 0 →
    s.turn < 16 → let y := s.turn
    let d := s.die y
    s.trust.ps = 0 → d.powered → d.dbgBlock.halted = false → d.seq.run = .running → d.seq.taking = none → d.seq.haltReq = none →
    d.seq.preempt = false → d.c.pendTraps = [] → d.seq.landings = [] → d.seq.memWait = [] → d.seq.held = some h → h.wait = 0 → h.guards = [true] →
    d.seq.halfCur.lines.get? (lineIn d.seq.pc) = some bytes →
    decodeBundle ((bytes.take (lineLimit (lineIn d.seq.pc))).drop (d.seq.pc % 64)) = .ok b → b.slots = [⟨slot, p, .ok i⟩] →
    (encodeSlot slot p i).isSome →
    let s0 := State.onDie { s with unit := y } y fun d => d.applyDue (· ≤ d.seq.cycle)
    let r := s0.readyIssue y b h
    let s1 := { r with issue := { r.issue with slot } }
    let draw := 200 + (s0.die y).busyWeight + r.issueWeight [(slot, i)] [(slot, i)] (.ok s2)
    d.seq.window.sum = 0 ∨ d.seq.window.sum + draw ≤ (s0.die y).c.lim → Ready s1 i → runOp i s1 = .ok s2 → exec i s1 = .next t →
    step s = .next ((((State.afterIssue s0 t y).endCycle y draw).flushPushes y).sendLinks y).watch.nextTurn) ∧
  (∀ (e : Ev) (r : List Ev) (s : State), s.tape = e :: r → ∃ t : State, exec e.instr { s with tape := r, unit := e.unit } = .next t ∧ step s = .next t.watch) ∧
  (∀ (n : Nat) (e : Ev) (r : List Ev) (s : State), s.tape = [] → s.round = n + 1 → s.agenda = e :: r →
    ∃ t : State, exec e.instr { s with agenda := r, round := n, unit := e.unit } = .next t ∧ step s = .next t.watch) ∧
  (∀ s : State, s.tape = [] → s.agenda = [] ∨ s.round = 0 → s.turn < 16 → ∃ t : State, exec .dieCycle { s with unit := s.turn } = .next t ∧ step s = .next t.watch.nextTurn)

/-- Every row answers a next state in every state, and so does every step. From every state whose memory lists strictly
rising addresses and no zero byte, a step leaves memory in that form, whatever event it takes from the tape or the
agenda and whatever a die issues. The form is the model's own (assumption 2). -/
def Obligations.EveryStepKeepsMemoryCanonical : Prop :=
  (∀ (i : Instr) (s : State), ∃ t : State, exec i s = .next t) ∧ (∀ s : State, ∃ t : State, step s = .next t) ∧
  ∀ s t : State, Memory.wf s.mem = true → step s = .next t → Memory.wf t.mem = true

/-- After reset memory lists nothing and is in its canonical form; a cold start is at its step 1 in Production; no queue
is enabled, no context, code object or replay exists, no die has power, and the laser registers hold LPWIN 10 and
LRAMP 8. Where the spec gives no reset value the value is the model's choice (assumptions 1 and 2). -/
def Obligations.ResetState : Prop :=
  let s := State.reset
  Memory.wf s.mem = true ∧ s.mem = [] ∧ s.trust.start = 1 ∧ s.trust.step = 1 ∧ s.trust.cold ∧ s.trust.dbg = 0 ∧ s.trust.ps = 0 ∧
  (∀ q, (s.queue q).en = false) ∧ s.contexts = [] ∧ s.objects = [] ∧ s.replays = [] ∧
  (∀ i, (s.die i).powered = false ∧ (s.die i).seq.run = .idle ∧ (∀ n, (s.die i).c.sreg n = 0) ∧ (s.die i).c.preg 0 = true) ∧
  s.lpwin = 10 ∧ s.lramp = 8 ∧ s.trust.arenaSize = 4 ∧ s.tape = [] ∧ s.agenda = []

/-- With TVEC.EN set and TDEPTH below 4, a drained die that takes a cause other than DEPTH or REC_FAULT, its record stored
at TRECBASE + 64 · TDEPTH, adds 1 to TDEPTH, sets H and goes on at CTXBASE + TVEC.OFFSET, decided 16 die cycles on;
registers, predicates, shapes and tiles stay. Otherwise the context fails, with DEPTH where TDEPTH is 4. The record
holds the cause, engine, flags, indices, addresses and TSTATUS at the places of Table 10.2. -/
def Obligations.TrapEntry : Prop :=
  (∀ (i : Nat) (tr : Trap) (s : State), let c := (s.die i).c
    let d := s.die i
    let t := s.enterTrap i tr
    let store := s.storeNow i (s.ctxOn i) (c.trecbase + BitVec.ofNat 72 (64 * c.tdepth))
      (trapRecord c tr tr.cause d.seq.pc (c.pendTraps.any fun x => x.engine != 0))
    c.tvec.getLsbD 32 → c.tdepth < 4 → tr.cause ≠ .depth → tr.cause ≠ .recFault →
    (∀ s1, store = .ok s1 →
      (t.die i).c = { c with tdepth := c.tdepth + 1, inHandler := true, lastix := c.cmdix :: c.lastix } ∧
      (t.die i).cnt.hshort = (s1.die i).cnt.hshort + (if tr.cause = .holdShort then 1 else 0) ∧
      (t.die i).cnt.stalef = (s1.die i).cnt.stalef + (if tr.cause = .stale ∧ tr.engine = 0 then 1 else 0) ∧
      (t.die i).seq.pc = c.ctxbase.toNat + (c.tvec.extractLsb' 0 32).toNat ∧ (t.die i).seq.decideAt = d.seq.cycle + 16 ∧
      (t.die i).seq.schedAt = d.seq.schedAt + 16 ∧ (t.die i).seq.held = none ∧ (t.die i).gallery = d.gallery ∧ t.mem = s1.mem) ∧
    (∀ c1 va, store = .fault c1 va →
      (t.die i).seq.run = .ended ∧ (t.die i).seq.endCause = some (.failed .recFault 0) ∧ t.mem = s.mem) ∧
    (∀ s1, store = .wait s1 → t = s1.onDie i fun d => { d with seq := { d.seq with taking := some tr } })) ∧
  (∀ (i : Nat) (tr : Trap) (s : State), let c := (s.die i).c
    let cause := if c.tdepth = 4 then Cause.depth else tr.cause
    tr.cause = .depth ∨ tr.cause = .recFault ∨ c.tvec.getLsbD 32 = false ∨ c.tdepth = 4 →
    c.trecbase = 0 ∨ 4 ≤ c.tdepth ∨ (∀ s1, s.storeNow i (s.ctxOn i) (c.trecbase + BitVec.ofNat 72 (64 * c.tdepth))
      (trapRecord c tr cause (s.die i).seq.pc (c.pendTraps.any fun x => x.engine != 0)) ≠ .wait s1) →
    let t := s.enterTrap i tr
    (t.die i).seq.run = .ended ∧ (t.die i).seq.endCause = some (.failed cause tr.engine) ∧
    { unit := i, instr := .taskEnd } ∈ t.agenda ∧ (c.trecbase = 0 ∨ 4 ≤ c.tdepth → t.mem = s.mem)) ∧
  (∀ (c : Ctxt) (tr : Trap) (x : Cause) (pc : Nat) (more : Bool), let r := trapRecord c tr x pc more
    r.length = 64 ∧ field r 0 1 = x.code ∧ field r 1 1 = tr.engine % 256 ∧ field r 2 1 = (if tr.landing then 1 else 0) + (if more then 2 else 0) ∧
    field r 3 1 = 0 ∧ field r 4 4 = (if tr.engine = 0 then c.cmdix.toNat else tr.cmdix.toNat) ∧ field r 8 4 = c.cmdix.toNat ∧ field r 12 4 = 0 ∧
    field r 16 8 = pc % 2 ^ 56 ∧ field r 24 8 = tr.faddr % 2 ^ 56 ∧ field r 32 9 = tr.vaddr.toNat ∧ field r 41 7 = 0 ∧
    field r 48 8 = tr.estat.toNat ∧ field r 56 8 = c.tstatus.toNat)

/-- A word of each slot class, put together bit by bit from the encoding tables, decodes to the instruction it stands for:
LD, ADDI and BR in the S slot, VREDA in V0, MMA in the M slot, CPY and REL in C0, and GRS and XCC in the two C slots
of one bundle. -/
def Obligations.WordsDecode : Prop :=
  (decodeBundle [0x01, 0x00, 0x46, 0x8A, 0x10, 0x04] =
    .ok { slots := [⟨.s, {}, .ok (.ld 6 { reg := 10, addr := 2, land := 2, off := 2 })⟩], lits := [], len := 6 }) ∧
  (decodeBundle [0x01, 0x06, 0x03, 0xC7, 0x11, 0x00] =
    .ok { slots := [⟨.s, { guard := 6 }, .ok (.addi { d := 7, a := 7, imm := 1 })⟩], lits := [], len := 6 }) ∧
  (decodeBundle [0x01, 0x03, 0x70, 0x0C, 0x00, 0x00] =
    .ok { slots := [⟨.s, { guard := 3 }, .ok (.br { disp := 12 })⟩], lits := [], len := 6 }) ∧
  (decodeBundle [0x02, 0x00, 0x40, 0x22, 0x00, 0x80, 0x24] =
    .ok { slots := [⟨.v0, {}, .ok (.vreda { vd := 2, va := 1, shape := 1, type := 9 })⟩], lits := [], len := 7 }) ∧
  (decodeBundle [0x08, 0x00, 0x41, 0x01, 0x00, 0x0C, 0x03, 0x00] =
    .ok { slots := [⟨.m, {}, .ok (.mma { tile := 5, shape := 3, fmt := 8, ac := true })⟩], lits := [], len := 8 }) ∧
  (decodeBundle [0x10, 0x00, 0x02, 0x62, 0x00, 0x00, 0x00, 0x00] =
    .ok { slots := [⟨.c0, {}, .ok (.cpy { src := 2, dst := 3 })⟩], lits := [], len := 8 }) ∧
  (decodeBundle [0x50, 0x00, 0x2A, 0xE4, 0x07, 0x00, 0x10, 0x00, 0x01, 0x00, 0x00, 0x00] =
    .ok { slots := [⟨.c0, {}, .ok (.rel { addr := 4, opnd := 63, scope := 2 })⟩], lits := [1], len := 12 }) ∧
  (decodeBundle [0x30, 0x00, 0x13, 0x04, 0x01, 0x14, 0x00, 0x00, 0x00, 0x91, 0xBC, 0x01, 0x1C, 0x00, 0x00] =
    .ok { slots := [⟨.c0, {}, .ok (.grs { dima := 0, dimb := 1, send := 4, recv := 5 })⟩,
                    ⟨.c1, {}, .ok (.xcc { dima := 2, dimb := 15, send := 6, recv := 7 })⟩], lits := [], len := 15 })
end

