-- ==== Sys2Proof/Laws/Maps.lean ====
section
/-! SUPPORT. Sparse maps: what each key reads as after an update, and that updates keep the canonical form. -/

namespace Sys2Proof.Machine

variable {α : Type}

/-! ## Reading after an update -/

@[simp] theorem FMap.get?_nil (i : Nat) : FMap.get? ([] : FMap α) i = none := rfl

theorem FMap.get?_erase_same (m : FMap α) (i : Nat) : FMap.get? (FMap.erase m i) i = none := by
  induction m with
  | nil => rfl
  | cons x r ih =>
    obtain ⟨k, w⟩ := x
    by_cases h : k = i <;> simp [FMap.erase, FMap.get?, h, ih]

theorem FMap.get?_erase_ne (m : FMap α) {i j : Nat} (h : j ≠ i) : FMap.get? (FMap.erase m i) j = FMap.get? m j := by
  induction m with
  | nil => rfl
  | cons x r ih =>
    obtain ⟨k, w⟩ := x
    by_cases hk : k = i
    · have : ¬ i = j := fun e => h e.symm
      simp [FMap.erase, FMap.get?, hk, ih, this]
    · simp [FMap.erase, FMap.get?, hk, ih]

theorem FMap.get?_insert_ne (m : FMap α) {i j : Nat} (v : α) (h : j ≠ i) : FMap.get? (FMap.insert m i v) j = FMap.get? m j := by
  have hij : ¬ i = j := fun e => h e.symm
  induction m with
  | nil => simp [FMap.insert, FMap.get?, hij]
  | cons x r ih =>
    obtain ⟨k, w⟩ := x
    by_cases hk : i < k
    · simp [FMap.insert, FMap.get?, hk, hij]
    · simp [FMap.insert, FMap.get?, hk, ih]

theorem FMap.get?_insert_same (m : FMap α) (i : Nat) (v : α) (h : FMap.get? m i = none) :
    FMap.get? (FMap.insert m i v) i = some v := by
  induction m with
  | nil => simp [FMap.insert, FMap.get?]
  | cons x r ih =>
    obtain ⟨k, w⟩ := x
    have hki : ¬ k = i := fun e => by simp [FMap.get?, e] at h
    have hr : FMap.get? r i = none := by simpa [FMap.get?, hki] using h
    by_cases hk : i < k
    · simp [FMap.insert, FMap.get?, hk]
    · simp [FMap.insert, FMap.get?, hk, hki, ih hr]

@[simp] theorem FMap.get?_set_same (m : FMap α) (i : Nat) (v : α) : FMap.get? (FMap.set m i v) i = some v :=
  FMap.get?_insert_same _ _ _ (FMap.get?_erase_same m i)

theorem FMap.get?_set_ne (m : FMap α) {i j : Nat} (v : α) (h : j ≠ i) : FMap.get? (FMap.set m i v) j = FMap.get? m j := by
  rw [FMap.set, FMap.get?_insert_ne _ _ h, FMap.get?_erase_ne _ h]

@[simp] theorem FMap.get_set_same (m : FMap α) (d v : α) (i : Nat) : FMap.get (FMap.set m i v) d i = v := by
  simp [FMap.get]

theorem FMap.get_set_ne (m : FMap α) (d v : α) {i j : Nat} (h : j ≠ i) : FMap.get (FMap.set m i v) d j = FMap.get m d j := by
  simp [FMap.get, FMap.get?_set_ne m v h]

variable [DecidableEq α]

@[simp] theorem FMap.get_put_same (m : FMap α) (d v : α) (i : Nat) : FMap.get (FMap.put m d i v) d i = v := by
  by_cases h : v = d
  · simp [FMap.put, FMap.get, h, FMap.get?_erase_same]
  · simp [FMap.put, FMap.get, h, FMap.get?_insert_same _ _ _ (FMap.get?_erase_same m i)]

theorem FMap.get_put_ne (m : FMap α) (d v : α) {i j : Nat} (h : j ≠ i) : FMap.get (FMap.put m d i v) d j = FMap.get m d j := by
  by_cases hv : v = d
  · simp [FMap.put, FMap.get, hv, FMap.get?_erase_ne m h]
  · simp [FMap.put, FMap.get, hv, FMap.get?_insert_ne _ v h, FMap.get?_erase_ne m h]

/-! ## The canonical form -/

theorem FMap.wfFrom_mono {d : α} {m : FMap α} {a b : Nat} (hab : a ≤ b) (h : FMap.wfFrom d b m = true) :
    FMap.wfFrom d a m = true := by
  cases m with
  | nil => rfl
  | cons x r =>
    obtain ⟨k, w⟩ := x
    simp only [FMap.wfFrom, Bool.and_eq_true, decide_eq_true_eq] at h ⊢
    exact ⟨⟨by omega, h.1.2⟩, h.2⟩

theorem FMap.wfFrom_erase {d : α} {m : FMap α} {lo : Nat} (i : Nat) (h : FMap.wfFrom d lo m = true) :
    FMap.wfFrom d lo (FMap.erase m i) = true := by
  induction m generalizing lo with
  | nil => rfl
  | cons x r ih =>
    obtain ⟨k, w⟩ := x
    simp only [FMap.wfFrom, Bool.and_eq_true, decide_eq_true_eq] at h
    by_cases hk : k = i
    · simp only [FMap.erase, hk, if_true]
      exact ih (FMap.wfFrom_mono (by omega) h.2)
    · simp only [FMap.erase, hk, if_false, FMap.wfFrom, Bool.and_eq_true, decide_eq_true_eq]
      exact ⟨h.1, ih h.2⟩

theorem FMap.wfFrom_insert {d v : α} {m : FMap α} {lo i : Nat} (hi : lo ≤ i) (hv : v ≠ d)
    (hn : FMap.get? m i = none) (h : FMap.wfFrom d lo m = true) : FMap.wfFrom d lo (FMap.insert m i v) = true := by
  induction m generalizing lo with
  | nil => simp [FMap.insert, FMap.wfFrom, hi, hv]
  | cons x r ih =>
    obtain ⟨k, w⟩ := x
    have hki : ¬ k = i := fun e => by simp [FMap.get?, e] at hn
    have hr : FMap.get? r i = none := by simpa [FMap.get?, hki] using hn
    simp only [FMap.wfFrom, Bool.and_eq_true, decide_eq_true_eq] at h
    by_cases hk : i < k
    · simp only [FMap.insert, hk, if_true, FMap.wfFrom, Bool.and_eq_true, decide_eq_true_eq]
      exact ⟨⟨hi, hv⟩, ⟨by omega, h.1.2⟩, h.2⟩
    · simp only [FMap.insert, hk, if_false, FMap.wfFrom, Bool.and_eq_true, decide_eq_true_eq]
      exact ⟨h.1, ih (by omega) hr h.2⟩

theorem FMap.put_wf {d : α} {m : FMap α} (i : Nat) (v : α) (h : FMap.wf m d = true) : FMap.wf (FMap.put m d i v) d = true := by
  unfold FMap.wf FMap.put at *
  by_cases hv : v = d
  · simpa [hv] using FMap.wfFrom_erase i h
  · simpa [hv] using FMap.wfFrom_insert (Nat.zero_le i) hv (FMap.get?_erase_same m i) (FMap.wfFrom_erase i h)

theorem FMap.filter_wf {d : α} {m : FMap α} {lo : Nat} (p : Nat × α → Bool) (h : FMap.wfFrom d lo m = true) :
    FMap.wfFrom d lo (m.filter p) = true := by
  induction m generalizing lo with
  | nil => rfl
  | cons x r ih =>
    obtain ⟨k, w⟩ := x
    simp only [FMap.wfFrom, Bool.and_eq_true, decide_eq_true_eq] at h
    by_cases hp : p (k, w) = true
    · simp only [List.filter_cons, hp, if_true, FMap.wfFrom, Bool.and_eq_true, decide_eq_true_eq]
      exact ⟨h.1, ih h.2⟩
    · simp only [List.filter_cons, hp]
      exact ih (FMap.wfFrom_mono (by omega) h.2)

end Sys2Proof.Machine
end

