-- ==== Sys2Proof/Laws/State.lean ====
section
/-! SUPPORT. One lemma per field for each update of the state's parts, true by definition: no later proof unfolds a record
update. -/

namespace Sys2Proof.Machine

/-! ## Giving a die a value -/

@[simp] theorem State.setDie_unit (s : State) (i : Nat) (d : Die) : (s.setDie i d).unit = s.unit := rfl
@[simp] theorem State.setDie_issue (s : State) (i : Nat) (d : Die) : (s.setDie i d).issue = s.issue := rfl
@[simp] theorem State.setDie_turn (s : State) (i : Nat) (d : Die) : (s.setDie i d).turn = s.turn := rfl
@[simp] theorem State.setDie_tape (s : State) (i : Nat) (d : Die) : (s.setDie i d).tape = s.tape := rfl
@[simp] theorem State.setDie_agenda (s : State) (i : Nat) (d : Die) : (s.setDie i d).agenda = s.agenda := rfl
@[simp] theorem State.setDie_round (s : State) (i : Nat) (d : Die) : (s.setDie i d).round = s.round := rfl
@[simp] theorem State.setDie_free (s : State) (i : Nat) (d : Die) : (s.setDie i d).free = s.free := rfl
@[simp] theorem State.setDie_nextRid (s : State) (i : Nat) (d : Die) : (s.setDie i d).nextRid = s.nextRid := rfl
@[simp] theorem State.setDie_nextSave (s : State) (i : Nat) (d : Die) : (s.setDie i d).nextSave = s.nextSave := rfl
@[simp] theorem State.setDie_nextHandle (s : State) (i : Nat) (d : Die) : (s.setDie i d).nextHandle = s.nextHandle := rfl
@[simp] theorem State.setDie_nextCopy (s : State) (i : Nat) (d : Die) : (s.setDie i d).nextCopy = s.nextCopy := rfl
@[simp] theorem State.setDie_pkg (s : State) (i : Nat) (d : Die) : (s.setDie i d).pkg = s.pkg := rfl
@[simp] theorem State.setDie_wc (s : State) (i : Nat) (d : Die) : (s.setDie i d).wc = s.wc := rfl
@[simp] theorem State.setDie_mem (s : State) (i : Nat) (d : Die) : (s.setDie i d).mem = s.mem := rfl
@[simp] theorem State.setDie_poisonLines (s : State) (i : Nat) (d : Die) : (s.setDie i d).poisonLines = s.poisonLines := rfl
@[simp] theorem State.setDie_remote (s : State) (i : Nat) (d : Die) : (s.setDie i d).remote = s.remote := rfl
@[simp] theorem State.setDie_lostLines (s : State) (i : Nat) (d : Die) : (s.setDie i d).lostLines = s.lostLines := rfl
@[simp] theorem State.setDie_fmtLines (s : State) (i : Nat) (d : Die) : (s.setDie i d).fmtLines = s.fmtLines := rfl
@[simp] theorem State.setDie_pool (s : State) (i : Nat) (d : Die) : (s.setDie i d).pool = s.pool := rfl
@[simp] theorem State.setDie_poolRanges (s : State) (i : Nat) (d : Die) : (s.setDie i d).poolRanges = s.poolRanges := rfl
@[simp] theorem State.setDie_pwin (s : State) (i : Nat) (d : Die) : (s.setDie i d).pwin = s.pwin := rfl
@[simp] theorem State.setDie_fmtw (s : State) (i : Nat) (d : Die) : (s.setDie i d).fmtw = s.fmtw := rfl
@[simp] theorem State.setDie_tlbinv (s : State) (i : Nat) (d : Die) : (s.setDie i d).tlbinv = s.tlbinv := rfl
@[simp] theorem State.setDie_tlbBusy (s : State) (i : Nat) (d : Die) : (s.setDie i d).tlbBusy = s.tlbBusy := rfl
@[simp] theorem State.setDie_tlbRej (s : State) (i : Nat) (d : Die) : (s.setDie i d).tlbRej = s.tlbRej := rfl
@[simp] theorem State.setDie_fused (s : State) (i : Nat) (d : Die) : (s.setDie i d).fused = s.fused := rfl
@[simp] theorem State.setDie_lpwin (s : State) (i : Nat) (d : Die) : (s.setDie i d).lpwin = s.lpwin := rfl
@[simp] theorem State.setDie_lramp (s : State) (i : Nat) (d : Die) : (s.setDie i d).lramp = s.lramp := rfl
@[simp] theorem State.setDie_upsBegun (s : State) (i : Nat) (d : Die) : (s.setDie i d).upsBegun = s.upsBegun := rfl
@[simp] theorem State.setDie_lastLight (s : State) (i : Nat) (d : Die) : (s.setDie i d).lastLight = s.lastLight := rfl
@[simp] theorem State.setDie_queues (s : State) (i : Nat) (d : Die) : (s.setDie i d).queues = s.queues := rfl
@[simp] theorem State.setDie_lastServed (s : State) (i : Nat) (d : Die) : (s.setDie i d).lastServed = s.lastServed := rfl
@[simp] theorem State.setDie_contexts (s : State) (i : Nat) (d : Die) : (s.setDie i d).contexts = s.contexts := rfl
@[simp] theorem State.setDie_objects (s : State) (i : Nat) (d : Die) : (s.setDie i d).objects = s.objects := rfl
@[simp] theorem State.setDie_coldFetches (s : State) (i : Nat) (d : Die) : (s.setDie i d).coldFetches = s.coldFetches := rfl
@[simp] theorem State.setDie_graphs (s : State) (i : Nat) (d : Die) : (s.setDie i d).graphs = s.graphs := rfl
@[simp] theorem State.setDie_replays (s : State) (i : Nat) (d : Die) : (s.setDie i d).replays = s.replays := rfl
@[simp] theorem State.setDie_saved (s : State) (i : Nat) (d : Die) : (s.setDie i d).saved = s.saved := rfl
@[simp] theorem State.setDie_slotsUsed (s : State) (i : Nat) (d : Die) : (s.setDie i d).slotsUsed = s.slotsUsed := rfl
@[simp] theorem State.setDie_hostCopies (s : State) (i : Nat) (d : Die) : (s.setDie i d).hostCopies = s.hostCopies := rfl
@[simp] theorem State.setDie_fqbase (s : State) (i : Nat) (d : Die) : (s.setDie i d).fqbase = s.fqbase := rfl
@[simp] theorem State.setDie_fqhead (s : State) (i : Nat) (d : Die) : (s.setDie i d).fqhead = s.fqhead := rfl
@[simp] theorem State.setDie_fqtail (s : State) (i : Nat) (d : Die) : (s.setDie i d).fqtail = s.fqtail := rfl
@[simp] theorem State.setDie_fqCount (s : State) (i : Nat) (d : Die) : (s.setDie i d).fqCount = s.fqCount := rfl
@[simp] theorem State.setDie_fqWait (s : State) (i : Nat) (d : Die) : (s.setDie i d).fqWait = s.fqWait := rfl
@[simp] theorem State.setDie_msix (s : State) (i : Nat) (d : Die) : (s.setDie i d).msix = s.msix := rfl
@[simp] theorem State.setDie_trust (s : State) (i : Nat) (d : Die) : (s.setDie i d).trust = s.trust := rfl
@[simp] theorem State.setDie_dies (s : State) (i : Nat) (d : Die) : (s.setDie i d).dies = s.dies.set i d := rfl

/-! ## Changing a die -/

@[simp] theorem State.onDie_unit (s : State) (i : Nat) (f : Die → Die) : (s.onDie i f).unit = s.unit := rfl
@[simp] theorem State.onDie_issue (s : State) (i : Nat) (f : Die → Die) : (s.onDie i f).issue = s.issue := rfl
@[simp] theorem State.onDie_turn (s : State) (i : Nat) (f : Die → Die) : (s.onDie i f).turn = s.turn := rfl
@[simp] theorem State.onDie_tape (s : State) (i : Nat) (f : Die → Die) : (s.onDie i f).tape = s.tape := rfl
@[simp] theorem State.onDie_agenda (s : State) (i : Nat) (f : Die → Die) : (s.onDie i f).agenda = s.agenda := rfl
@[simp] theorem State.onDie_round (s : State) (i : Nat) (f : Die → Die) : (s.onDie i f).round = s.round := rfl
@[simp] theorem State.onDie_free (s : State) (i : Nat) (f : Die → Die) : (s.onDie i f).free = s.free := rfl
@[simp] theorem State.onDie_nextRid (s : State) (i : Nat) (f : Die → Die) : (s.onDie i f).nextRid = s.nextRid := rfl
@[simp] theorem State.onDie_nextSave (s : State) (i : Nat) (f : Die → Die) : (s.onDie i f).nextSave = s.nextSave := rfl
@[simp] theorem State.onDie_nextHandle (s : State) (i : Nat) (f : Die → Die) : (s.onDie i f).nextHandle = s.nextHandle := rfl
@[simp] theorem State.onDie_nextCopy (s : State) (i : Nat) (f : Die → Die) : (s.onDie i f).nextCopy = s.nextCopy := rfl
@[simp] theorem State.onDie_pkg (s : State) (i : Nat) (f : Die → Die) : (s.onDie i f).pkg = s.pkg := rfl
@[simp] theorem State.onDie_wc (s : State) (i : Nat) (f : Die → Die) : (s.onDie i f).wc = s.wc := rfl
@[simp] theorem State.onDie_mem (s : State) (i : Nat) (f : Die → Die) : (s.onDie i f).mem = s.mem := rfl
@[simp] theorem State.onDie_poisonLines (s : State) (i : Nat) (f : Die → Die) : (s.onDie i f).poisonLines = s.poisonLines := rfl
@[simp] theorem State.onDie_remote (s : State) (i : Nat) (f : Die → Die) : (s.onDie i f).remote = s.remote := rfl
@[simp] theorem State.onDie_lostLines (s : State) (i : Nat) (f : Die → Die) : (s.onDie i f).lostLines = s.lostLines := rfl
@[simp] theorem State.onDie_fmtLines (s : State) (i : Nat) (f : Die → Die) : (s.onDie i f).fmtLines = s.fmtLines := rfl
@[simp] theorem State.onDie_pool (s : State) (i : Nat) (f : Die → Die) : (s.onDie i f).pool = s.pool := rfl
@[simp] theorem State.onDie_poolRanges (s : State) (i : Nat) (f : Die → Die) : (s.onDie i f).poolRanges = s.poolRanges := rfl
@[simp] theorem State.onDie_pwin (s : State) (i : Nat) (f : Die → Die) : (s.onDie i f).pwin = s.pwin := rfl
@[simp] theorem State.onDie_fmtw (s : State) (i : Nat) (f : Die → Die) : (s.onDie i f).fmtw = s.fmtw := rfl
@[simp] theorem State.onDie_tlbinv (s : State) (i : Nat) (f : Die → Die) : (s.onDie i f).tlbinv = s.tlbinv := rfl
@[simp] theorem State.onDie_tlbBusy (s : State) (i : Nat) (f : Die → Die) : (s.onDie i f).tlbBusy = s.tlbBusy := rfl
@[simp] theorem State.onDie_tlbRej (s : State) (i : Nat) (f : Die → Die) : (s.onDie i f).tlbRej = s.tlbRej := rfl
@[simp] theorem State.onDie_fused (s : State) (i : Nat) (f : Die → Die) : (s.onDie i f).fused = s.fused := rfl
@[simp] theorem State.onDie_lpwin (s : State) (i : Nat) (f : Die → Die) : (s.onDie i f).lpwin = s.lpwin := rfl
@[simp] theorem State.onDie_lramp (s : State) (i : Nat) (f : Die → Die) : (s.onDie i f).lramp = s.lramp := rfl
@[simp] theorem State.onDie_upsBegun (s : State) (i : Nat) (f : Die → Die) : (s.onDie i f).upsBegun = s.upsBegun := rfl
@[simp] theorem State.onDie_lastLight (s : State) (i : Nat) (f : Die → Die) : (s.onDie i f).lastLight = s.lastLight := rfl
@[simp] theorem State.onDie_queues (s : State) (i : Nat) (f : Die → Die) : (s.onDie i f).queues = s.queues := rfl
@[simp] theorem State.onDie_lastServed (s : State) (i : Nat) (f : Die → Die) : (s.onDie i f).lastServed = s.lastServed := rfl
@[simp] theorem State.onDie_contexts (s : State) (i : Nat) (f : Die → Die) : (s.onDie i f).contexts = s.contexts := rfl
@[simp] theorem State.onDie_objects (s : State) (i : Nat) (f : Die → Die) : (s.onDie i f).objects = s.objects := rfl
@[simp] theorem State.onDie_coldFetches (s : State) (i : Nat) (f : Die → Die) : (s.onDie i f).coldFetches = s.coldFetches := rfl
@[simp] theorem State.onDie_graphs (s : State) (i : Nat) (f : Die → Die) : (s.onDie i f).graphs = s.graphs := rfl
@[simp] theorem State.onDie_replays (s : State) (i : Nat) (f : Die → Die) : (s.onDie i f).replays = s.replays := rfl
@[simp] theorem State.onDie_saved (s : State) (i : Nat) (f : Die → Die) : (s.onDie i f).saved = s.saved := rfl
@[simp] theorem State.onDie_slotsUsed (s : State) (i : Nat) (f : Die → Die) : (s.onDie i f).slotsUsed = s.slotsUsed := rfl
@[simp] theorem State.onDie_hostCopies (s : State) (i : Nat) (f : Die → Die) : (s.onDie i f).hostCopies = s.hostCopies := rfl
@[simp] theorem State.onDie_fqbase (s : State) (i : Nat) (f : Die → Die) : (s.onDie i f).fqbase = s.fqbase := rfl
@[simp] theorem State.onDie_fqhead (s : State) (i : Nat) (f : Die → Die) : (s.onDie i f).fqhead = s.fqhead := rfl
@[simp] theorem State.onDie_fqtail (s : State) (i : Nat) (f : Die → Die) : (s.onDie i f).fqtail = s.fqtail := rfl
@[simp] theorem State.onDie_fqCount (s : State) (i : Nat) (f : Die → Die) : (s.onDie i f).fqCount = s.fqCount := rfl
@[simp] theorem State.onDie_fqWait (s : State) (i : Nat) (f : Die → Die) : (s.onDie i f).fqWait = s.fqWait := rfl
@[simp] theorem State.onDie_msix (s : State) (i : Nat) (f : Die → Die) : (s.onDie i f).msix = s.msix := rfl
@[simp] theorem State.onDie_trust (s : State) (i : Nat) (f : Die → Die) : (s.onDie i f).trust = s.trust := rfl
@[simp] theorem State.onDie_dies (s : State) (i : Nat) (f : Die → Die) : (s.onDie i f).dies = s.dies.set i (f (s.die i)) := rfl

/-! ## Changing the die of the operation issuing -/

@[simp] theorem State.onCur_unit (s : State) (f : Die → Die) : (s.onCur f).unit = s.unit := rfl
@[simp] theorem State.onCur_issue (s : State) (f : Die → Die) : (s.onCur f).issue = s.issue := rfl
@[simp] theorem State.onCur_turn (s : State) (f : Die → Die) : (s.onCur f).turn = s.turn := rfl
@[simp] theorem State.onCur_tape (s : State) (f : Die → Die) : (s.onCur f).tape = s.tape := rfl
@[simp] theorem State.onCur_agenda (s : State) (f : Die → Die) : (s.onCur f).agenda = s.agenda := rfl
@[simp] theorem State.onCur_round (s : State) (f : Die → Die) : (s.onCur f).round = s.round := rfl
@[simp] theorem State.onCur_free (s : State) (f : Die → Die) : (s.onCur f).free = s.free := rfl
@[simp] theorem State.onCur_nextRid (s : State) (f : Die → Die) : (s.onCur f).nextRid = s.nextRid := rfl
@[simp] theorem State.onCur_nextSave (s : State) (f : Die → Die) : (s.onCur f).nextSave = s.nextSave := rfl
@[simp] theorem State.onCur_nextHandle (s : State) (f : Die → Die) : (s.onCur f).nextHandle = s.nextHandle := rfl
@[simp] theorem State.onCur_nextCopy (s : State) (f : Die → Die) : (s.onCur f).nextCopy = s.nextCopy := rfl
@[simp] theorem State.onCur_pkg (s : State) (f : Die → Die) : (s.onCur f).pkg = s.pkg := rfl
@[simp] theorem State.onCur_wc (s : State) (f : Die → Die) : (s.onCur f).wc = s.wc := rfl
@[simp] theorem State.onCur_mem (s : State) (f : Die → Die) : (s.onCur f).mem = s.mem := rfl
@[simp] theorem State.onCur_poisonLines (s : State) (f : Die → Die) : (s.onCur f).poisonLines = s.poisonLines := rfl
@[simp] theorem State.onCur_remote (s : State) (f : Die → Die) : (s.onCur f).remote = s.remote := rfl
@[simp] theorem State.onCur_lostLines (s : State) (f : Die → Die) : (s.onCur f).lostLines = s.lostLines := rfl
@[simp] theorem State.onCur_fmtLines (s : State) (f : Die → Die) : (s.onCur f).fmtLines = s.fmtLines := rfl
@[simp] theorem State.onCur_pool (s : State) (f : Die → Die) : (s.onCur f).pool = s.pool := rfl
@[simp] theorem State.onCur_poolRanges (s : State) (f : Die → Die) : (s.onCur f).poolRanges = s.poolRanges := rfl
@[simp] theorem State.onCur_pwin (s : State) (f : Die → Die) : (s.onCur f).pwin = s.pwin := rfl
@[simp] theorem State.onCur_fmtw (s : State) (f : Die → Die) : (s.onCur f).fmtw = s.fmtw := rfl
@[simp] theorem State.onCur_tlbinv (s : State) (f : Die → Die) : (s.onCur f).tlbinv = s.tlbinv := rfl
@[simp] theorem State.onCur_tlbBusy (s : State) (f : Die → Die) : (s.onCur f).tlbBusy = s.tlbBusy := rfl
@[simp] theorem State.onCur_tlbRej (s : State) (f : Die → Die) : (s.onCur f).tlbRej = s.tlbRej := rfl
@[simp] theorem State.onCur_fused (s : State) (f : Die → Die) : (s.onCur f).fused = s.fused := rfl
@[simp] theorem State.onCur_lpwin (s : State) (f : Die → Die) : (s.onCur f).lpwin = s.lpwin := rfl
@[simp] theorem State.onCur_lramp (s : State) (f : Die → Die) : (s.onCur f).lramp = s.lramp := rfl
@[simp] theorem State.onCur_upsBegun (s : State) (f : Die → Die) : (s.onCur f).upsBegun = s.upsBegun := rfl
@[simp] theorem State.onCur_lastLight (s : State) (f : Die → Die) : (s.onCur f).lastLight = s.lastLight := rfl
@[simp] theorem State.onCur_queues (s : State) (f : Die → Die) : (s.onCur f).queues = s.queues := rfl
@[simp] theorem State.onCur_lastServed (s : State) (f : Die → Die) : (s.onCur f).lastServed = s.lastServed := rfl
@[simp] theorem State.onCur_contexts (s : State) (f : Die → Die) : (s.onCur f).contexts = s.contexts := rfl
@[simp] theorem State.onCur_objects (s : State) (f : Die → Die) : (s.onCur f).objects = s.objects := rfl
@[simp] theorem State.onCur_coldFetches (s : State) (f : Die → Die) : (s.onCur f).coldFetches = s.coldFetches := rfl
@[simp] theorem State.onCur_graphs (s : State) (f : Die → Die) : (s.onCur f).graphs = s.graphs := rfl
@[simp] theorem State.onCur_replays (s : State) (f : Die → Die) : (s.onCur f).replays = s.replays := rfl
@[simp] theorem State.onCur_saved (s : State) (f : Die → Die) : (s.onCur f).saved = s.saved := rfl
@[simp] theorem State.onCur_slotsUsed (s : State) (f : Die → Die) : (s.onCur f).slotsUsed = s.slotsUsed := rfl
@[simp] theorem State.onCur_hostCopies (s : State) (f : Die → Die) : (s.onCur f).hostCopies = s.hostCopies := rfl
@[simp] theorem State.onCur_fqbase (s : State) (f : Die → Die) : (s.onCur f).fqbase = s.fqbase := rfl
@[simp] theorem State.onCur_fqhead (s : State) (f : Die → Die) : (s.onCur f).fqhead = s.fqhead := rfl
@[simp] theorem State.onCur_fqtail (s : State) (f : Die → Die) : (s.onCur f).fqtail = s.fqtail := rfl
@[simp] theorem State.onCur_fqCount (s : State) (f : Die → Die) : (s.onCur f).fqCount = s.fqCount := rfl
@[simp] theorem State.onCur_fqWait (s : State) (f : Die → Die) : (s.onCur f).fqWait = s.fqWait := rfl
@[simp] theorem State.onCur_msix (s : State) (f : Die → Die) : (s.onCur f).msix = s.msix := rfl
@[simp] theorem State.onCur_trust (s : State) (f : Die → Die) : (s.onCur f).trust = s.trust := rfl
@[simp] theorem State.onCur_dies (s : State) (f : Die → Die) : (s.onCur f).dies = s.dies.set s.issue.die (f s.cur) := rfl

/-! ## Events of the machine's own -/

@[simp] theorem State.later_unit (s : State) (u : Nat) (e : Instr) : (s.later u e).unit = s.unit := rfl
@[simp] theorem State.later_issue (s : State) (u : Nat) (e : Instr) : (s.later u e).issue = s.issue := rfl
@[simp] theorem State.later_turn (s : State) (u : Nat) (e : Instr) : (s.later u e).turn = s.turn := rfl
@[simp] theorem State.later_tape (s : State) (u : Nat) (e : Instr) : (s.later u e).tape = s.tape := rfl
@[simp] theorem State.later_round (s : State) (u : Nat) (e : Instr) : (s.later u e).round = s.round := rfl
@[simp] theorem State.later_free (s : State) (u : Nat) (e : Instr) : (s.later u e).free = s.free := rfl
@[simp] theorem State.later_nextRid (s : State) (u : Nat) (e : Instr) : (s.later u e).nextRid = s.nextRid := rfl
@[simp] theorem State.later_nextSave (s : State) (u : Nat) (e : Instr) : (s.later u e).nextSave = s.nextSave := rfl
@[simp] theorem State.later_nextHandle (s : State) (u : Nat) (e : Instr) : (s.later u e).nextHandle = s.nextHandle := rfl
@[simp] theorem State.later_nextCopy (s : State) (u : Nat) (e : Instr) : (s.later u e).nextCopy = s.nextCopy := rfl
@[simp] theorem State.later_pkg (s : State) (u : Nat) (e : Instr) : (s.later u e).pkg = s.pkg := rfl
@[simp] theorem State.later_wc (s : State) (u : Nat) (e : Instr) : (s.later u e).wc = s.wc := rfl
@[simp] theorem State.later_dies (s : State) (u : Nat) (e : Instr) : (s.later u e).dies = s.dies := rfl
@[simp] theorem State.later_mem (s : State) (u : Nat) (e : Instr) : (s.later u e).mem = s.mem := rfl
@[simp] theorem State.later_poisonLines (s : State) (u : Nat) (e : Instr) : (s.later u e).poisonLines = s.poisonLines := rfl
@[simp] theorem State.later_remote (s : State) (u : Nat) (e : Instr) : (s.later u e).remote = s.remote := rfl
@[simp] theorem State.later_lostLines (s : State) (u : Nat) (e : Instr) : (s.later u e).lostLines = s.lostLines := rfl
@[simp] theorem State.later_fmtLines (s : State) (u : Nat) (e : Instr) : (s.later u e).fmtLines = s.fmtLines := rfl
@[simp] theorem State.later_pool (s : State) (u : Nat) (e : Instr) : (s.later u e).pool = s.pool := rfl
@[simp] theorem State.later_poolRanges (s : State) (u : Nat) (e : Instr) : (s.later u e).poolRanges = s.poolRanges := rfl
@[simp] theorem State.later_pwin (s : State) (u : Nat) (e : Instr) : (s.later u e).pwin = s.pwin := rfl
@[simp] theorem State.later_fmtw (s : State) (u : Nat) (e : Instr) : (s.later u e).fmtw = s.fmtw := rfl
@[simp] theorem State.later_tlbinv (s : State) (u : Nat) (e : Instr) : (s.later u e).tlbinv = s.tlbinv := rfl
@[simp] theorem State.later_tlbBusy (s : State) (u : Nat) (e : Instr) : (s.later u e).tlbBusy = s.tlbBusy := rfl
@[simp] theorem State.later_tlbRej (s : State) (u : Nat) (e : Instr) : (s.later u e).tlbRej = s.tlbRej := rfl
@[simp] theorem State.later_fused (s : State) (u : Nat) (e : Instr) : (s.later u e).fused = s.fused := rfl
@[simp] theorem State.later_lpwin (s : State) (u : Nat) (e : Instr) : (s.later u e).lpwin = s.lpwin := rfl
@[simp] theorem State.later_lramp (s : State) (u : Nat) (e : Instr) : (s.later u e).lramp = s.lramp := rfl
@[simp] theorem State.later_upsBegun (s : State) (u : Nat) (e : Instr) : (s.later u e).upsBegun = s.upsBegun := rfl
@[simp] theorem State.later_lastLight (s : State) (u : Nat) (e : Instr) : (s.later u e).lastLight = s.lastLight := rfl
@[simp] theorem State.later_queues (s : State) (u : Nat) (e : Instr) : (s.later u e).queues = s.queues := rfl
@[simp] theorem State.later_lastServed (s : State) (u : Nat) (e : Instr) : (s.later u e).lastServed = s.lastServed := rfl
@[simp] theorem State.later_contexts (s : State) (u : Nat) (e : Instr) : (s.later u e).contexts = s.contexts := rfl
@[simp] theorem State.later_objects (s : State) (u : Nat) (e : Instr) : (s.later u e).objects = s.objects := rfl
@[simp] theorem State.later_coldFetches (s : State) (u : Nat) (e : Instr) : (s.later u e).coldFetches = s.coldFetches := rfl
@[simp] theorem State.later_graphs (s : State) (u : Nat) (e : Instr) : (s.later u e).graphs = s.graphs := rfl
@[simp] theorem State.later_replays (s : State) (u : Nat) (e : Instr) : (s.later u e).replays = s.replays := rfl
@[simp] theorem State.later_saved (s : State) (u : Nat) (e : Instr) : (s.later u e).saved = s.saved := rfl
@[simp] theorem State.later_slotsUsed (s : State) (u : Nat) (e : Instr) : (s.later u e).slotsUsed = s.slotsUsed := rfl
@[simp] theorem State.later_hostCopies (s : State) (u : Nat) (e : Instr) : (s.later u e).hostCopies = s.hostCopies := rfl
@[simp] theorem State.later_fqbase (s : State) (u : Nat) (e : Instr) : (s.later u e).fqbase = s.fqbase := rfl
@[simp] theorem State.later_fqhead (s : State) (u : Nat) (e : Instr) : (s.later u e).fqhead = s.fqhead := rfl
@[simp] theorem State.later_fqtail (s : State) (u : Nat) (e : Instr) : (s.later u e).fqtail = s.fqtail := rfl
@[simp] theorem State.later_fqCount (s : State) (u : Nat) (e : Instr) : (s.later u e).fqCount = s.fqCount := rfl
@[simp] theorem State.later_fqWait (s : State) (u : Nat) (e : Instr) : (s.later u e).fqWait = s.fqWait := rfl
@[simp] theorem State.later_msix (s : State) (u : Nat) (e : Instr) : (s.later u e).msix = s.msix := rfl
@[simp] theorem State.later_trust (s : State) (u : Nat) (e : Instr) : (s.later u e).trust = s.trust := rfl
@[simp] theorem State.later_agenda (s : State) (u : Nat) (e : Instr) : (s.later u e).agenda = s.agenda ++ [{ unit := u, instr := e }] := rfl

/-! ## Changing a queue -/

@[simp] theorem State.onQueue_unit (s : State) (q : Nat) (f : Queue → Queue) : (s.onQueue q f).unit = s.unit := rfl
@[simp] theorem State.onQueue_issue (s : State) (q : Nat) (f : Queue → Queue) : (s.onQueue q f).issue = s.issue := rfl
@[simp] theorem State.onQueue_turn (s : State) (q : Nat) (f : Queue → Queue) : (s.onQueue q f).turn = s.turn := rfl
@[simp] theorem State.onQueue_tape (s : State) (q : Nat) (f : Queue → Queue) : (s.onQueue q f).tape = s.tape := rfl
@[simp] theorem State.onQueue_agenda (s : State) (q : Nat) (f : Queue → Queue) : (s.onQueue q f).agenda = s.agenda := rfl
@[simp] theorem State.onQueue_round (s : State) (q : Nat) (f : Queue → Queue) : (s.onQueue q f).round = s.round := rfl
@[simp] theorem State.onQueue_free (s : State) (q : Nat) (f : Queue → Queue) : (s.onQueue q f).free = s.free := rfl
@[simp] theorem State.onQueue_nextRid (s : State) (q : Nat) (f : Queue → Queue) : (s.onQueue q f).nextRid = s.nextRid := rfl
@[simp] theorem State.onQueue_nextSave (s : State) (q : Nat) (f : Queue → Queue) : (s.onQueue q f).nextSave = s.nextSave := rfl
@[simp] theorem State.onQueue_nextHandle (s : State) (q : Nat) (f : Queue → Queue) : (s.onQueue q f).nextHandle = s.nextHandle := rfl
@[simp] theorem State.onQueue_nextCopy (s : State) (q : Nat) (f : Queue → Queue) : (s.onQueue q f).nextCopy = s.nextCopy := rfl
@[simp] theorem State.onQueue_pkg (s : State) (q : Nat) (f : Queue → Queue) : (s.onQueue q f).pkg = s.pkg := rfl
@[simp] theorem State.onQueue_wc (s : State) (q : Nat) (f : Queue → Queue) : (s.onQueue q f).wc = s.wc := rfl
@[simp] theorem State.onQueue_dies (s : State) (q : Nat) (f : Queue → Queue) : (s.onQueue q f).dies = s.dies := rfl
@[simp] theorem State.onQueue_mem (s : State) (q : Nat) (f : Queue → Queue) : (s.onQueue q f).mem = s.mem := rfl
@[simp] theorem State.onQueue_poisonLines (s : State) (q : Nat) (f : Queue → Queue) : (s.onQueue q f).poisonLines = s.poisonLines := rfl
@[simp] theorem State.onQueue_remote (s : State) (q : Nat) (f : Queue → Queue) : (s.onQueue q f).remote = s.remote := rfl
@[simp] theorem State.onQueue_lostLines (s : State) (q : Nat) (f : Queue → Queue) : (s.onQueue q f).lostLines = s.lostLines := rfl
@[simp] theorem State.onQueue_fmtLines (s : State) (q : Nat) (f : Queue → Queue) : (s.onQueue q f).fmtLines = s.fmtLines := rfl
@[simp] theorem State.onQueue_pool (s : State) (q : Nat) (f : Queue → Queue) : (s.onQueue q f).pool = s.pool := rfl
@[simp] theorem State.onQueue_poolRanges (s : State) (q : Nat) (f : Queue → Queue) : (s.onQueue q f).poolRanges = s.poolRanges := rfl
@[simp] theorem State.onQueue_pwin (s : State) (q : Nat) (f : Queue → Queue) : (s.onQueue q f).pwin = s.pwin := rfl
@[simp] theorem State.onQueue_fmtw (s : State) (q : Nat) (f : Queue → Queue) : (s.onQueue q f).fmtw = s.fmtw := rfl
@[simp] theorem State.onQueue_tlbinv (s : State) (q : Nat) (f : Queue → Queue) : (s.onQueue q f).tlbinv = s.tlbinv := rfl
@[simp] theorem State.onQueue_tlbBusy (s : State) (q : Nat) (f : Queue → Queue) : (s.onQueue q f).tlbBusy = s.tlbBusy := rfl
@[simp] theorem State.onQueue_tlbRej (s : State) (q : Nat) (f : Queue → Queue) : (s.onQueue q f).tlbRej = s.tlbRej := rfl
@[simp] theorem State.onQueue_fused (s : State) (q : Nat) (f : Queue → Queue) : (s.onQueue q f).fused = s.fused := rfl
@[simp] theorem State.onQueue_lpwin (s : State) (q : Nat) (f : Queue → Queue) : (s.onQueue q f).lpwin = s.lpwin := rfl
@[simp] theorem State.onQueue_lramp (s : State) (q : Nat) (f : Queue → Queue) : (s.onQueue q f).lramp = s.lramp := rfl
@[simp] theorem State.onQueue_upsBegun (s : State) (q : Nat) (f : Queue → Queue) : (s.onQueue q f).upsBegun = s.upsBegun := rfl
@[simp] theorem State.onQueue_lastLight (s : State) (q : Nat) (f : Queue → Queue) : (s.onQueue q f).lastLight = s.lastLight := rfl
@[simp] theorem State.onQueue_lastServed (s : State) (q : Nat) (f : Queue → Queue) : (s.onQueue q f).lastServed = s.lastServed := rfl
@[simp] theorem State.onQueue_contexts (s : State) (q : Nat) (f : Queue → Queue) : (s.onQueue q f).contexts = s.contexts := rfl
@[simp] theorem State.onQueue_objects (s : State) (q : Nat) (f : Queue → Queue) : (s.onQueue q f).objects = s.objects := rfl
@[simp] theorem State.onQueue_coldFetches (s : State) (q : Nat) (f : Queue → Queue) : (s.onQueue q f).coldFetches = s.coldFetches := rfl
@[simp] theorem State.onQueue_graphs (s : State) (q : Nat) (f : Queue → Queue) : (s.onQueue q f).graphs = s.graphs := rfl
@[simp] theorem State.onQueue_replays (s : State) (q : Nat) (f : Queue → Queue) : (s.onQueue q f).replays = s.replays := rfl
@[simp] theorem State.onQueue_saved (s : State) (q : Nat) (f : Queue → Queue) : (s.onQueue q f).saved = s.saved := rfl
@[simp] theorem State.onQueue_slotsUsed (s : State) (q : Nat) (f : Queue → Queue) : (s.onQueue q f).slotsUsed = s.slotsUsed := rfl
@[simp] theorem State.onQueue_hostCopies (s : State) (q : Nat) (f : Queue → Queue) : (s.onQueue q f).hostCopies = s.hostCopies := rfl
@[simp] theorem State.onQueue_fqbase (s : State) (q : Nat) (f : Queue → Queue) : (s.onQueue q f).fqbase = s.fqbase := rfl
@[simp] theorem State.onQueue_fqhead (s : State) (q : Nat) (f : Queue → Queue) : (s.onQueue q f).fqhead = s.fqhead := rfl
@[simp] theorem State.onQueue_fqtail (s : State) (q : Nat) (f : Queue → Queue) : (s.onQueue q f).fqtail = s.fqtail := rfl
@[simp] theorem State.onQueue_fqCount (s : State) (q : Nat) (f : Queue → Queue) : (s.onQueue q f).fqCount = s.fqCount := rfl
@[simp] theorem State.onQueue_fqWait (s : State) (q : Nat) (f : Queue → Queue) : (s.onQueue q f).fqWait = s.fqWait := rfl
@[simp] theorem State.onQueue_msix (s : State) (q : Nat) (f : Queue → Queue) : (s.onQueue q f).msix = s.msix := rfl
@[simp] theorem State.onQueue_trust (s : State) (q : Nat) (f : Queue → Queue) : (s.onQueue q f).trust = s.trust := rfl
@[simp] theorem State.onQueue_queues (s : State) (q : Nat) (f : Queue → Queue) : (s.onQueue q f).queues = s.queues.set q (f (s.queue q)) := rfl

/-! ## Changing the management core -/

@[simp] theorem State.onTrust_unit (s : State) (f : Trust → Trust) : (s.onTrust f).unit = s.unit := rfl
@[simp] theorem State.onTrust_issue (s : State) (f : Trust → Trust) : (s.onTrust f).issue = s.issue := rfl
@[simp] theorem State.onTrust_turn (s : State) (f : Trust → Trust) : (s.onTrust f).turn = s.turn := rfl
@[simp] theorem State.onTrust_tape (s : State) (f : Trust → Trust) : (s.onTrust f).tape = s.tape := rfl
@[simp] theorem State.onTrust_agenda (s : State) (f : Trust → Trust) : (s.onTrust f).agenda = s.agenda := rfl
@[simp] theorem State.onTrust_round (s : State) (f : Trust → Trust) : (s.onTrust f).round = s.round := rfl
@[simp] theorem State.onTrust_free (s : State) (f : Trust → Trust) : (s.onTrust f).free = s.free := rfl
@[simp] theorem State.onTrust_nextRid (s : State) (f : Trust → Trust) : (s.onTrust f).nextRid = s.nextRid := rfl
@[simp] theorem State.onTrust_nextSave (s : State) (f : Trust → Trust) : (s.onTrust f).nextSave = s.nextSave := rfl
@[simp] theorem State.onTrust_nextHandle (s : State) (f : Trust → Trust) : (s.onTrust f).nextHandle = s.nextHandle := rfl
@[simp] theorem State.onTrust_nextCopy (s : State) (f : Trust → Trust) : (s.onTrust f).nextCopy = s.nextCopy := rfl
@[simp] theorem State.onTrust_pkg (s : State) (f : Trust → Trust) : (s.onTrust f).pkg = s.pkg := rfl
@[simp] theorem State.onTrust_wc (s : State) (f : Trust → Trust) : (s.onTrust f).wc = s.wc := rfl
@[simp] theorem State.onTrust_dies (s : State) (f : Trust → Trust) : (s.onTrust f).dies = s.dies := rfl
@[simp] theorem State.onTrust_mem (s : State) (f : Trust → Trust) : (s.onTrust f).mem = s.mem := rfl
@[simp] theorem State.onTrust_poisonLines (s : State) (f : Trust → Trust) : (s.onTrust f).poisonLines = s.poisonLines := rfl
@[simp] theorem State.onTrust_remote (s : State) (f : Trust → Trust) : (s.onTrust f).remote = s.remote := rfl
@[simp] theorem State.onTrust_lostLines (s : State) (f : Trust → Trust) : (s.onTrust f).lostLines = s.lostLines := rfl
@[simp] theorem State.onTrust_fmtLines (s : State) (f : Trust → Trust) : (s.onTrust f).fmtLines = s.fmtLines := rfl
@[simp] theorem State.onTrust_pool (s : State) (f : Trust → Trust) : (s.onTrust f).pool = s.pool := rfl
@[simp] theorem State.onTrust_poolRanges (s : State) (f : Trust → Trust) : (s.onTrust f).poolRanges = s.poolRanges := rfl
@[simp] theorem State.onTrust_pwin (s : State) (f : Trust → Trust) : (s.onTrust f).pwin = s.pwin := rfl
@[simp] theorem State.onTrust_fmtw (s : State) (f : Trust → Trust) : (s.onTrust f).fmtw = s.fmtw := rfl
@[simp] theorem State.onTrust_tlbinv (s : State) (f : Trust → Trust) : (s.onTrust f).tlbinv = s.tlbinv := rfl
@[simp] theorem State.onTrust_tlbBusy (s : State) (f : Trust → Trust) : (s.onTrust f).tlbBusy = s.tlbBusy := rfl
@[simp] theorem State.onTrust_tlbRej (s : State) (f : Trust → Trust) : (s.onTrust f).tlbRej = s.tlbRej := rfl
@[simp] theorem State.onTrust_fused (s : State) (f : Trust → Trust) : (s.onTrust f).fused = s.fused := rfl
@[simp] theorem State.onTrust_lpwin (s : State) (f : Trust → Trust) : (s.onTrust f).lpwin = s.lpwin := rfl
@[simp] theorem State.onTrust_lramp (s : State) (f : Trust → Trust) : (s.onTrust f).lramp = s.lramp := rfl
@[simp] theorem State.onTrust_upsBegun (s : State) (f : Trust → Trust) : (s.onTrust f).upsBegun = s.upsBegun := rfl
@[simp] theorem State.onTrust_lastLight (s : State) (f : Trust → Trust) : (s.onTrust f).lastLight = s.lastLight := rfl
@[simp] theorem State.onTrust_queues (s : State) (f : Trust → Trust) : (s.onTrust f).queues = s.queues := rfl
@[simp] theorem State.onTrust_lastServed (s : State) (f : Trust → Trust) : (s.onTrust f).lastServed = s.lastServed := rfl
@[simp] theorem State.onTrust_contexts (s : State) (f : Trust → Trust) : (s.onTrust f).contexts = s.contexts := rfl
@[simp] theorem State.onTrust_objects (s : State) (f : Trust → Trust) : (s.onTrust f).objects = s.objects := rfl
@[simp] theorem State.onTrust_coldFetches (s : State) (f : Trust → Trust) : (s.onTrust f).coldFetches = s.coldFetches := rfl
@[simp] theorem State.onTrust_graphs (s : State) (f : Trust → Trust) : (s.onTrust f).graphs = s.graphs := rfl
@[simp] theorem State.onTrust_replays (s : State) (f : Trust → Trust) : (s.onTrust f).replays = s.replays := rfl
@[simp] theorem State.onTrust_saved (s : State) (f : Trust → Trust) : (s.onTrust f).saved = s.saved := rfl
@[simp] theorem State.onTrust_slotsUsed (s : State) (f : Trust → Trust) : (s.onTrust f).slotsUsed = s.slotsUsed := rfl
@[simp] theorem State.onTrust_hostCopies (s : State) (f : Trust → Trust) : (s.onTrust f).hostCopies = s.hostCopies := rfl
@[simp] theorem State.onTrust_fqbase (s : State) (f : Trust → Trust) : (s.onTrust f).fqbase = s.fqbase := rfl
@[simp] theorem State.onTrust_fqhead (s : State) (f : Trust → Trust) : (s.onTrust f).fqhead = s.fqhead := rfl
@[simp] theorem State.onTrust_fqtail (s : State) (f : Trust → Trust) : (s.onTrust f).fqtail = s.fqtail := rfl
@[simp] theorem State.onTrust_fqCount (s : State) (f : Trust → Trust) : (s.onTrust f).fqCount = s.fqCount := rfl
@[simp] theorem State.onTrust_fqWait (s : State) (f : Trust → Trust) : (s.onTrust f).fqWait = s.fqWait := rfl
@[simp] theorem State.onTrust_msix (s : State) (f : Trust → Trust) : (s.onTrust f).msix = s.msix := rfl
@[simp] theorem State.onTrust_trust (s : State) (f : Trust → Trust) : (s.onTrust f).trust = f s.trust := rfl

/-! ## Raising a vector -/

@[simp] theorem State.raise_unit (s : State) (v : Nat) : (s.raise v).unit = s.unit := rfl
@[simp] theorem State.raise_issue (s : State) (v : Nat) : (s.raise v).issue = s.issue := rfl
@[simp] theorem State.raise_turn (s : State) (v : Nat) : (s.raise v).turn = s.turn := rfl
@[simp] theorem State.raise_tape (s : State) (v : Nat) : (s.raise v).tape = s.tape := rfl
@[simp] theorem State.raise_agenda (s : State) (v : Nat) : (s.raise v).agenda = s.agenda := rfl
@[simp] theorem State.raise_round (s : State) (v : Nat) : (s.raise v).round = s.round := rfl
@[simp] theorem State.raise_free (s : State) (v : Nat) : (s.raise v).free = s.free := rfl
@[simp] theorem State.raise_nextRid (s : State) (v : Nat) : (s.raise v).nextRid = s.nextRid := rfl
@[simp] theorem State.raise_nextSave (s : State) (v : Nat) : (s.raise v).nextSave = s.nextSave := rfl
@[simp] theorem State.raise_nextHandle (s : State) (v : Nat) : (s.raise v).nextHandle = s.nextHandle := rfl
@[simp] theorem State.raise_nextCopy (s : State) (v : Nat) : (s.raise v).nextCopy = s.nextCopy := rfl
@[simp] theorem State.raise_pkg (s : State) (v : Nat) : (s.raise v).pkg = s.pkg := rfl
@[simp] theorem State.raise_wc (s : State) (v : Nat) : (s.raise v).wc = s.wc := rfl
@[simp] theorem State.raise_dies (s : State) (v : Nat) : (s.raise v).dies = s.dies := rfl
@[simp] theorem State.raise_mem (s : State) (v : Nat) : (s.raise v).mem = s.mem := rfl
@[simp] theorem State.raise_poisonLines (s : State) (v : Nat) : (s.raise v).poisonLines = s.poisonLines := rfl
@[simp] theorem State.raise_remote (s : State) (v : Nat) : (s.raise v).remote = s.remote := rfl
@[simp] theorem State.raise_lostLines (s : State) (v : Nat) : (s.raise v).lostLines = s.lostLines := rfl
@[simp] theorem State.raise_fmtLines (s : State) (v : Nat) : (s.raise v).fmtLines = s.fmtLines := rfl
@[simp] theorem State.raise_pool (s : State) (v : Nat) : (s.raise v).pool = s.pool := rfl
@[simp] theorem State.raise_poolRanges (s : State) (v : Nat) : (s.raise v).poolRanges = s.poolRanges := rfl
@[simp] theorem State.raise_pwin (s : State) (v : Nat) : (s.raise v).pwin = s.pwin := rfl
@[simp] theorem State.raise_fmtw (s : State) (v : Nat) : (s.raise v).fmtw = s.fmtw := rfl
@[simp] theorem State.raise_tlbinv (s : State) (v : Nat) : (s.raise v).tlbinv = s.tlbinv := rfl
@[simp] theorem State.raise_tlbBusy (s : State) (v : Nat) : (s.raise v).tlbBusy = s.tlbBusy := rfl
@[simp] theorem State.raise_tlbRej (s : State) (v : Nat) : (s.raise v).tlbRej = s.tlbRej := rfl
@[simp] theorem State.raise_fused (s : State) (v : Nat) : (s.raise v).fused = s.fused := rfl
@[simp] theorem State.raise_lpwin (s : State) (v : Nat) : (s.raise v).lpwin = s.lpwin := rfl
@[simp] theorem State.raise_lramp (s : State) (v : Nat) : (s.raise v).lramp = s.lramp := rfl
@[simp] theorem State.raise_upsBegun (s : State) (v : Nat) : (s.raise v).upsBegun = s.upsBegun := rfl
@[simp] theorem State.raise_lastLight (s : State) (v : Nat) : (s.raise v).lastLight = s.lastLight := rfl
@[simp] theorem State.raise_queues (s : State) (v : Nat) : (s.raise v).queues = s.queues := rfl
@[simp] theorem State.raise_lastServed (s : State) (v : Nat) : (s.raise v).lastServed = s.lastServed := rfl
@[simp] theorem State.raise_contexts (s : State) (v : Nat) : (s.raise v).contexts = s.contexts := rfl
@[simp] theorem State.raise_objects (s : State) (v : Nat) : (s.raise v).objects = s.objects := rfl
@[simp] theorem State.raise_coldFetches (s : State) (v : Nat) : (s.raise v).coldFetches = s.coldFetches := rfl
@[simp] theorem State.raise_graphs (s : State) (v : Nat) : (s.raise v).graphs = s.graphs := rfl
@[simp] theorem State.raise_replays (s : State) (v : Nat) : (s.raise v).replays = s.replays := rfl
@[simp] theorem State.raise_saved (s : State) (v : Nat) : (s.raise v).saved = s.saved := rfl
@[simp] theorem State.raise_slotsUsed (s : State) (v : Nat) : (s.raise v).slotsUsed = s.slotsUsed := rfl
@[simp] theorem State.raise_hostCopies (s : State) (v : Nat) : (s.raise v).hostCopies = s.hostCopies := rfl
@[simp] theorem State.raise_fqbase (s : State) (v : Nat) : (s.raise v).fqbase = s.fqbase := rfl
@[simp] theorem State.raise_fqhead (s : State) (v : Nat) : (s.raise v).fqhead = s.fqhead := rfl
@[simp] theorem State.raise_fqtail (s : State) (v : Nat) : (s.raise v).fqtail = s.fqtail := rfl
@[simp] theorem State.raise_fqCount (s : State) (v : Nat) : (s.raise v).fqCount = s.fqCount := rfl
@[simp] theorem State.raise_fqWait (s : State) (v : Nat) : (s.raise v).fqWait = s.fqWait := rfl
@[simp] theorem State.raise_trust (s : State) (v : Nat) : (s.raise v).trust = s.trust := rfl
@[simp] theorem State.raise_msix (s : State) (v : Nat) : (s.raise v).msix = s.msix.put 0 v (s.msix.get 0 v + 1) := rfl

/-! ## Writing stored bytes -/

@[simp] theorem State.rawWrite_unit (s : State) (ws : List (Nat × Byte)) : (s.rawWrite ws).unit = s.unit := rfl
@[simp] theorem State.rawWrite_issue (s : State) (ws : List (Nat × Byte)) : (s.rawWrite ws).issue = s.issue := rfl
@[simp] theorem State.rawWrite_turn (s : State) (ws : List (Nat × Byte)) : (s.rawWrite ws).turn = s.turn := rfl
@[simp] theorem State.rawWrite_tape (s : State) (ws : List (Nat × Byte)) : (s.rawWrite ws).tape = s.tape := rfl
@[simp] theorem State.rawWrite_agenda (s : State) (ws : List (Nat × Byte)) : (s.rawWrite ws).agenda = s.agenda := rfl
@[simp] theorem State.rawWrite_round (s : State) (ws : List (Nat × Byte)) : (s.rawWrite ws).round = s.round := rfl
@[simp] theorem State.rawWrite_free (s : State) (ws : List (Nat × Byte)) : (s.rawWrite ws).free = s.free := rfl
@[simp] theorem State.rawWrite_nextRid (s : State) (ws : List (Nat × Byte)) : (s.rawWrite ws).nextRid = s.nextRid := rfl
@[simp] theorem State.rawWrite_nextSave (s : State) (ws : List (Nat × Byte)) : (s.rawWrite ws).nextSave = s.nextSave := rfl
@[simp] theorem State.rawWrite_nextHandle (s : State) (ws : List (Nat × Byte)) : (s.rawWrite ws).nextHandle = s.nextHandle := rfl
@[simp] theorem State.rawWrite_nextCopy (s : State) (ws : List (Nat × Byte)) : (s.rawWrite ws).nextCopy = s.nextCopy := rfl
@[simp] theorem State.rawWrite_pkg (s : State) (ws : List (Nat × Byte)) : (s.rawWrite ws).pkg = s.pkg := rfl
@[simp] theorem State.rawWrite_wc (s : State) (ws : List (Nat × Byte)) : (s.rawWrite ws).wc = s.wc := rfl
@[simp] theorem State.rawWrite_dies (s : State) (ws : List (Nat × Byte)) : (s.rawWrite ws).dies = s.dies := rfl
@[simp] theorem State.rawWrite_poisonLines (s : State) (ws : List (Nat × Byte)) : (s.rawWrite ws).poisonLines = s.poisonLines := rfl
@[simp] theorem State.rawWrite_remote (s : State) (ws : List (Nat × Byte)) : (s.rawWrite ws).remote = s.remote := rfl
@[simp] theorem State.rawWrite_lostLines (s : State) (ws : List (Nat × Byte)) : (s.rawWrite ws).lostLines = s.lostLines := rfl
@[simp] theorem State.rawWrite_fmtLines (s : State) (ws : List (Nat × Byte)) : (s.rawWrite ws).fmtLines = s.fmtLines := rfl
@[simp] theorem State.rawWrite_pool (s : State) (ws : List (Nat × Byte)) : (s.rawWrite ws).pool = s.pool := rfl
@[simp] theorem State.rawWrite_poolRanges (s : State) (ws : List (Nat × Byte)) : (s.rawWrite ws).poolRanges = s.poolRanges := rfl
@[simp] theorem State.rawWrite_pwin (s : State) (ws : List (Nat × Byte)) : (s.rawWrite ws).pwin = s.pwin := rfl
@[simp] theorem State.rawWrite_fmtw (s : State) (ws : List (Nat × Byte)) : (s.rawWrite ws).fmtw = s.fmtw := rfl
@[simp] theorem State.rawWrite_tlbinv (s : State) (ws : List (Nat × Byte)) : (s.rawWrite ws).tlbinv = s.tlbinv := rfl
@[simp] theorem State.rawWrite_tlbBusy (s : State) (ws : List (Nat × Byte)) : (s.rawWrite ws).tlbBusy = s.tlbBusy := rfl
@[simp] theorem State.rawWrite_tlbRej (s : State) (ws : List (Nat × Byte)) : (s.rawWrite ws).tlbRej = s.tlbRej := rfl
@[simp] theorem State.rawWrite_fused (s : State) (ws : List (Nat × Byte)) : (s.rawWrite ws).fused = s.fused := rfl
@[simp] theorem State.rawWrite_lpwin (s : State) (ws : List (Nat × Byte)) : (s.rawWrite ws).lpwin = s.lpwin := rfl
@[simp] theorem State.rawWrite_lramp (s : State) (ws : List (Nat × Byte)) : (s.rawWrite ws).lramp = s.lramp := rfl
@[simp] theorem State.rawWrite_upsBegun (s : State) (ws : List (Nat × Byte)) : (s.rawWrite ws).upsBegun = s.upsBegun := rfl
@[simp] theorem State.rawWrite_lastLight (s : State) (ws : List (Nat × Byte)) : (s.rawWrite ws).lastLight = s.lastLight := rfl
@[simp] theorem State.rawWrite_queues (s : State) (ws : List (Nat × Byte)) : (s.rawWrite ws).queues = s.queues := rfl
@[simp] theorem State.rawWrite_lastServed (s : State) (ws : List (Nat × Byte)) : (s.rawWrite ws).lastServed = s.lastServed := rfl
@[simp] theorem State.rawWrite_contexts (s : State) (ws : List (Nat × Byte)) : (s.rawWrite ws).contexts = s.contexts := rfl
@[simp] theorem State.rawWrite_objects (s : State) (ws : List (Nat × Byte)) : (s.rawWrite ws).objects = s.objects := rfl
@[simp] theorem State.rawWrite_coldFetches (s : State) (ws : List (Nat × Byte)) : (s.rawWrite ws).coldFetches = s.coldFetches := rfl
@[simp] theorem State.rawWrite_graphs (s : State) (ws : List (Nat × Byte)) : (s.rawWrite ws).graphs = s.graphs := rfl
@[simp] theorem State.rawWrite_replays (s : State) (ws : List (Nat × Byte)) : (s.rawWrite ws).replays = s.replays := rfl
@[simp] theorem State.rawWrite_saved (s : State) (ws : List (Nat × Byte)) : (s.rawWrite ws).saved = s.saved := rfl
@[simp] theorem State.rawWrite_slotsUsed (s : State) (ws : List (Nat × Byte)) : (s.rawWrite ws).slotsUsed = s.slotsUsed := rfl
@[simp] theorem State.rawWrite_hostCopies (s : State) (ws : List (Nat × Byte)) : (s.rawWrite ws).hostCopies = s.hostCopies := rfl
@[simp] theorem State.rawWrite_fqbase (s : State) (ws : List (Nat × Byte)) : (s.rawWrite ws).fqbase = s.fqbase := rfl
@[simp] theorem State.rawWrite_fqhead (s : State) (ws : List (Nat × Byte)) : (s.rawWrite ws).fqhead = s.fqhead := rfl
@[simp] theorem State.rawWrite_fqtail (s : State) (ws : List (Nat × Byte)) : (s.rawWrite ws).fqtail = s.fqtail := rfl
@[simp] theorem State.rawWrite_fqCount (s : State) (ws : List (Nat × Byte)) : (s.rawWrite ws).fqCount = s.fqCount := rfl
@[simp] theorem State.rawWrite_fqWait (s : State) (ws : List (Nat × Byte)) : (s.rawWrite ws).fqWait = s.fqWait := rfl
@[simp] theorem State.rawWrite_msix (s : State) (ws : List (Nat × Byte)) : (s.rawWrite ws).msix = s.msix := rfl
@[simp] theorem State.rawWrite_trust (s : State) (ws : List (Nat × Byte)) : (s.rawWrite ws).trust = s.trust := rfl

/-! ## Changing a die's c -/

@[simp] theorem Die.onC_seq (d : Die) (f : Ctxt → Ctxt) : (d.onC f).seq = d.seq := rfl
@[simp] theorem Die.onC_cnt (d : Die) (f : Ctxt → Ctxt) : (d.onC f).cnt = d.cnt := rfl
@[simp] theorem Die.onC_gallery (d : Die) (f : Ctxt → Ctxt) : (d.onC f).gallery = d.gallery := rfl
@[simp] theorem Die.onC_tags (d : Die) (f : Ctxt → Ctxt) : (d.onC f).tags = d.tags := rfl
@[simp] theorem Die.onC_corrected (d : Die) (f : Ctxt → Ctxt) : (d.onC f).corrected = d.corrected := rfl
@[simp] theorem Die.onC_bankCls (d : Die) (f : Ctxt → Ctxt) : (d.onC f).bankCls = d.bankCls := rfl
@[simp] theorem Die.onC_bankLast (d : Die) (f : Ctxt → Ctxt) : (d.onC f).bankLast = d.bankLast := rfl
@[simp] theorem Die.onC_sweepAt (d : Die) (f : Ctxt → Ctxt) : (d.onC f).sweepAt = d.sweepAt := rfl
@[simp] theorem Die.onC_prefs (d : Die) (f : Ctxt → Ctxt) : (d.onC f).prefs = d.prefs := rfl
@[simp] theorem Die.onC_port (d : Die) (f : Ctxt → Ctxt) : (d.onC f).port = d.port := rfl
@[simp] theorem Die.onC_temp (d : Die) (f : Ctxt → Ctxt) : (d.onC f).temp = d.temp := rfl
@[simp] theorem Die.onC_l1 (d : Die) (f : Ctxt → Ctxt) : (d.onC f).l1 = d.l1 := rfl
@[simp] theorem Die.onC_tlb (d : Die) (f : Ctxt → Ctxt) : (d.onC f).tlb = d.tlb := rfl
@[simp] theorem Die.onC_task (d : Die) (f : Ctxt → Ctxt) : (d.onC f).task = d.task := rfl
@[simp] theorem Die.onC_lastCtx (d : Die) (f : Ctxt → Ctxt) : (d.onC f).lastCtx = d.lastCtx := rfl
@[simp] theorem Die.onC_preload (d : Die) (f : Ctxt → Ctxt) : (d.onC f).preload = d.preload := rfl
@[simp] theorem Die.onC_load (d : Die) (f : Ctxt → Ctxt) : (d.onC f).load = d.load := rfl
@[simp] theorem Die.onC_cap (d : Die) (f : Ctxt → Ctxt) : (d.onC f).cap = d.cap := rfl
@[simp] theorem Die.onC_half (d : Die) (f : Ctxt → Ctxt) : (d.onC f).half = d.half := rfl
@[simp] theorem Die.onC_halfOn (d : Die) (f : Ctxt → Ctxt) : (d.onC f).halfOn = d.halfOn := rfl
@[simp] theorem Die.onC_sum (d : Die) (f : Ctxt → Ctxt) : (d.onC f).sum = d.sum := rfl
@[simp] theorem Die.onC_peak (d : Die) (f : Ctxt → Ctxt) : (d.onC f).peak = d.peak := rfl
@[simp] theorem Die.onC_dbgBlock (d : Die) (f : Ctxt → Ctxt) : (d.onC f).dbgBlock = d.dbgBlock := rfl
@[simp] theorem Die.onC_links (d : Die) (f : Ctxt → Ctxt) : (d.onC f).links = d.links := rfl
@[simp] theorem Die.onC_fab (d : Die) (f : Ctxt → Ctxt) : (d.onC f).fab = d.fab := rfl
@[simp] theorem Die.onC_gang (d : Die) (f : Ctxt → Ctxt) : (d.onC f).gang = d.gang := rfl
@[simp] theorem Die.onC_powered (d : Die) (f : Ctxt → Ctxt) : (d.onC f).powered = d.powered := rfl
@[simp] theorem Die.onC_groups (d : Die) (f : Ctxt → Ctxt) : (d.onC f).groups = d.groups := rfl
@[simp] theorem Die.onC_groupAt (d : Die) (f : Ctxt → Ctxt) : (d.onC f).groupAt = d.groupAt := rfl
@[simp] theorem Die.onC_c (d : Die) (f : Ctxt → Ctxt) : (d.onC f).c = f d.c := rfl

/-! ## Changing a die's seq -/

@[simp] theorem Die.onSeq_c (d : Die) (f : Seq → Seq) : (d.onSeq f).c = d.c := rfl
@[simp] theorem Die.onSeq_cnt (d : Die) (f : Seq → Seq) : (d.onSeq f).cnt = d.cnt := rfl
@[simp] theorem Die.onSeq_gallery (d : Die) (f : Seq → Seq) : (d.onSeq f).gallery = d.gallery := rfl
@[simp] theorem Die.onSeq_tags (d : Die) (f : Seq → Seq) : (d.onSeq f).tags = d.tags := rfl
@[simp] theorem Die.onSeq_corrected (d : Die) (f : Seq → Seq) : (d.onSeq f).corrected = d.corrected := rfl
@[simp] theorem Die.onSeq_bankCls (d : Die) (f : Seq → Seq) : (d.onSeq f).bankCls = d.bankCls := rfl
@[simp] theorem Die.onSeq_bankLast (d : Die) (f : Seq → Seq) : (d.onSeq f).bankLast = d.bankLast := rfl
@[simp] theorem Die.onSeq_sweepAt (d : Die) (f : Seq → Seq) : (d.onSeq f).sweepAt = d.sweepAt := rfl
@[simp] theorem Die.onSeq_prefs (d : Die) (f : Seq → Seq) : (d.onSeq f).prefs = d.prefs := rfl
@[simp] theorem Die.onSeq_port (d : Die) (f : Seq → Seq) : (d.onSeq f).port = d.port := rfl
@[simp] theorem Die.onSeq_temp (d : Die) (f : Seq → Seq) : (d.onSeq f).temp = d.temp := rfl
@[simp] theorem Die.onSeq_l1 (d : Die) (f : Seq → Seq) : (d.onSeq f).l1 = d.l1 := rfl
@[simp] theorem Die.onSeq_tlb (d : Die) (f : Seq → Seq) : (d.onSeq f).tlb = d.tlb := rfl
@[simp] theorem Die.onSeq_task (d : Die) (f : Seq → Seq) : (d.onSeq f).task = d.task := rfl
@[simp] theorem Die.onSeq_lastCtx (d : Die) (f : Seq → Seq) : (d.onSeq f).lastCtx = d.lastCtx := rfl
@[simp] theorem Die.onSeq_preload (d : Die) (f : Seq → Seq) : (d.onSeq f).preload = d.preload := rfl
@[simp] theorem Die.onSeq_load (d : Die) (f : Seq → Seq) : (d.onSeq f).load = d.load := rfl
@[simp] theorem Die.onSeq_cap (d : Die) (f : Seq → Seq) : (d.onSeq f).cap = d.cap := rfl
@[simp] theorem Die.onSeq_half (d : Die) (f : Seq → Seq) : (d.onSeq f).half = d.half := rfl
@[simp] theorem Die.onSeq_halfOn (d : Die) (f : Seq → Seq) : (d.onSeq f).halfOn = d.halfOn := rfl
@[simp] theorem Die.onSeq_sum (d : Die) (f : Seq → Seq) : (d.onSeq f).sum = d.sum := rfl
@[simp] theorem Die.onSeq_peak (d : Die) (f : Seq → Seq) : (d.onSeq f).peak = d.peak := rfl
@[simp] theorem Die.onSeq_dbgBlock (d : Die) (f : Seq → Seq) : (d.onSeq f).dbgBlock = d.dbgBlock := rfl
@[simp] theorem Die.onSeq_links (d : Die) (f : Seq → Seq) : (d.onSeq f).links = d.links := rfl
@[simp] theorem Die.onSeq_fab (d : Die) (f : Seq → Seq) : (d.onSeq f).fab = d.fab := rfl
@[simp] theorem Die.onSeq_gang (d : Die) (f : Seq → Seq) : (d.onSeq f).gang = d.gang := rfl
@[simp] theorem Die.onSeq_powered (d : Die) (f : Seq → Seq) : (d.onSeq f).powered = d.powered := rfl
@[simp] theorem Die.onSeq_groups (d : Die) (f : Seq → Seq) : (d.onSeq f).groups = d.groups := rfl
@[simp] theorem Die.onSeq_groupAt (d : Die) (f : Seq → Seq) : (d.onSeq f).groupAt = d.groupAt := rfl
@[simp] theorem Die.onSeq_seq (d : Die) (f : Seq → Seq) : (d.onSeq f).seq = f d.seq := rfl

/-! ## Changing a die's cnt -/

@[simp] theorem Die.onCnt_c (d : Die) (f : Counters → Counters) : (d.onCnt f).c = d.c := rfl
@[simp] theorem Die.onCnt_seq (d : Die) (f : Counters → Counters) : (d.onCnt f).seq = d.seq := rfl
@[simp] theorem Die.onCnt_gallery (d : Die) (f : Counters → Counters) : (d.onCnt f).gallery = d.gallery := rfl
@[simp] theorem Die.onCnt_tags (d : Die) (f : Counters → Counters) : (d.onCnt f).tags = d.tags := rfl
@[simp] theorem Die.onCnt_corrected (d : Die) (f : Counters → Counters) : (d.onCnt f).corrected = d.corrected := rfl
@[simp] theorem Die.onCnt_bankCls (d : Die) (f : Counters → Counters) : (d.onCnt f).bankCls = d.bankCls := rfl
@[simp] theorem Die.onCnt_bankLast (d : Die) (f : Counters → Counters) : (d.onCnt f).bankLast = d.bankLast := rfl
@[simp] theorem Die.onCnt_sweepAt (d : Die) (f : Counters → Counters) : (d.onCnt f).sweepAt = d.sweepAt := rfl
@[simp] theorem Die.onCnt_prefs (d : Die) (f : Counters → Counters) : (d.onCnt f).prefs = d.prefs := rfl
@[simp] theorem Die.onCnt_port (d : Die) (f : Counters → Counters) : (d.onCnt f).port = d.port := rfl
@[simp] theorem Die.onCnt_temp (d : Die) (f : Counters → Counters) : (d.onCnt f).temp = d.temp := rfl
@[simp] theorem Die.onCnt_l1 (d : Die) (f : Counters → Counters) : (d.onCnt f).l1 = d.l1 := rfl
@[simp] theorem Die.onCnt_tlb (d : Die) (f : Counters → Counters) : (d.onCnt f).tlb = d.tlb := rfl
@[simp] theorem Die.onCnt_task (d : Die) (f : Counters → Counters) : (d.onCnt f).task = d.task := rfl
@[simp] theorem Die.onCnt_lastCtx (d : Die) (f : Counters → Counters) : (d.onCnt f).lastCtx = d.lastCtx := rfl
@[simp] theorem Die.onCnt_preload (d : Die) (f : Counters → Counters) : (d.onCnt f).preload = d.preload := rfl
@[simp] theorem Die.onCnt_load (d : Die) (f : Counters → Counters) : (d.onCnt f).load = d.load := rfl
@[simp] theorem Die.onCnt_cap (d : Die) (f : Counters → Counters) : (d.onCnt f).cap = d.cap := rfl
@[simp] theorem Die.onCnt_half (d : Die) (f : Counters → Counters) : (d.onCnt f).half = d.half := rfl
@[simp] theorem Die.onCnt_halfOn (d : Die) (f : Counters → Counters) : (d.onCnt f).halfOn = d.halfOn := rfl
@[simp] theorem Die.onCnt_sum (d : Die) (f : Counters → Counters) : (d.onCnt f).sum = d.sum := rfl
@[simp] theorem Die.onCnt_peak (d : Die) (f : Counters → Counters) : (d.onCnt f).peak = d.peak := rfl
@[simp] theorem Die.onCnt_dbgBlock (d : Die) (f : Counters → Counters) : (d.onCnt f).dbgBlock = d.dbgBlock := rfl
@[simp] theorem Die.onCnt_links (d : Die) (f : Counters → Counters) : (d.onCnt f).links = d.links := rfl
@[simp] theorem Die.onCnt_fab (d : Die) (f : Counters → Counters) : (d.onCnt f).fab = d.fab := rfl
@[simp] theorem Die.onCnt_gang (d : Die) (f : Counters → Counters) : (d.onCnt f).gang = d.gang := rfl
@[simp] theorem Die.onCnt_powered (d : Die) (f : Counters → Counters) : (d.onCnt f).powered = d.powered := rfl
@[simp] theorem Die.onCnt_groups (d : Die) (f : Counters → Counters) : (d.onCnt f).groups = d.groups := rfl
@[simp] theorem Die.onCnt_groupAt (d : Die) (f : Counters → Counters) : (d.onCnt f).groupAt = d.groupAt := rfl
@[simp] theorem Die.onCnt_cnt (d : Die) (f : Counters → Counters) : (d.onCnt f).cnt = f d.cnt := rfl

/-! ## Changing a die's fab -/

@[simp] theorem Die.onFab_c (d : Die) (f : Fabric → Fabric) : (d.onFab f).c = d.c := rfl
@[simp] theorem Die.onFab_seq (d : Die) (f : Fabric → Fabric) : (d.onFab f).seq = d.seq := rfl
@[simp] theorem Die.onFab_cnt (d : Die) (f : Fabric → Fabric) : (d.onFab f).cnt = d.cnt := rfl
@[simp] theorem Die.onFab_gallery (d : Die) (f : Fabric → Fabric) : (d.onFab f).gallery = d.gallery := rfl
@[simp] theorem Die.onFab_tags (d : Die) (f : Fabric → Fabric) : (d.onFab f).tags = d.tags := rfl
@[simp] theorem Die.onFab_corrected (d : Die) (f : Fabric → Fabric) : (d.onFab f).corrected = d.corrected := rfl
@[simp] theorem Die.onFab_bankCls (d : Die) (f : Fabric → Fabric) : (d.onFab f).bankCls = d.bankCls := rfl
@[simp] theorem Die.onFab_bankLast (d : Die) (f : Fabric → Fabric) : (d.onFab f).bankLast = d.bankLast := rfl
@[simp] theorem Die.onFab_sweepAt (d : Die) (f : Fabric → Fabric) : (d.onFab f).sweepAt = d.sweepAt := rfl
@[simp] theorem Die.onFab_prefs (d : Die) (f : Fabric → Fabric) : (d.onFab f).prefs = d.prefs := rfl
@[simp] theorem Die.onFab_port (d : Die) (f : Fabric → Fabric) : (d.onFab f).port = d.port := rfl
@[simp] theorem Die.onFab_temp (d : Die) (f : Fabric → Fabric) : (d.onFab f).temp = d.temp := rfl
@[simp] theorem Die.onFab_l1 (d : Die) (f : Fabric → Fabric) : (d.onFab f).l1 = d.l1 := rfl
@[simp] theorem Die.onFab_tlb (d : Die) (f : Fabric → Fabric) : (d.onFab f).tlb = d.tlb := rfl
@[simp] theorem Die.onFab_task (d : Die) (f : Fabric → Fabric) : (d.onFab f).task = d.task := rfl
@[simp] theorem Die.onFab_lastCtx (d : Die) (f : Fabric → Fabric) : (d.onFab f).lastCtx = d.lastCtx := rfl
@[simp] theorem Die.onFab_preload (d : Die) (f : Fabric → Fabric) : (d.onFab f).preload = d.preload := rfl
@[simp] theorem Die.onFab_load (d : Die) (f : Fabric → Fabric) : (d.onFab f).load = d.load := rfl
@[simp] theorem Die.onFab_cap (d : Die) (f : Fabric → Fabric) : (d.onFab f).cap = d.cap := rfl
@[simp] theorem Die.onFab_half (d : Die) (f : Fabric → Fabric) : (d.onFab f).half = d.half := rfl
@[simp] theorem Die.onFab_halfOn (d : Die) (f : Fabric → Fabric) : (d.onFab f).halfOn = d.halfOn := rfl
@[simp] theorem Die.onFab_sum (d : Die) (f : Fabric → Fabric) : (d.onFab f).sum = d.sum := rfl
@[simp] theorem Die.onFab_peak (d : Die) (f : Fabric → Fabric) : (d.onFab f).peak = d.peak := rfl
@[simp] theorem Die.onFab_dbgBlock (d : Die) (f : Fabric → Fabric) : (d.onFab f).dbgBlock = d.dbgBlock := rfl
@[simp] theorem Die.onFab_links (d : Die) (f : Fabric → Fabric) : (d.onFab f).links = d.links := rfl
@[simp] theorem Die.onFab_gang (d : Die) (f : Fabric → Fabric) : (d.onFab f).gang = d.gang := rfl
@[simp] theorem Die.onFab_powered (d : Die) (f : Fabric → Fabric) : (d.onFab f).powered = d.powered := rfl
@[simp] theorem Die.onFab_groups (d : Die) (f : Fabric → Fabric) : (d.onFab f).groups = d.groups := rfl
@[simp] theorem Die.onFab_groupAt (d : Die) (f : Fabric → Fabric) : (d.onFab f).groupAt = d.groupAt := rfl
@[simp] theorem Die.onFab_fab (d : Die) (f : Fabric → Fabric) : (d.onFab f).fab = f d.fab := rfl

/-! ## Changing a die's dbgBlock -/

@[simp] theorem Die.onDebug_c (d : Die) (f : Debug → Debug) : (d.onDebug f).c = d.c := rfl
@[simp] theorem Die.onDebug_seq (d : Die) (f : Debug → Debug) : (d.onDebug f).seq = d.seq := rfl
@[simp] theorem Die.onDebug_cnt (d : Die) (f : Debug → Debug) : (d.onDebug f).cnt = d.cnt := rfl
@[simp] theorem Die.onDebug_gallery (d : Die) (f : Debug → Debug) : (d.onDebug f).gallery = d.gallery := rfl
@[simp] theorem Die.onDebug_tags (d : Die) (f : Debug → Debug) : (d.onDebug f).tags = d.tags := rfl
@[simp] theorem Die.onDebug_corrected (d : Die) (f : Debug → Debug) : (d.onDebug f).corrected = d.corrected := rfl
@[simp] theorem Die.onDebug_bankCls (d : Die) (f : Debug → Debug) : (d.onDebug f).bankCls = d.bankCls := rfl
@[simp] theorem Die.onDebug_bankLast (d : Die) (f : Debug → Debug) : (d.onDebug f).bankLast = d.bankLast := rfl
@[simp] theorem Die.onDebug_sweepAt (d : Die) (f : Debug → Debug) : (d.onDebug f).sweepAt = d.sweepAt := rfl
@[simp] theorem Die.onDebug_prefs (d : Die) (f : Debug → Debug) : (d.onDebug f).prefs = d.prefs := rfl
@[simp] theorem Die.onDebug_port (d : Die) (f : Debug → Debug) : (d.onDebug f).port = d.port := rfl
@[simp] theorem Die.onDebug_temp (d : Die) (f : Debug → Debug) : (d.onDebug f).temp = d.temp := rfl
@[simp] theorem Die.onDebug_l1 (d : Die) (f : Debug → Debug) : (d.onDebug f).l1 = d.l1 := rfl
@[simp] theorem Die.onDebug_tlb (d : Die) (f : Debug → Debug) : (d.onDebug f).tlb = d.tlb := rfl
@[simp] theorem Die.onDebug_task (d : Die) (f : Debug → Debug) : (d.onDebug f).task = d.task := rfl
@[simp] theorem Die.onDebug_lastCtx (d : Die) (f : Debug → Debug) : (d.onDebug f).lastCtx = d.lastCtx := rfl
@[simp] theorem Die.onDebug_preload (d : Die) (f : Debug → Debug) : (d.onDebug f).preload = d.preload := rfl
@[simp] theorem Die.onDebug_load (d : Die) (f : Debug → Debug) : (d.onDebug f).load = d.load := rfl
@[simp] theorem Die.onDebug_cap (d : Die) (f : Debug → Debug) : (d.onDebug f).cap = d.cap := rfl
@[simp] theorem Die.onDebug_half (d : Die) (f : Debug → Debug) : (d.onDebug f).half = d.half := rfl
@[simp] theorem Die.onDebug_halfOn (d : Die) (f : Debug → Debug) : (d.onDebug f).halfOn = d.halfOn := rfl
@[simp] theorem Die.onDebug_sum (d : Die) (f : Debug → Debug) : (d.onDebug f).sum = d.sum := rfl
@[simp] theorem Die.onDebug_peak (d : Die) (f : Debug → Debug) : (d.onDebug f).peak = d.peak := rfl
@[simp] theorem Die.onDebug_links (d : Die) (f : Debug → Debug) : (d.onDebug f).links = d.links := rfl
@[simp] theorem Die.onDebug_fab (d : Die) (f : Debug → Debug) : (d.onDebug f).fab = d.fab := rfl
@[simp] theorem Die.onDebug_gang (d : Die) (f : Debug → Debug) : (d.onDebug f).gang = d.gang := rfl
@[simp] theorem Die.onDebug_powered (d : Die) (f : Debug → Debug) : (d.onDebug f).powered = d.powered := rfl
@[simp] theorem Die.onDebug_groups (d : Die) (f : Debug → Debug) : (d.onDebug f).groups = d.groups := rfl
@[simp] theorem Die.onDebug_groupAt (d : Die) (f : Debug → Debug) : (d.onDebug f).groupAt = d.groupAt := rfl
@[simp] theorem Die.onDebug_dbgBlock (d : Die) (f : Debug → Debug) : (d.onDebug f).dbgBlock = f d.dbgBlock := rfl

end Sys2Proof.Machine
end

