-- ==== Sys2Proof/Laws/Issue.lean ====
section
/-! SUPPORT. Reading a die after an update, what a bundle's issue leaves (`retire_issued`), and what an operation that is
ready answers (`single_ok`): the statements about operations go through these. -/

namespace Sys2Proof.Machine

open Sys2Proof.Safety

/-! ## Dies -/

@[simp] theorem State.die_setDie_same (s : State) (i : Nat) (d : Die) : (s.setDie i d).die i = d := by
  simp [State.die, State.setDie]
theorem State.die_setDie_ne (s : State) {i j : Nat} (d : Die) (h : j ≠ i) : (s.setDie i d).die j = s.die j := by
  simp [State.die, State.setDie, FMap.get_set_ne _ _ _ h]
@[simp] theorem State.die_onDie_same (s : State) (i : Nat) (f : Die → Die) : (s.onDie i f).die i = f (s.die i) := by
  simp [State.onDie]
theorem State.die_onDie_ne (s : State) {i j : Nat} (f : Die → Die) (h : j ≠ i) : (s.onDie i f).die j = s.die j := by
  simp [State.onDie, State.die_setDie_ne _ _ h]
@[simp] theorem State.cur_onCur (s : State) (f : Die → Die) : (s.onCur f).cur = f s.cur := by
  simp [State.cur, State.onCur, State.onDie, State.setDie, State.die]
theorem State.die_onCur_ne (s : State) {j : Nat} (f : Die → Die) (h : j ≠ s.issue.die) : (s.onCur f).die j = s.die j :=
  s.die_onDie_ne f h
theorem State.onCur_package (s : State) (f : Die → Die) : s.onCur f = { s with dies := (s.onCur f).dies } := rfl

/-! ## The slot port's writes touch no register -/

theorem Die.writeRow_c (d : Die) (t : Nat) (ws : List (Nat × Byte)) (r : Nat) : (d.writeRow t ws r).c = d.c := by
  unfold Die.writeRow Die.dropPreload
  simp only []
  repeat' split
  all_goals rfl
theorem Die.writeRow_seq (d : Die) (t : Nat) (ws : List (Nat × Byte)) (r : Nat) : (d.writeRow t ws r).seq = d.seq := by
  unfold Die.writeRow Die.dropPreload
  simp only []
  repeat' split
  all_goals rfl
theorem Die.writeRow_cnt (d : Die) (t : Nat) (ws : List (Nat × Byte)) (r : Nat) : (d.writeRow t ws r).cnt = d.cnt := by
  unfold Die.writeRow Die.dropPreload
  simp only []
  repeat' split
  all_goals rfl

theorem Die.dropPreload_onCnt (d : Die) (f : Counters → Counters) : (d.onCnt f).dropPreload = d.dropPreload.onCnt f := by
  have h : (d.onCnt f).preload = d.preload := rfl
  unfold Die.dropPreload
  rw [h]
  cases d.preload with
  | none => rfl
  | some p =>
    obtain ⟨t, ctx, bank, rows, len, done, src, seg, parked, hasData⟩ := p
    cases hasData <;> rfl

/-- Counting does not touch what a row's write reads or writes. -/
theorem Die.writeRow_onCnt (d : Die) (f : Counters → Counters) (t : Nat) (ws : List (Nat × Byte)) (r : Nat) :
    (d.onCnt f).writeRow t ws r = (d.writeRow t ws r).onCnt f := by
  have hres : (d.onCnt f).reserved r = d.reserved r := rfl
  unfold Die.writeRow
  rw [hres, Die.dropPreload_onCnt]
  cases d.reserved r <;> rfl

theorem Die.dropPreload_onSeq (d : Die) (f : Seq → Seq) : (d.onSeq f).dropPreload = d.dropPreload.onSeq f := by
  have h : (d.onSeq f).preload = d.preload := rfl
  unfold Die.dropPreload
  rw [h]
  cases d.preload with
  | none => rfl
  | some p =>
    obtain ⟨t, ctx, bank, rows, len, done, src, seg, parked, hasData⟩ := p
    cases hasData <;> rfl

/-- Neither does a change of the sequencer. -/
theorem Die.writeRow_onSeq (d : Die) (f : Seq → Seq) (t : Nat) (ws : List (Nat × Byte)) (r : Nat) :
    (d.onSeq f).writeRow t ws r = (d.writeRow t ws r).onSeq f := by
  have hres : (d.onSeq f).reserved r = d.reserved r := rfl
  unfold Die.writeRow
  rw [hres, Die.dropPreload_onSeq]
  cases d.reserved r <;> rfl

theorem foldl_keep {α β γ : Type} (g : β → α → β) (π : β → γ) (h : ∀ b a, π (g b a) = π b) (l : List α) (b : β) :
    π (l.foldl g b) = π b := by
  induction l generalizing b with
  | nil => rfl
  | cons a r ih => rw [List.foldl_cons, ih, h]

theorem Die.gwrite_c (d : Die) (t : Nat) (ws : List (Nat × Byte)) : (d.gwrite t ws).c = d.c :=
  foldl_keep _ Die.c (fun d r => d.writeRow_c t ws r) _ d
theorem Die.gwrite_seq (d : Die) (t : Nat) (ws : List (Nat × Byte)) : (d.gwrite t ws).seq = d.seq :=
  foldl_keep _ Die.seq (fun d r => d.writeRow_seq t ws r) _ d
theorem Die.gwrite_cnt (d : Die) (t : Nat) (ws : List (Nat × Byte)) : (d.gwrite t ws).cnt = d.cnt :=
  foldl_keep _ Die.cnt (fun d r => d.writeRow_cnt t ws r) _ d

theorem foldl_commute {α β : Type} (g : β → α → β) (φ : β → β) (h : ∀ b a, g (φ b) a = φ (g b a)) (l : List α) (b : β) :
    l.foldl g (φ b) = φ (l.foldl g b) := by
  induction l generalizing b with
  | nil => rfl
  | cons a r ih => rw [List.foldl_cons, List.foldl_cons, h, ih]

theorem Die.gwrite_onCnt (d : Die) (f : Counters → Counters) (t : Nat) (ws : List (Nat × Byte)) :
    (d.onCnt f).gwrite t ws = (d.gwrite t ws).onCnt f :=
  foldl_commute (fun (d : Die) r => d.writeRow t ws r) (fun d => d.onCnt f) (fun d r => d.writeRow_onCnt f t ws r) _ d

theorem Die.gwrite_onSeq (d : Die) (f : Seq → Seq) (t : Nat) (ws : List (Nat × Byte)) :
    (d.onSeq f).gwrite t ws = (d.gwrite t ws).onSeq f :=
  foldl_commute (fun (d : Die) r => d.writeRow t ws r) (fun d => d.onSeq f) (fun d r => d.writeRow_onSeq f t ws r) _ d

/-! ## After an issue -/

/-- What `advance` changes: the loop, and where the sequencer goes on. -/
theorem Die.advance_spec (d : Die) (next : Nat) (nf : Bool) :
    ∃ loop pc noFall, d.advance next nf = { d with c := { d.c with loop }, seq := { d.seq with pc, noFall } }
      ∧ (d.c.loop = none → pc = next) := by
  unfold Die.advance
  simp only []
  cases h : d.c.loop with
  | none => exact ⟨_, _, _, rfl, fun _ => rfl⟩
  | some l =>
    simp only []
    repeat' split
    all_goals exact ⟨_, _, _, rfl, fun e => nomatch e⟩

/-- A die behind an issued bundle. -/
theorem Die.afterBundle_spec (d : Die) (us : Nat) (b : Issue) :
    let w := d.seq.gwrites.foldl (fun d ws => d.gwrite us ws) d
    ∃ loop pc noFall decideAt schedAt,
      d.afterBundle us b =
        { w with
          c := { d.c with loop }, cnt := { d.cnt with ibun := d.cnt.ibun + 1 }
          seq := { d.seq with pc, noFall, decideAt, schedAt, held := none, target := none, soft := none, gwrites := [] } }
      ∧ (match d.seq.target with
         | some (t, n) => pc = t ∧ loop = d.c.loop ∧ decideAt = d.seq.cycle + n
         | none => decideAt = d.seq.cycle + 1 ∧ (d.c.loop = none → pc = b.next)) := by
  have hw : d.seq.gwrites.foldl (fun d ws => d.gwrite us ws) (d.onCnt fun k => { k with ibun := bump k.ibun }) =
      (d.seq.gwrites.foldl (fun d ws => d.gwrite us ws) d).onCnt fun k => { k with ibun := bump k.ibun } :=
    foldl_commute (fun (d : Die) ws => d.gwrite us ws) (fun d => d.onCnt fun k => { k with ibun := bump k.ibun })
      (fun d ws => d.gwrite_onCnt _ us ws) _ d
  have hc := foldl_keep (fun (d : Die) ws => d.gwrite us ws) Die.c (fun d ws => d.gwrite_c us ws) d.seq.gwrites d
  have hs := foldl_keep (fun (d : Die) ws => d.gwrite us ws) Die.seq (fun d ws => d.gwrite_seq us ws) d.seq.gwrites d
  have hk := foldl_keep (fun (d : Die) ws => d.gwrite us ws) Die.cnt (fun d ws => d.gwrite_cnt us ws) d.seq.gwrites d
  unfold Die.afterBundle
  simp only []
  rw [hw]
  generalize d.seq.gwrites.foldl (fun d ws => d.gwrite us ws) d = w at hc hs hk
  rw [← hc, ← hs, ← hk]
  cases w.seq.target with
  | some x => exact ⟨w.c.loop, x.1, w.seq.noFall, _, _, rfl, rfl, rfl, rfl⟩
  | none =>
    obtain ⟨loop, pc, nf, ha, hp⟩ := (w.onCnt fun k => { k with ibun := bump k.ibun }).advance_spec b.next b.noFall
    simp only []
    rw [ha]
    exact ⟨loop, pc, nf, _, _, rfl, rfl, hp⟩

/-- An issue leaves what `Issued` says, where no TRAP stood in the bundle. -/
theorem State.retire_issued (s : State) (live : List Op) (h : s.cur.seq.soft = none) : Issued s (s.retire live) := by
  obtain ⟨f, sc, hs, hf⟩ : ∃ (f : Die → Die) (sc : List Score), s.score live = s.onCur f
      ∧ f s.cur = s.cur.onSeq fun q => { q with score := sc } := ⟨_, _, rfl, rfl⟩
  have hcur : (s.score live).cur = s.cur.onSeq fun q => { q with score := sc } := by rw [hs, State.cur_onCur, hf]
  have hus : (s.score live).us (s.score live).issue.die = s.us s.issue.die := by
    show (s.score live).cur.fab.ftc.toNat / 1000 = s.cur.fab.ftc.toNat / 1000
    rw [hcur]; rfl
  have hiss : (s.score live).issue = s.issue := by rw [hs]; rfl
  obtain ⟨loop, pc, nf, da, sa, ha, hfl⟩ := (s.cur.onSeq fun q => { q with score := sc }).afterBundle_spec (s.us s.issue.die) s.issue
  have hsoft : (s.score live).cur.seq.soft = none := by rw [hcur]; exact h
  unfold State.retire
  simp only [hsoft]
  rw [hus, hiss]
  have hc2 : ((s.score live).onCur fun d => d.afterBundle (s.us s.issue.die) s.issue).cur =
      (s.cur.onSeq fun q => { q with score := sc }).afterBundle (s.us s.issue.die) s.issue := by rw [State.cur_onCur, hcur]
  have hfold : (s.cur.onSeq fun q => { q with score := sc }).seq.gwrites.foldl (fun d ws => d.gwrite (s.us s.issue.die) ws)
      (s.cur.onSeq fun q => { q with score := sc }) = (slotWrites s).onSeq fun q => { q with score := sc } :=
    foldl_commute (fun (d : Die) ws => d.gwrite (s.us s.issue.die) ws) (fun d => d.onSeq fun q => { q with score := sc })
      (fun d ws => d.gwrite_onSeq _ _ ws) _ s.cur
  simp only [hfold] at ha
  rw [ha] at hc2
  constructor
  · rw [hs]; rfl
  · intro y hy
    rw [hs]
    exact ((s.onCur f).die_onCur_ne _ hy).trans (s.die_onCur_ne f hy)
  all_goals rw [hc2]
  · rfl
  · rfl
  · rfl
  · rfl
  · have ht : (s.cur.onSeq fun q => { q with score := sc }).seq.target = s.cur.seq.target := rfl
    rw [ht] at hfl
    cases htt : s.cur.seq.target with
    | some x => rw [htt] at hfl; exact hfl
    | none => rw [htt] at hfl; exact hfl

/-- An operation that is ready and has its effect issues. -/
theorem single_ok {s s1 : State} {i : Instr} (hr : Ready s i) (h1 : s1.cur.seq.soft = none) :
    ∃ t, single s i (.ok s1) = .next t ∧ Issued s1 t :=
  ⟨s1.retire [(s.issue.slot, i)], by simp [single, perform, hr.untrapped, hr.flows], s1.retire_issued _ h1⟩

/-- An operation that is ready and finds a precise trap begins it. -/
theorem single_trap {s : State} {i : Instr} {t : Trap} (hr : Ready s i) :
    single s i (.error t) = .next (s.beginTrap s.issue.die t) := by
  simp [single, perform, hr.untrapped, hr.flows]

end Sys2Proof.Machine
end

