-- ==== Sys2Proof/Laws/Memory.lean ====
section
/-! SUPPORT. Memory keeps its canonical form: every operation over memory of Machine/Ops.lean either leaves the stored bytes
alone (`_mem`) or keeps the form (`_wf`). -/

namespace Sys2Proof.Machine

/-! ## Folds -/

/-- A fold of steps that leave the stored bytes alone leaves them alone. -/
theorem foldl_mem {α : Type} (g : State → α → State) (h : ∀ s a, (g s a).mem = s.mem) (l : List α) (s : State) :
    (l.foldl g s).mem = s.mem := by
  induction l generalizing s with
  | nil => rfl
  | cons a r ih => rw [List.foldl_cons, ih, h]

/-- A fold of steps that keep the canonical form keeps it. -/
theorem foldl_wf {α : Type} (g : State → α → State) (h : ∀ s a, Memory.wf s.mem = true → Memory.wf (g s a).mem = true)
    (l : List α) (s : State) (hs : Memory.wf s.mem = true) : Memory.wf (l.foldl g s).mem = true := by
  induction l generalizing s with
  | nil => exact hs
  | cons a r ih => exact ih (g s a) (h s a hs)

/-! ## Stored bytes -/

theorem foldl_put_wf (ws : List (Nat × Byte)) (m : List Host.Cell) (h : Memory.wf m = true) :
    Memory.wf (ws.foldl (fun m w => FMap.put m 0 w.1 w.2) m) = true := by
  induction ws generalizing m with
  | nil => exact h
  | cons w r ih => exact ih _ (FMap.put_wf w.1 w.2 h)

theorem State.rawWrite_wf (s : State) (ws : List (Nat × Byte)) (h : Memory.wf s.mem = true) :
    Memory.wf (s.rawWrite ws).mem = true := foldl_put_wf ws s.mem h

/-- A write to one stored byte: that byte reads as written. -/
theorem State.rawByte_write_same (s : State) (a : Nat) (b : Byte) : (s.rawWrite [(a, b)]).rawByte a = b := by
  simp [State.rawByte, State.rawWrite]

/-- A write to one stored byte: every other stored byte reads as before. -/
theorem State.rawByte_write_ne (s : State) {a x : Nat} (b : Byte) (h : x ≠ a) :
    (s.rawWrite [(a, b)]).rawByte x = s.rawByte x := by
  simpa [State.rawByte, State.rawWrite] using FMap.get_put_ne s.mem 0 b h

/-! ## Operations that leave the stored bytes alone -/

@[simp] theorem State.onLink_mem (s : State) (i d : Nat) (f : Link → Link) : (s.onLink i d f).mem = s.mem := rfl
@[simp] theorem State.poisonLine_mem (s : State) (l : Nat) : (s.poisonLine l).mem = s.mem := by
  unfold State.poisonLine; split <;> rfl
@[simp] theorem State.again_mem (s : State) (u : Nat) (e : Instr) : (s.again u e).mem = s.mem := by
  unfold State.again; split <;> rfl
@[simp] theorem State.digest_mem (s : State) (i peer cls : Nat) (tx : Bool) (p : List Byte) :
    (s.digest i peer cls tx p).mem = s.mem := by
  unfold State.digest; split <;> simp
@[simp] theorem State.requestLs_mem (s : State) (i d ls : Nat) : (s.requestLs i d ls).mem = s.mem := by
  unfold State.requestLs
  simp only []
  split <;> simp
@[simp] theorem State.wakeFull_mem (s : State) (i d : Nat) : (s.wakeFull i d).mem = s.mem := by
  unfold State.wakeFull
  simp only []
  split <;> simp
@[simp] theorem State.enqueueOn_mem (s : State) (i d : Nat) (o : OutPkt) : (s.enqueueOn i d o).mem = s.mem := by
  simp [State.enqueueOn]
@[simp] theorem State.detourDrop_mem (s : State) (i : Nat) : (s.detourDrop i).mem = s.mem := rfl
@[simp] theorem State.spoil_mem (s : State) (i d : Nat) : (s.spoil i d).mem = s.mem := rfl
@[simp] theorem State.spoilTimed_mem (s : State) (i d : Nat) (type : Byte) : (s.spoilTimed i d type).mem = s.mem := by
  unfold State.spoilTimed
  split
  · rfl
  · split <;> rfl
@[simp] theorem State.place_mem (s : State) (i d : Nat) (o : OutPkt) : (s.place i d o).mem = s.mem := by
  have send (l : List OutPkt) (e : Nat) (f : OutPkt → OutPkt) (s : State) :
      (l.foldl (fun s o => s.enqueueOn i e (f o)) s).mem = s.mem := foldl_mem _ (fun s o => State.enqueueOn_mem s i e (f o)) l s
  unfold State.place
  simp only []
  split
  · rfl
  · split
    · exact (send _ _ id _).trans rfl
    · split
      · rfl
      · split
        · exact (send _ _ (fun o => intoDetour _ _ o) _).trans (State.spoilTimed_mem s i d o.pkt.type)
        · rfl
@[simp] theorem State.detourQueue_mem (s : State) (i d : Nat) : (s.detourQueue i d).mem = s.mem :=
  (foldl_mem _ (fun s o => State.place_mem s i d o) _ _).trans rfl
@[simp] theorem State.wakeOff_mem (s : State) (i d ls : Nat) : (s.wakeOff i d ls).mem = s.mem := by
  unfold State.wakeOff
  split <;> simp
@[simp] theorem State.needed_mem (s : State) (i d : Nat) : (s.needed i d).mem = s.mem := by
  unfold State.needed
  simp only []
  split <;> simp
@[simp] theorem State.placeOn_mem (s : State) (i d : Nat) (o : OutPkt) : (s.placeOn i d o).mem = s.mem := by
  unfold State.placeOn
  rw [State.place_mem, State.needed_mem]
@[simp] theorem State.forward_mem (s : State) (i : Nat) (o : OutPkt) : (s.forward i o).mem = s.mem := by
  unfold State.forward
  simp only []
  repeat' split
  all_goals first | rfl | simp
@[simp] theorem State.originate_mem (s : State) (i : Nat) (ch : BitVec 3) (p : Packet) : (s.originate i ch p).mem = s.mem := by
  unfold State.originate
  simp only []
  repeat' split
  all_goals simp
@[simp] theorem State.sendRequest_mem (s : State) (i pa : Nat) (w : Waiter) (type : Byte) (p : List Byte) (rid : Option Nat)
    (poison : Bool) : (s.sendRequest i pa w type p rid poison).mem = s.mem := by
  unfold State.sendRequest
  simp only []
  split <;> simp
@[simp] theorem State.fetchRemote_mem (s : State) (i pa : Nat) : (s.fetchRemote i pa).mem = s.mem := by
  unfold State.fetchRemote; split <;> simp
@[simp] theorem State.readRemote_mem (s : State) (i id : Nat) (pas : List Nat) : (s.readRemote i id pas).mem = s.mem := by
  unfold State.readRemote
  simp only []
  split <;> simp
@[simp] theorem State.dropCopies_mem (s : State) (p : Nat → Bool) : (s.dropCopies p).mem = s.mem := rfl
@[simp] theorem State.l1Set_mem (s : State) (i pa : Nat) (b : L1Byte) : (s.l1Set i pa b).mem = s.mem := rfl
@[simp] theorem State.l1Drop_mem (s : State) (d : Nat) (p : Nat → L1Byte → Bool) : (s.l1Drop d p).mem = s.mem := rfl
@[simp] theorem State.l1DropWt_mem (s : State) (i : Nat) : (s.l1DropWt i).mem = s.mem := by
  unfold State.l1DropWt
  exact foldl_mem _ (fun s d => State.l1Drop_mem s d _) _ s
@[simp] theorem State.l1Fill_mem (s : State) (i line attr : Nat) : (s.l1Fill i line attr).mem = s.mem :=
  foldl_mem _ (fun s _ => by simp only []; split <;> simp) _ s
@[simp] theorem State.takeId_mem (s : State) (i : Nat) : (s.takeId i).mem = s.mem := rfl
@[simp] theorem State.tlbFill_mem (s : State) (i ctx va : Nat) : (s.tlbFill i ctx va).mem = s.mem := by
  unfold State.tlbFill
  simp only []
  repeat' split
  all_goals simp
@[simp] theorem State.tlbFillAll_mem (s : State) (i ctx : Nat) (ps : List Piece) : (s.tlbFillAll i ctx ps).mem = s.mem :=
  foldl_mem _ (fun _ _ => by simp) _ s
@[simp] theorem State.resolveLoad_mem (s : State) (i : Nat) (l : Landing) (held : List Nat → Bool) :
    (s.resolveLoad i l held).1.mem = s.mem := by
  unfold State.resolveLoad
  simp only []
  repeat' split
  all_goals simp
@[simp] theorem State.issueLoad_mem (s : State) (i : Nat) (l : Landing) : (s.issueLoad i l).mem = s.mem := by
  unfold State.issueLoad
  simp only []
  split <;> simp only [State.onDie_mem, State.later_mem, State.resolveLoad_mem, State.takeId_mem]
@[simp] theorem State.l1Refresh_mem (s : State) (i : Nat) (lines : List Nat) : (s.l1Refresh i lines).mem = s.mem :=
  foldl_mem _ (fun s _ => State.l1Drop_mem s _ _) lines s
@[simp] theorem State.countMiss_mem (s : State) (i attr : Nat) : (s.countMiss i attr).mem = s.mem := by
  unfold State.countMiss; split <;> simp
@[simp] theorem State.pendTrap_mem (s : State) (i : Nat) (t : Trap) : (s.pendTrap i t).mem = s.mem := rfl
@[simp] theorem State.storeL1_mem (s : State) (i attr : Nat) (ws : List (Nat × Byte)) : (s.storeL1 i attr ws).mem = s.mem :=
  foldl_mem _ (fun s w => by
    simp only []
    repeat' split
    all_goals simp) ws s
@[simp] theorem State.storeL1All_mem (s : State) (i : Nat) (ws : List (Nat × Nat × Byte)) : (s.storeL1All i ws).mem = s.mem :=
  foldl_mem _ (fun s a => State.storeL1_mem s i a _) _ s
/-- A store resolved as it issues, its bytes that go into the L1 alone held back, changes no stored byte. -/
theorem State.resolveStore_mem (s : State) (i : Nat) (w : Store) (held : List Nat → Bool) (h : ∀ l, l ≠ [] → held l = true) :
    (s.resolveStore i w held).1.mem = s.mem := by
  unfold State.resolveStore
  simp only []
  repeat' split
  all_goals try simp
  rename_i hk hm
  exfalso
  refine hk (Bool.or_eq_true _ _ ▸ Or.inr (h _ fun he => ?_))
  simp only [List.any_eq_true, beq_iff_eq] at hm
  obtain ⟨x, hx, ha⟩ := hm
  exact absurd (List.map_eq_nil_iff.mp he ▸ List.mem_filter.mpr ⟨hx, by simpa using ha⟩) (by simp)
@[simp] theorem State.issueStore_mem (s : State) (i : Nat) (va : W72) (bs : List (Nat × Byte)) (vec : Bool) :
    (s.issueStore i va bs vec).mem = s.mem := by
  unfold State.issueStore
  simp only []
  repeat' split
  all_goals
    try simp only [State.onDie_mem, State.later_mem]
    try rw [State.resolveStore_mem _ _ _ _ (fun l hl => by simpa using hl)]
    try rfl
@[simp] theorem State.failContext_mem (s : State) (i : Nat) (c : Cause) (e : Nat) : (s.failContext i c e).mem = s.mem := rfl
@[simp] theorem State.interruptWaits_mem (s : State) (i : Nat) : (s.interruptWaits i).mem = s.mem := rfl

/-! ## Operations that write at the homes -/

theorem State.encodeLine_wf (s : State) (w : Fmtw) (line : Nat) (bytes : List Byte) (h : Memory.wf s.mem = true) :
    Memory.wf (s.encodeLine w line bytes).mem = true :=
  foldl_wf _ (fun s _ hs => State.rawWrite_wf s _ hs) _ s h

theorem State.dropFmtLine_wf (s : State) (line : Nat) (h : Memory.wf s.mem = true) :
    Memory.wf (s.dropFmtLine line).mem = true := by
  unfold State.dropFmtLine
  simp only []
  repeat' split
  all_goals first | exact State.encodeLine_wf s _ _ _ h | exact h

theorem State.poolBack_wf (s : State) (p : Nat → Bool) (h : Memory.wf s.mem = true) : Memory.wf (s.poolBack p).mem = true := by
  unfold State.poolBack
  split
  · exact h
  · exact State.rawWrite_wf s _ h

theorem State.evictLine_wf (s : State) (line : Nat) (h : Memory.wf s.mem = true) : Memory.wf (s.evictLine line).mem = true :=
  State.poolBack_wf _ _ (State.dropFmtLine_wf s line h)

theorem State.homeByteWrite_wf (s : State) (pa : Nat) (b : Byte) (h : Memory.wf s.mem = true) :
    Memory.wf (s.homeByteWrite pa b).mem = true := by
  unfold State.homeByteWrite
  repeat' split
  all_goals first | exact State.rawWrite_wf s _ h | exact h

theorem State.homeWrite_wf (s : State) (ws : List (Nat × Byte)) (h : Memory.wf s.mem = true) :
    Memory.wf (s.homeWrite ws).mem = true :=
  foldl_wf (fun s (w : Nat × Byte) => s.homeByteWrite w.1 w.2) (fun s w hs => State.homeByteWrite_wf s w.1 w.2 hs) ws s h

theorem State.sendWrites_wf (s : State) (i : Nat) (w : Waiter) (ws : List (Nat × Byte)) (flags group : Nat)
    (bad : Nat → Bool) (h : Memory.wf s.mem = true) : Memory.wf (s.sendWrites i w ws flags group bad).mem = true := by
  unfold State.sendWrites
  exact foldl_wf _ (fun s l hs => by rw [State.sendRequest_mem]; exact hs) _ _ (State.homeWrite_wf s ws h)

theorem State.l1WriteBack_wf (s : State) (d : Nat) (p : Nat → Bool) (h : Memory.wf s.mem = true) :
    Memory.wf (s.l1WriteBack d p).mem = true := by
  unfold State.l1WriteBack
  rw [State.onDie_mem]
  simp only []
  split
  · exact State.homeWrite_wf s _ h
  · exact State.sendWrites_wf _ _ _ _ _ _ _ (State.homeWrite_wf s _ h)

theorem State.l1Purge_wf (s : State) (i : Nat) (lines : List Nat) (h : Memory.wf s.mem = true) :
    Memory.wf (s.l1Purge i lines).mem = true :=
  foldl_wf _ (fun s l hs => by rw [State.l1Drop_mem]; exact State.l1WriteBack_wf s _ _ hs) lines s h

theorem State.l1Evict_wf (s : State) (i d : Nat) (h : Memory.wf s.mem = true) : Memory.wf (s.l1Evict i d).mem = true :=
  State.l1Purge_wf _ _ _ h

theorem State.l1Room_wf (s : State) (i : Nat) (h : Memory.wf s.mem = true) : Memory.wf (s.l1Room i).mem = true := by
  unfold State.l1Room
  exact foldl_wf _ (fun s d hs => foldl_wf _ (fun s _ hs => State.l1Evict_wf s i d hs) _ s hs) _ s h

theorem State.homeWriteAt_wf (s : State) (attr : Nat) (ws : List (Nat × Byte)) (h : Memory.wf s.mem = true) :
    Memory.wf (s.homeWriteAt attr ws).mem = true := by
  unfold State.homeWriteAt
  simp only []
  split
  · exact State.homeWrite_wf s ws h
  · exact foldl_wf _ (fun t l ht => State.evictLine_wf t l ht) _ _ (State.homeWrite_wf s ws h)

theorem State.kernelBoundary_wf (s : State) (h : Memory.wf s.mem = true) : Memory.wf s.kernelBoundary.mem = true := by
  unfold State.kernelBoundary
  exact foldl_wf _ (fun s d hs => by rw [State.l1Drop_mem]; exact State.l1WriteBack_wf s d _ hs) _ s h

/-- What a load reads: it changes no stored byte but those an L1 writes back as it makes room. -/
theorem State.readBytes_wf (s : State) (i attr : Nat) (pas : List (Nat × Option Byte)) (on : Nat → Bool) (h : Memory.wf s.mem = true) :
    Memory.wf (s.readBytes i attr pas on).1.mem = true := by
  have drop (l : List Nat) (s : State) : (l.foldl (fun s pa => s.l1Drop (s.l1Die i pa) fun a b => a == pa && !b.dirty) s).mem = s.mem :=
    foldl_mem _ (fun s pa => State.l1Drop_mem s _ _) l s
  unfold State.readBytes
  simp only []
  split
  · refine State.l1Room_wf _ _ ?_
    rw [foldl_mem _ (fun s l => State.l1Fill_mem s i l attr), drop]
    exact h
  · simp only [drop]
    exact h

theorem State.resolveStore_wf (s : State) (i : Nat) (w : Store) (held : List Nat → Bool) (h : Memory.wf s.mem = true) :
    Memory.wf (s.resolveStore i w held).1.mem = true := by
  unfold State.resolveStore
  simp only []
  repeat' split
  all_goals first | exact State.l1Room_wf _ _ (by simpa using h) | simpa using h

theorem State.engRead_wf (s : State) (i : Nat) (pas : List Nat) (h : Memory.wf s.mem = true) :
    Memory.wf (s.engRead i pas).1.mem = true := by
  exact State.l1Purge_wf s i _ h

theorem State.engWrite_wf (s : State) (i : Nat) (ws : List (Nat × Byte)) (attr : Nat) (h : Memory.wf s.mem = true) :
    Memory.wf (s.engWrite i ws attr).mem = true := by
  exact State.homeWriteAt_wf _ _ _ (State.l1Purge_wf s i _ h)

/-- An access made at once that stores keeps the form, whether it is done or waits. -/
theorem State.storeNow_wf (s : State) (i ctx : Nat) (va : W72) (bs : List Byte) (h : Memory.wf s.mem = true) :
    ∀ t, s.storeNow i ctx va bs = .ok t ∨ s.storeNow i ctx va bs = .wait t → Memory.wf t.mem = true := by
  intro t ht
  unfold State.storeNow at ht
  simp only [] at ht
  repeat' split at ht
  all_goals
    simp only [Got.ok.injEq, Got.wait.injEq, reduceCtorEq, or_false, false_or, or_self] at ht
    try subst ht
  · simpa using h
  · exact h
  · exact State.homeWriteAt_wf _ _ _ (State.l1Room_wf _ _ (by simpa using h))
  · exact State.sendWrites_wf _ _ _ _ _ _ _ (State.homeWriteAt_wf _ _ _ (State.l1Room_wf _ _ (by simpa using h)))

/-- Memory at reset lists nothing and has the form. -/
theorem State.reset_wf : Memory.wf State.reset.mem = true := rfl

end Sys2Proof.Machine
end

