-- ==== Sys2Proof/Tests/Slice0.lean ====
section
/-! SUPPORT. Tests: what the encodings refuse, words written out from the encoding tables, single steps, and for each
statement with hypotheses a state and operands that meet them. Expected results are the spec's own examples or worked by
hand from its rules. -/

namespace Sys2Proof.Tests

open Sys2Proof.Machine Sys2Proof.Safety

set_option maxRecDepth 20000
set_option Elab.async false

/-! ## Small states -/

/-- A shape register as SETSHAPE of a request would leave it (07 Table 7.7). -/
def shape (t r c d : Nat) : Shape :=
  let req : W64 := BitVec.ofNat 64 (r + 2 ^ 16 * c + 2 ^ 32 * d + 2 ^ 56 * t + 2 ^ 60)
  { req, grant := grantOf req 128 128 }
/-- A READY tile of 2 rows and 32 columns. -/
def tile (row : Nat) (t : BitVec 4) : Tile := { base := BitVec.ofNat 18 row, rows := 2, cols := 32, type := t, state := .ready }

/-- Registers with corner values, shapes of several types, tiles of several types, a subcube of the package's four
dimensions and one wheel position. -/
def regs : Ctxt :=
  { s := [(1, 0x8000000000000000), (2, 0xFFFFFFFFFFFFFFFF), (3, 3), (4, 64), (5, 2)]
    a := [(1, 0x20000000), (2, 0x20000100), (3, 0x20000001), (4, 0x4000000), (5, 1)]
    p := [(1, true)]
    h := [(0, shape 3 2 2 2), (1, shape 9 2 2 2), (2, shape 3 2 0 2), (4, shape 0 2 2 2), (5, shape 4 2 2 2), (6, shape 9 0 0 0), (7, shape 8 2 2 2)]
    v := [(1, 0x0000000200000001), (2, 0x0000000100000003), (3, 0x00000100)]
    tiles := [(1, tile 0x100 9), (2, tile 0x200 9), (3, tile 0x300 3), (4, tile 0x400 8), (5, tile 0x500 0), (6, tile 0x600 11),
              (7, tile 0x700 11), (8, tile 0x800 13), (10, { tile 0xA00 9 with state := .empty })]
    scm := 0xF, wheel := 0x10100 }

/-- The task a die runs: pinned, of context 1. -/
def someTask : DieTask :=
  { task := { rid := 1, node := 0, ordinal := 0, tuple := [] }, ctx := 1, slot := 0, pinned := true, started := true }

/-- Page tables in host memory: one table that stands for itself down to level 3, where 1 GiB from 0x20000000 on is mapped. -/
def tables : List Host.Cell :=
  [(0x30000000000000, 1), (0x30000000000006, 0x30), (0x30000000000008, 0x3B), (0x3000000000000B, 0x40), (0x3000000000000E, 0x30)]

/-- Context 1, with its root and a save area. -/
def ctx1 : Context :=
  { root := 0x30000000000000, scm := 0xF, lxor := 0, lperm := 0xDCBA9876543210, anchor := 0, wbase := 0, wstep := 1, wcount := 1
    savebase := 0x28000000, saven := 4, xkey := 1, arenava := 0 }

/-- A package in PS0 whose die 0 runs a task of context 1. -/
def w (slot : Slot) (c : Ctxt := regs) (q : Seq := { run := .running }) : State :=
  { issue := { slot, addr := 0x1000, next := 0x1008, lits := [7, 0xFFFFFFFF, 5] }
    dies := [(0, { c, seq := q, task := some someTask, powered := true, groups := 8 })]
    contexts := [(1, ctx1)], mem := tables, trust := { start := 0, step := 0 } }

/-! ## Readiness, decided -/

/-- Whether an operation alone in its bundle issues. -/
def readyB (s : State) (i : Instr) : Bool :=
  (s.issueTrap [(s.issue.slot, i)] [(s.issue.slot, i)]).isNone && !s.mustStall [(s.issue.slot, i)] && s.cur.seq.soft.isNone
    && s.cur.seq.target.isNone && s.cur.seq.gwrites.isEmpty

theorem ready_of {s : State} {i : Instr} (h : readyB s i = true) : Ready s i := by
  simp only [readyB, Bool.and_eq_true, Bool.not_eq_true', Option.isNone_iff_eq_none, List.isEmpty_iff] at h
  obtain ⟨⟨⟨⟨h1, h2⟩, h3⟩, h4⟩, h5⟩ := h
  exact ⟨h1, h2, h3, h4, h5⟩

theorem ready_all {s : State} {l : List Instr} (h : l.all (readyB s) = true) : ∀ i ∈ l, Ready s i :=
  fun i hi => ready_of (List.all_eq_true.mp h i hi)

/-- An access that ends well, with a result that passes a test. -/
def okB {α : Type} (x : Got α) (p : α → Bool) : Bool := match x with | .ok a => p a | _ => false
theorem ok_got {α : Type} {x : Got α} (p : α → Bool) (h : okB x p = true) : ∃ a, x = .ok a ∧ p a = true := by
  unfold okB at h; split at h
  · exact ⟨_, rfl, h⟩
  · cases h
/-- An access that ends in a fault. -/
def faultB {α : Type} (x : Got α) : Bool := match x with | .fault _ _ => true | _ => false
theorem fault_of {α : Type} {x : Got α} (h : faultB x = true) : ∃ c va, x = .fault c va := by
  unfold faultB at h; split at h
  · exact ⟨_, _, rfl⟩
  · cases h

/-- An answer that passes a test, or an error that does. -/
def exB {ε α : Type} (x : Except ε α) (e : ε → Bool) (p : α → Bool) : Bool := match x with | .error c => e c | .ok a => p a
/-- The addresses of an access. -/
def addrsB (x : Addrs) (p : List (Nat × Nat) → Bool) : Bool := match x with | .ok l => p l | _ => false


/-! ## What is ill formed -/

theorem test_selectorDestination : (Instr.add { d := 63 }).problem = some .selectorDestination ∧ (Instr.vadd { vd := 31 }).problem = some .selectorDestination := by decide
theorem test_registerField : (Instr.aadd { a := 32 }).problem = some .registerField ∧ (Instr.cas { opnd := 62 }).problem = some .registerField := by decide
theorem test_unusedField : (Instr.add { fn := 1 }).problem = some .unusedField ∧ (Instr.add { lit := 1 }).problem = some .unusedField := by decide
theorem test_reservedValue : (Instr.shli { imm := 64 }).problem = some .reservedValue ∧ (Instr.node { fn := 7 }).problem = some .reservedValue := by decide
theorem test_reservedType : (Instr.vadd { type := 9 }).problem = some .reservedType ∧ (Instr.mma { fmt := 4 }).problem = some .reservedType := by decide
theorem test_landingField : (Instr.ld 3 { land := 0 }).problem = some .landingField ∧ (Instr.amo { res := 1, land := 0 }).problem = some .landingField := by decide
theorem test_reservedSpace : (Instr.vld { space := 2 }).problem = some .reservedSpace ∧ (Instr.vgld { space := 1 }).problem = some .reservedSpace := by decide
theorem test_reservedLevel : (Instr.cnest { level := 6 }).problem = some .reservedLevel := by decide
theorem test_dimensionField : (Instr.xch { dima := 15, dimb := 15 }).problem = some .dimensionField ∧ (Instr.grs { dima := 2, dimb := 1, recv := 1 }).problem = some .dimensionField := by
  decide
theorem test_sameTile : (Instr.tcvt { tile := 5, tile2 := 5 }).problem = none ∧ (Instr.sib { send := 3, recv := 3 }).problem = some .sameTile := by decide
theorem test_unassigned : (Instr.ld 7 { land := 1 }).problem = some .unassigned := by decide
theorem test_systemIndex : (Instr.sysr { imm := 4 }).problem = some .systemIndex ∧ (Instr.sysw { imm := 0x48 }).problem = some .systemIndex := by decide
theorem test_eventRange : (Instr.doorbell 64 0).problem = some .eventRange ∧ (Instr.lctlRemap 0 14).problem = some .eventRange := by decide

/-! ## Words, put together from the encoding tables and the listings of 13, 14, 15, 18 and 19 -/

theorem test_words : Obligations.WordsDecode := by unfold Obligations.WordsDecode; exact ⟨rfl, rfl, rfl, rfl, rfl, rfl, rfl, rfl⟩
/-- 14 Table 14.7. -/
theorem test_word_loop : decodeBundle [0x01, 0x00, 0x74, 0x06, 0x15, 0x08] = .ok { slots := [⟨.s, {}, .ok (.loop { d := 6, a := 20, imm := 0x081 })⟩], lits := [], len := 6 } := rfl
theorem test_word_cmpi : decodeBundle [0x01, 0x00, 0x2E, 0xC3, 0x21, 0x00] = .ok { slots := [⟨.s, {}, .ok (.cmpi { d := 3, a := 7, imm := 2 })⟩], lits := [], len := 6 } := rfl
theorem test_word_fend : decodeBundle [0x01, 0x00, 0x75, 0x00, 0x00, 0x00] = .ok { slots := [⟨.s, {}, .ok .fend⟩], lits := [], len := 6 } := rfl
/-- 19: the first VMAC with its literal, and VLD beside AADDI. -/
theorem test_word_vmac : decodeBundle [0x42, 0x00, 0x05, 0x29, 0xFC, 0x84, 0x08, 0x01, 0x00, 0x00, 0x00] =
    .ok { slots := [⟨.v0, {}, .ok (.vmac { vd := 9, va := 1, vb := 31, vc := 9, shape := 1, type := 2 })⟩], lits := [1], len := 11 } := rfl
theorem test_word_vld : decodeBundle [0x03, 0x00, 0x39, 0x84, 0x20, 0x00, 0x00, 0x48, 0x41, 0x20, 0x20, 0x00] =
    .ok { slots := [⟨.s, {}, .ok (.aaddi { d := 4, a := 2, imm := 2 })⟩, ⟨.v0, {}, .ok (.vld { v := 1, addr := 2, land := 8, shape := 1 })⟩], lits := [], len := 12 } := rfl
/-- 19: an XCC and an XDIG. -/
theorem test_word_xcc : decodeBundle [0x10, 0x00, 0x51, 0xBC, 0x00, 0x04, 0x00, 0x01] =
    .ok { slots := [⟨.c0, {}, .ok (.xcc { dima := 1, dimb := 15, send := 2, recv := 1, op := 4 })⟩], lits := [], len := 8 } := rfl
theorem test_word_xdig : decodeBundle [0x10, 0x00, 0x15, 0x04, 0x00, 0x24, 0x00, 0x00] =
    .ok { slots := [⟨.c0, {}, .ok (.xdig { dima := 0, dimb := 1, recv := 9 })⟩], lits := [], len := 8 } := rfl
/-- The listings of 16 and 17. -/
theorem test_word_tfill : decodeBundle [0x08, 0x00, 0x96, 0x01, 0x00, 0x80, 0xA0, 0x04] = .ok { slots := [⟨.m, {}, .ok (.tfill { tile := 6, shape := 2, imm := 0x25 })⟩], lits := [], len := 8 } := rfl
theorem test_word_cnest : decodeBundle [0x10, 0x00, 0x01, 0x50, 0x16, 0x06, 0x00, 0x00] = .ok { slots := [⟨.c0, {}, .ok (.cnest { bound := 10, sstride := 11, dstride := 12 })⟩], lits := [], len := 8 } := rfl
theorem test_word_bind : decodeBundle [0x10, 0x00, 0x28, 0x64, 0x00, 0x00, 0x00, 0x34] = .ok { slots := [⟨.c0, {}, .ok (.bind { src := 4, dst := 3, flags := 0x340 })⟩], lits := [], len := 8 } := rfl
theorem test_word_waita : decodeBundle [0x50, 0x00, 0x2B, 0xE4, 0xA7, 0x02, 0x01, 0x00, 0x01, 0x00, 0x00, 0x00] =
    .ok { slots := [⟨.c0, {}, .ok (.waita { addr := 4, opnd := 63, res := 20, land := 1, op := 2 })⟩], lits := [1], len := 12 } := rfl
/-- 13 Table 13.6: slot byte 1 changed to 0x47. -/
theorem test_word_unassigned : decodeBundle [0x01, 0x00, 0x47, 0x8A, 0x10, 0x04] = .ok { slots := [⟨.s, {}, .bad .unassigned⟩], lits := [], len := 6 } := rfl

/-! ## A step from a word placed where the machine fetches -/

/-- FEND and ADDI s7, s7, 1 as the first bundle after reset, each a word of the opcode table's bits. -/
theorem test_step_fend : (match step (State.reset.withFetchWord 48 0x000000750001) with | .next t => (t.die 0).seq.run == .ending | _ => false) = true := by decide +kernel
theorem test_step_addi : (match step (State.reset.withFetchWord 48 0x0011C7030001) with
    | .next t => (t.die 0).seq.pend.map (·.write) == [.s 7 1] | _ => false) = true := by decide +kernel
/-- An unassigned opcode traps ILLEGAL, and with no handler the context fails (10 R256). -/
theorem test_step_unassigned : (match step (State.reset.withFetchWord 48 0x000000470001) with | .next t => (t.die 0).seq.endCause == some (.failed .illegal 0) | _ => false) = true := by
  decide +kernel

/-! ## Examples of the spec -/

/-- 03 R73. -/
theorem test_digest : crc64 0 [0x31, 0x32, 0x33, 0x34, 0x35, 0x36, 0x37, 0x38, 0x39] = 0x6C40DF5F0B497347 := by decide +kernel
/-- 02: lanes 2, 7 and 11 failed. -/
theorem test_lanes : beatsOf 13 = 5 ∧ (let wire := stripe 0xF77B ((List.range 64).map (BitVec.ofNat 8))
    wire.length = 5 ∧ (9, 20) ∈ wire.getD 1 [] ∧ (14, 63) ∈ wire.getD 4 [] ∧ wire.getD 4 [] = [(0, 52), (1, 53), (3, 54), (4, 55), (5, 56), (6, 57), (8, 58), (9, 59), (10, 60), (12, 61), (13, 62), (14, 63), (15, 0)]) := by decide
/-- 08: a home slice. -/
theorem test_homeSlice : homeSlice 0x123456780 = 15 := by decide
/-- 07: SETSHAPE with 100 rows, 37 columns and depth 1,000 on BF16, and with 200 columns in half-array mode. -/
theorem test_grant : grantOf (packBits [(0, 16, 100), (16, 16, 37), (32, 24, 1000), (56, 4, 7), (60, 1, 1)]) 128 128 =
    packBits [(0, 8, 104), (8, 8, 40), (16, 15, 1000), (32, 10, 40), (42, 3, 4), (45, 3, 5), (48, 3, 0), (51, 3, 5), (54, 1, 0)] := by decide +kernel
theorem test_grant_capped : (grantOf (packBits [(16, 16, 200), (56, 4, 7), (60, 1, 1)]) 128 64).extractLsb' 8 8 = 64 ∧
    (grantOf (packBits [(16, 16, 200), (56, 4, 7), (60, 1, 1)]) 128 64).getLsbD 54 := by decide +kernel
/-- 19: the request of shm and its grant. -/
theorem test_grant_cb4 : grantOf 0x1B001000000C0014 128 128 = 0x0020901010001018 := by decide +kernel
/-- 11: a BS8 element 0x7E under scale 0x7C0 has the value 56, in fp32 0x42600000. -/
theorem test_blockElement : decodeElem fp32 e4m3 0x7C0 0x7E = 0x42600000 := by decide +kernel

/-! ## Single operations -/

/-- The register writes an operation leaves to take effect. -/
def writesOf (i : Instr) (s : State) : List RegWrite := match runOp i s with | .ok t => t.cur.seq.pend.map (·.write) | .error _ => []

/-- 2^64 − 1 and 1 make 0; the most negative number divided by −1 (14 R345). -/
theorem test_addi_wraps : writesOf (.addi { d := 7, a := 2, imm := 1 }) (w .s) = [.s 7 0] := by decide +kernel
theorem test_divs_corner : writesOf (.divs { d := 7, a := 1, b := 2 }) (w .s) = [.s 7 0x8000000000000000] := by decide +kernel
/-- 15 Table 15.3: the reduction tree gives 2.0 with NX. -/
theorem test_vreda_tree : (match runOp (.vreda { vd := 2, va := 1, shape := 1, type := 9 })
      (w .v0 { h := [(1, shape 9 1 5 0)], v := [(1, 0x7FC00000_7FC00000_7FC00000_3F800000_CB800000_3F800000_3F800000_4B800000)] }) with
    | .ok t => (t.cur.seq.pend.map fun p => match p.write with | .v 2 x m => ((x &&& m).toNat % 2 ^ 32, m.toNat) | _ => (0, 0)) == [(0x40000000, 2 ^ 32 - 1)] && t.ctx.vstat != 0
    | .error _ => false) = true := by decide +kernel
/-- A write of the value an unlisted byte reads as is not listed (assumption 2). -/
theorem test_memory_canonical : ((w .s).rawWrite [(0x30000000000000, 0)]).mem.length = 4 ∧ Memory.wf ((w .s).rawWrite [(7, 1), (3, 2)]).mem = true := by decide +kernel
/-! ## Hypotheses of the statements about slot operations: what is met, clause by clause -/

theorem meets_ScalarIntegerAndBitResults : ∀ i ∈ ([
    .add { d := 5, a := 1, b := 63, lit := 1 }, .sub { d := 5, a := 1, b := 2 }, .addi { d := 5, a := 2, imm := 0x800 }, .mul { d := 5, a := 1, b := 2 },
    .mulhs { d := 5, a := 1, b := 2 }, .mulhb { d := 5, a := 1, b := 2 }, .min { d := 5, a := 1, b := 2 }, .max { d := 5, a := 1, b := 2 },
    .minb { d := 5, a := 1, b := 2 }, .maxb { d := 0, a := 1, b := 2 }, .and { d := 5, a := 1, b := 2 }, .or { d := 5, a := 1, b := 2 },
    .xor { d := 5, a := 1, b := 2 }, .andi { d := 5, a := 1, imm := 0x800 }, .ori { d := 5, a := 1, imm := 0x800 }, .xori { d := 5, a := 1, imm := 0x7FF },
    .brev { d := 5, a := 1 }, .exts { d := 5, a := 1, fn := 2 }, .mov { d := 62, a := 63, lit := 2 }, .sel { d := 5, a := 1, b := 2, fn := 15 }] : List Instr),
    Ready (w .s) i := ready_all (by decide +kernel)

theorem meets_DivisionShiftAndFieldResults :
    (∀ i ∈ ([.divs { a := 1 }, .divs { a := 1, b := 2 }, .divs { a := 1, b := 3 }, .divb { a := 1 }, .divb { a := 1, b := 2 }, .rems { a := 1 },
      .rems { a := 1, b := 2 }, .remb { a := 1 }, .remb { a := 1, b := 3 }, .shl { a := 1, b := 4 }, .shl { a := 1, b := 3 }, .shr { a := 1, b := 4 },
      .shr { a := 1, b := 3 }, .sar { a := 1, b := 4 }, .sar { a := 1, b := 3 }, .shli { imm := 63 }, .shri { imm := 63 }, .sari { imm := 63 },
      .bfx { a := 1, imm := 0xFC0 }, .bfx { a := 1, imm := 63 }, .bfi { a := 1, imm := 0xFC0 }, .clz {}, .clz { a := 1 }, .popc { a := 2 }] : List Instr),
      Ready (w .s) i) ∧
    (w .s).srcS 0 = 0 ∧ ((w .s).srcS 1).toInt = -2 ^ 63 ∧ ((w .s).srcS 2).toInt = -1 ∧ (w .s).srcS 3 = 3 ∧ ((w .s).srcS 4).toNat = 64 :=
  ⟨ready_all (by decide +kernel), by decide +kernel⟩

theorem meets_PredicateLiteralAndAddressResults :
    (∀ i ∈ ((List.range 12).map fun k => Instr.cmp { d := 1, a := 1, b := 2, fn := BitVec.ofNat 4 k }) ++
      ((List.range 8).map fun k => Instr.cmpi { d := 15, a := 1, imm := BitVec.ofNat 12 (512 * k + 511) }), Ready (w .s) i) ∧
    (∀ i ∈ ([.pand { pd := 0, pa := 1, fn := 7 }, .por { pd := 15, fn := 7 }, .pxor { fn := 0 }, .pnot { pa := 1 }, .movl { d := 5, word := 2 },
      .movl { d := 5, word := 1, width := 1 }, .movl { d := 5, word := 1, width := 2 }, .alit { d := 5 }, .alit { width := 1, word := 1 },
      .alit { width := 2 }, .alit { d := 30, width := 3 }, .aadd { d := 5, a := 31, b := 1 }, .aaddi { d := 5, a := 1, imm := 0x800 },
      .amov { a := 2 }, .amov { a := 2, fn := 1 }, .amov { d := 5, a := 1, fn := 2 }, .amov { a := 31, fn := 3 }, .amov { a := 1, fn := 4 },
      .adiff { d := 5, a := 1, b := 31 }] : List Instr), Ready (w .s) i) ∧ (30 : Nat) < 31 ∧ (5 : BitVec 6) ≠ 0 ∧ (5 : BitVec 6) ≠ 63 :=
  ⟨ready_all (by decide +kernel), ready_all (by decide +kernel), by decide +kernel⟩

/-- Offsets that misalign, that reach the last gallery byte and that pass it; a readable row and an expired one. -/
theorem meets_ScalarMemoryAndGalleryAccess :
    (∀ i ∈ ([.ld 6 { reg := 5, addr := 1, land := 1 }, .ld 3 { reg := 62, addr := 4, land := 63, off := 31 }, .lda { reg := 30, addr := 1, land := 1 },
      .st 0 { reg := 1, addr := 1 }, .st 3 { reg := 1, addr := 1 }, .sta { reg := 1, addr := 1 }, .spl 6 { addr := 31, off := 63 },
      .sps 3 { addr := 31, off := 63 }, .gld 4 { reg := 5, addr := 6 }, .gld 0 { addr := 4 }, .gld 1 { addr := 5 }, .gst 3 { addr := 6 },
      .gst 0 { addr := 4, off := 63 }, .gst 2 { addr := 5 }, .gst 0 { addr := 4 }] : List Instr), Ready (w .s) i) ∧
    (∀ i ∈ ([.gld 4 { reg := 5, addr := 6 }, .gst 3 { addr := 6 }] : List Instr), Ready ((w .s).onDie 0 fun d => { d with tags := [(0, { exp := false })] }) i) ∧
    Die.rowFault { tags := [(0, { exp := false })] } 0 0 = none ∧ (w .s).cur.rowFault ((w .s).us 0) 0 = some .stale ∧
    (w .s).translate 0 1 0x20000000 2 = .ok 0x30000060000000 0 ∧ (0x20000000 : Nat) % 2 ^ 16 + 16 ≤ 2 ^ 16 ∧ 2 ^ 26 ≤ ((w .s).srcA 4).toNat ∧
    ((w .s).srcA 4 + BitVec.ofInt 72 ((63 : BitVec 6).toInt * 1)).toNat = 2 ^ 26 - 1 ∧ ((w .s).srcA 5).toNat % 2 ≠ 0 :=
  ⟨ready_all (by decide +kernel), ready_all (by decide +kernel), by decide +kernel⟩

theorem meets_ControlTransferResults : ∀ i ∈ ([.br { disp := 0x800000 }, .call { disp := 12 }, .ret, .jmpi { a := 63, lit := 2 }, .jmpi { d := 62, a := 1 },
    .fend, .nop] : List Instr), Ready (w .s) i := ready_all (by decide +kernel)

/-- A state whose loop buffer holds the segment of the bundle issuing, with two NOP bundles behind it. -/
def looping (c : Ctxt := regs) : State :=
  { w .s c { run := .running, pc := 0x1000, halfCur := { seg := 0x1000, live := true, trailer := [0, 0, 0, 1, 1] ++ List.replicate 11 0 } } with
    issue := { slot := .s, addr := 0x1000, next := 0x1006, lits := [0x800001FF, 0x200] }, mem := [(0x1006, 1), (0x100C, 1)] ++ tables }

theorem meets_StatusTestsAndLoops :
    (∀ i ∈ ([.tstb { a := 3, fn := 1 }, .tstb { fn := 6, lit := 1 }, .tstb { a := 9 }, .tstb { a := 1, fn := 4 }] : List Instr), Ready (looping) i) ∧
    (looping.ctx.tile 9).state = .empty ∧ (looping.ctx.tile 1).state ≠ .empty ∧ (looping.ctx.tile 1).status? = some 0x10100 ∧
    (looping.cur.tags.get {} 0x101).poison = false ∧
    (∀ i ∈ ([.loop { a := 3, imm := 1 }, .loop { imm := 0 }, .loop { a := 3, imm := 3 }] : List Instr), Ready looping i) ∧
    (looping.bundlesFrom looping.cur.seq.halfCur 2 0x1006).length = 2 ∧ (looping.bundlesFrom looping.cur.seq.halfCur 1 0x1006).length = 1 ∧
    (looping.bundlesFrom looping.cur.seq.halfCur 4 0x1006).length ≠ 4 ∧ looping.ctx.loop = none ∧ looping.ctx.inHandler = false ∧
    (looping.ctx.sreg 3).toNat % 2 ^ 32 ≠ 0 ∧ looping.cur.seq.pc ≠ 0x100C ∧
    Ready (looping { regs with loop := some { first := 0, last := 0, after := 0, c0 := 1, c1 := 1, c2 := 1, index := 0, pe := 0 } }) (.loop {}) ∧
    Ready (looping { regs with inHandler := true }) (.loop {}) :=
  ⟨ready_all (by decide +kernel), by decide +kernel, by decide +kernel, by decide +kernel, by decide +kernel, ready_all (by decide +kernel), by decide +kernel, by decide +kernel, by decide +kernel, by decide +kernel, by decide +kernel,
    by decide +kernel, by decide +kernel, ready_of (by decide +kernel), ready_of (by decide +kernel)⟩

theorem meets_ShapesAndSystemRegisters :
    (∀ i ∈ ([.setshape { d := 7, a := 1 }, .setshape { a := 2 }, .setshape { a := 63 }, .getshape { d := 5, a := 7 }, .getshape { a := 1, fn := 1 }, .fence { fn := 4 },
      .fence { fn := 7 }, .fence { fn := 8 }, .sysr { d := 5, imm := 1 }, .sysr { d := 5, imm := 0x12 }, .sysr { imm := 0x47 }, .sysw { imm := 1 }, .sysw { a := 5, imm := 2 },
      .sysw { a := 4, imm := 2 }, .sysw { imm := 3 }, .sysw { a := 5, imm := 0x12 }, .sysw { a := 2, imm := 0x21 }, .sysw { a := 2, imm := 0x20 }] : List Instr), Ready (w .s) i) ∧
    (∀ i ∈ (List.range 7).map fun k => Instr.node { d := 5, a := if k = 4 ∨ k = 6 then 3 else 0, fn := BitVec.ofNat 4 k }, Ready (w .s) i) ∧
    14 ≤ ((w .s).srcS 2).toNat / 2 ^ 56 % 16 ∧ ((w .s).srcS 1).toNat / 2 ^ 56 % 16 < 14 ∧ ((w .s).srcS 1).getLsbD 60 = false ∧
    (w .s { regs with s := [(1, 0x1D00000200020002)] }).srcS 1 = 0x1D00000200020002 ∧ (w .s).bindingOk 2 5 ∧ (w .s).bindingOk 2 64 = false ∧ (w .s).bindingOk 1 0 ∧
    (w .s).bindingOk 3 0 = false ∧ (w .s).contexts.get? ((w .s).ctxOn 0) = some ctx1 :=
  ⟨ready_all (by decide +kernel), ready_all (by decide +kernel), by decide +kernel⟩

/-- In a handler with a record at a mapped address: TSTATUS has its p0 bit set where `good`. -/
def handling (good : Bool) (base : W72 := 0x20000000) : State :=
  { w .s { regs with inHandler := true, tdepth := 1, trecbase := base } with
    mem := tables ++ [(0x30000060000011, 0x10)] ++ if good then [(0x3000006000003A, 1)] else [] }

theorem meets_TrapAndTrapReturn :
    Ready (w .s) (.trap { a := 1, imm := 0x800 }) ∧ Ready (w .s) .tret ∧ (w .s).ctx.inHandler = false ∧ Ready (handling true) .tret ∧ Ready (handling false) .tret ∧
    okB (handling true).readRecord (fun x => (tretWord (BitVec.ofNat 64 (field x.2 56 8))).isSome) ∧
    okB (handling false).readRecord (fun x => (tretWord (BitVec.ofNat 64 (field x.2 56 8))).isNone) ∧
    Ready (handling true 0) .tret ∧ faultB (handling true 0).readRecord :=
  ⟨ready_of (by decide +kernel), ready_of (by decide +kernel), by decide +kernel, ready_of (by decide +kernel), ready_of (by decide +kernel),
    by decide +kernel, by decide +kernel, ready_of (by decide +kernel), by decide +kernel⟩

/-- Vector integer operations, by the fields they share. -/
def intOps (f : VR) : List Instr :=
  [.vadd f, .vsub f, .vmul f, .vmac f, .vmulh f, .vadds f, .vsubs f, .vmin f, .vmax f, .vabs f, .vand f, .vor f, .vxor f, .vshl f, .vshr f, .vsar f, .vsel f,
    .vperm f, .vrot f, .vbcast f, .vextr f, .vins f]
/-- Vector floating-point operations. -/
def floatOps (f : VR) : List Instr :=
  [.vfadd f, .vfsub f, .vfmul f, .vfma f, .vfmin f, .vfmax f, .vfsgn f, .vrcp f, .vrsq f, .vexp2 f, .vlog2 f]
/-- The same without the second source where an operation has one source. -/
def oneSource (i : Instr) : Bool := match i with | .vabs _ | .vrcp _ | .vrsq _ | .vexp2 _ | .vlog2 _ => true | _ => false

theorem meets_VectorIntegerAndBitResults :
    (∀ i ∈ (intOps { vd := 30, va := 1, vb := 2, type := 3, mask := 7 }).filter (!oneSource ·), Ready (w .v0) i) ∧
    (∀ i ∈ intOps { vd := 4, va := 31, type := 4, shape := 5 }, Ready (w .v1) i) ∧ Ready (w .v0) (.vadd { vd := 4, va := 31, type := 3, lit := 2 }) ∧
    (∀ i ∈ (List.range 9).map fun k => Instr.kop { vd := 7, va := if k < 7 then 1 else 0, vb := if k < 4 then 2 else 0, vc := BitVec.ofNat 5 k }, Ready (w .v0) i) ∧
    ((w .v0).ctx.hreg 0).valid ∧ ((w .v0).ctx.hreg 5).valid :=
  ⟨ready_all (by decide +kernel), ready_all (by decide +kernel), ready_of (by decide +kernel), ready_all (by decide +kernel), by decide +kernel⟩

theorem meets_VectorFloatResultsAndDraws :
    (∀ i ∈ (floatOps { vd := 4, va := 1, vb := 2, type := 9, shape := 1 }).filter (!oneSource ·), Ready (w .v0) i) ∧
    (∀ i ∈ floatOps { vd := 4, va := 1, type := 9, shape := 1 }, Ready (w .v0) i) ∧ (∀ i ∈ floatOps { vd := 4, va := 1, type := 8, shape := 6 }, Ready (w .v1) i) ∧
    ((w .v0).ctx.hreg 1).valid ∧ ((w .v0).ctx.hreg 6).valid ∧ (fmtOf 9).isSome ∧ (fmtOf 8).isSome ∧ activeLanes ((w .v0).ctx.hreg 1) 32 ≠ 0 ∧
    activeLanes ((w .v0).ctx.hreg 6) 16 = 0 ∧ modeOf (w .v0).ctx.rmode ≠ .sto ∧ modeOf 4 = .sto ∧ (1 : BitVec 32) ≠ 0 :=
  ⟨ready_all (by decide +kernel), ready_all (by decide +kernel), ready_all (by decide +kernel), by decide +kernel⟩

/-- Two lanes of 64 bits whose sum passes the width. -/
def large : State := w .v0 { regs with v := [(1, 0x7FFFFFFFFFFFFFFF7FFFFFFFFFFFFFFF)] }

theorem meets_VectorWidthCompareAndReduceResults :
    (∀ i ∈ ([.vwiden { va := 1, vb := 1, vc := 1, type := 3 }, .vnarrow { va := 1, type := 3 }, .vnarrow { va := 1, vc := 3, type := 3 }, .vcvt { va := 1, vc := 3, type := 9 },
      .vcvt { va := 1, vc := 9, type := 0, vb := 3, shape := 4 }, .vcvt { va := 1, vc := 9, type := 3, shape := 2 }, .vreda { va := 1, type := 3 },
      .vreda { va := 1, type := 9, shape := 1 }, .vreda { va := 1, type := 3, shape := 2 }, .vredm { va := 1, vc := 3, type := 3 }, .vredm { va := 1, type := 3 },
      .vredm { va := 1, vc := 2, type := 9, shape := 1 }, .vredm { va := 1, type := 3, shape := 2 }] : List Instr), Ready (w .v0) i) ∧
    (∀ i ∈ (List.range 6).map fun k => Instr.vcmp { vd := 7, va := 1, vb := 2, vc := BitVec.ofNat 5 (2 * k), type := 3 }, Ready (w .v0) i) ∧
    (∀ i ∈ (List.range 8).map fun k => Instr.vcmp { vd := 1, va := 1, vb := 2, vc := BitVec.ofNat 5 (2 * k), type := 9, shape := 1 }, Ready (w .v0) i) ∧
    (((w .v0).ctx.hreg 0).valid ∧ ((w .v0).ctx.hreg 1).valid ∧ ((w .v0).ctx.hreg 2).valid ∧ ((w .v0).ctx.hreg 2).lanes = 0 ∧ ((w .v0).ctx.hreg 0).lanes ≠ 0 ∧
      (fmtOf 3).isNone ∧ (fmtOf 9).isSome ∧ activeLanes ((w .v0).ctx.hreg 0) 32 ≠ 0 ∧ activeLanes ((w .v0).ctx.hreg 2) 32 = 0) ∧
    Ready large (.vreda { va := 1, type := 4, shape := 5 }) ∧
    2 ^ 63 ≤ ((lanesOn large { va := 1, type := 4, shape := 5 }).map fun l => intOf 4 false (large.lane { va := 1, type := 4, shape := 5 } 1 l)).sum ∧
    ¬ 2 ^ 63 ≤ ((lanesOn (w .v0) { va := 1, type := 3 }).map fun l => intOf 3 false ((w .v0).lane { va := 1, type := 3 } 1 l)).sum ∧
    lanesOn (w .v0) { va := 1, type := 3 } ≠ [] :=
  ⟨ready_all (by decide +kernel), ready_all (by decide +kernel), ready_all (by decide +kernel), by decide +kernel, ready_of (by decide +kernel), by decide +kernel, by decide +kernel, by decide +kernel⟩

theorem meets_VectorPermuteResults :
    (∀ i ∈ ([.vperm { va := 1, vb := 2, type := 3 }, .vrot { va := 1, vb := 2, type := 3 }, .vrot { va := 1, vb := 2, vc := 1, type := 3 }, .vbcast { va := 1, vb := 2, type := 3 },
      .vextr { va := 1, vb := 2, vc := 1, type := 3 }, .vins { va := 1, vb := 1, type := 3 }, .vins { va := 1, vb := 2, type := 3 }] : List Instr), Ready (w .v0) i) ∧
    ((w .v0).ctx.hreg 0).valid ∧ (1 : Nat) ∈ lanesOn (w .v0) { va := 1, vb := 1, type := 3 } ∧ (3 : Nat) ∉ lanesOn (w .v0) { va := 1, vb := 1, type := 3 } ∧
    (w .v0).lane { va := 1, vb := 1, type := 3 } 1 0 = 1 ∧ (w .v0).lane { va := 1, vb := 2, type := 3 } 2 0 = 3 :=
  ⟨ready_all (by decide +kernel), by decide +kernel⟩

theorem ok_of {ε α : Type} {x : Except ε α} (h : x.isOk = true) : ∃ a, x = .ok a := by cases x with | ok a => exact ⟨a, rfl⟩ | error => cases h

theorem ok_and {ε α : Type} {x : Except ε α} {p : α → Bool} (h : x.toOption.any p = true) : ∃ a, x = .ok a ∧ p a = true := by
  cases x with | ok a => exact ⟨a, rfl, h⟩ | error => cases h

/-- Rows 0 and 1 of the gallery readable. -/
def readable (slot : Slot) : State := (w slot).onDie 0 fun d => { d with tags := [(0, { exp := false }), (1, { exp := false })] }

theorem meets_VectorMemoryAndEmptyShapes :
    (∀ i ∈ ([.vld { v := 4, addr := 1, land := 8 }, .vld { v := 4, addr := 3, land := 8 }, .vld { addr := 1, land := 1, shape := 2 }, .vld { v := 4, addr := 6, space := 1 },
      .vst { v := 1, addr := 1 }, .vst { v := 31, addr := 1 }, .vst { v := 1, addr := 3 }, .vst { addr := 1, shape := 2 }, .vst { v := 1, addr := 6, space := 1 },
      .vgld { v := 4, addr := 1, land := 8 }, .vgld { v := 4, addr := 1, land := 8, shape := 2 }, .vgst { v := 1, addr := 1 }, .vgath { vd := 4, va := 3, vb := 1, type := 3 },
      .vscat { vd := 1, va := 3, vb := 1, type := 3 }, .vscat { vd := 1, va := 3, vb := 1, type := 3, shape := 2 }] : List Instr), Ready (readable .v0) i) ∧
    (((readable .v0).ctx.hreg 0).valid ∧ ((readable .v0).ctx.hreg 2).valid ∧ ((readable .v0).ctx.hreg 0).type.toNat < 14 ∧ ((readable .v0).ctx.hreg 0).lanes ≠ 0 ∧
      ((readable .v0).ctx.hreg 2).lanes = 0 ∧ ((readable .v0).srcA 3).toNat % 4 ≠ 0 ∧ ((readable .v0).srcA 1).toNat % 4 = 0 ∧
      ((readable .v0).units ((readable .v0).ctx.hreg 0) 0).all (fun u => decide ((u + 1) * 4 ≤ 2 ^ 26 ∧ (readable .v0).cur.rowFault 0 (u * 4 / 256) = none))) ∧
    (∃ x, (readable .v0).strided { v := 4, addr := 1, land := 8 } = .ok x) ∧ (∃ x, (readable .v0).strided { v := 4, addr := 1, land := 8, shape := 2 } = .ok x) ∧
    (∃ x, (readable .v0).gathered { vd := 4, va := 3, vb := 1, type := 3 } = .ok x ∧
      ((x.all fun a => (readable .v0).cur.rowFault 0 (a.2 / 256) == none) && !x.isEmpty) = true) ∧
    (∃ x, (readable .v0).gathered { vd := 1, va := 3, vb := 1, type := 3, shape := 2 } = .ok x ∧ x.isEmpty = true) ∧
    (∀ i ∈ intOps { vd := 4, type := 3, shape := 3 } ++ floatOps { vd := 4, type := 9, shape := 3 } ++ [.vwiden { type := 3, shape := 3 }, .vnarrow { type := 3, shape := 3 },
      .vcvt { vc := 3, type := 9, shape := 3 }, .vcmp { vd := 1, type := 3, shape := 3 }, .kop { vd := 1, shape := 3 }, .vreda { type := 3, shape := 3 },
      .vredm { type := 3, shape := 3 }, .vgath { type := 3, shape := 3 }, .vscat { type := 3, shape := 3 }, .vld { shape := 3, land := 1 }, .vst { shape := 3 },
      .vgld { shape := 3, land := 1 }, .vgst { shape := 3 }], Ready (w .v0) i) ∧
    ((w .v0).ctx.hreg 3).valid = false :=
  ⟨ready_all (by decide +kernel), by decide +kernel, ok_of (by decide +kernel), ok_of (by decide +kernel), ok_and (by decide +kernel), ok_and (by decide +kernel), ready_all (by decide +kernel), by decide +kernel⟩

/-- How the checks of a matrix command end: a cause, or whether it is idle. -/
def planEnd (c : Ctxt) (i : Instr) : Sum Cause Bool := match c.plan i with | .error x => .inl x | .ok u => .inr u.idle

/-- Commands whose checks pass and that have work; whose shape grants no columns; whose tile is EMPTY. -/
theorem meets_MatrixCommands :
    (∀ i ∈ ([.mma { tile := 4, fmt := 8, shape := 7 }, .mma { tile := 4, fmt := 8, shape := 7, ta := true, panel := 63 }, .mmai { tile := 5, fmt := 1, shape := 7 },
      .mmap { tile := 6, fmt := 11, shape := 7 }, .zacc { fmt := 9 }, .zret { tile := 1 }, .zret { tile := 4, ta := true }, .yld { tile := 4, fmt := 8, shape := 7 },
      .yld { tile := 4, fmt := 8, shape := 7, ta := true, panel := 63 }, .yclr { tile := 63 }, .zadd { imm := 63 }, .trenew { tile := 1 }, .txpose { tile := 1, tile2 := 2 },
      .tcvt { tile := 7, tile2 := 6 }, .tfill { tile := 1, imm := 2047 }, .tfill { tile := 6, imm := 15 }, .cbld { tile := 1, imm := 15 }, .ptb { imm := 255 }] : List Instr),
      Ready (w .m) i ∧ planEnd (w .m).ctx i = .inr false) ∧
    (∀ i ∈ ([.mma { tile := 4, fmt := 8, shape := 2 }, .mmai { tile := 5, shape := 2 }, .mmap { tile := 6, fmt := 11, shape := 2 }, .zacc { fmt := 3, shape := 2 },
      .zret { tile := 1, shape := 2 }, .yld { tile := 4, fmt := 8, shape := 2 }, .zadd { shape := 2 }, .txpose { tile := 1, tile2 := 2, shape := 2 },
      .tcvt { tile := 1, tile2 := 2, shape := 2 }, .tfill { tile := 1, shape := 2 }] : List Instr), Ready (w .m) i ∧ planEnd (w .m).ctx i = .inr true) ∧
    (∀ i ∈ ([.mma { tile := 99, fmt := 8 }, .mmai { tile := 99 }, .mmap { tile := 99, fmt := 11 }, .zret { tile := 99 }, .yld { tile := 99, fmt := 8 }, .trenew { tile := 99 },
      .txpose { tile := 99, tile2 := 1 }, .tcvt { tile := 1, tile2 := 99 }, .tfill { tile := 99 }, .cbld { tile := 99 }] : List Instr),
      Ready (w .m) i ∧ planEnd (w .m).ctx i = .inl .tileEmpty) ∧
    Ready (w .m) (.zacc { fmt := 9, shape := 3 }) ∧ planEnd (w .m).ctx (.zacc { fmt := 9, shape := 3 }) = .inl .noShape ∧
    (63 : Nat) + (((w .m).ctx.hreg 7).depth * typeWidth 8 + 32767) / 32768 ≤ 64 ∧ zretAccepts .fp32 9 :=
  ⟨fun i h => ⟨ready_all (by decide +kernel) i h, by revert i; decide⟩, fun i h => ⟨ready_all (by decide +kernel) i h, by revert i; decide⟩,
    fun i h => ⟨ready_all (by decide +kernel) i h, by revert i; decide⟩, ready_of (by decide +kernel), by decide +kernel⟩

theorem meets_TileTableOperations :
    (∀ i ∈ ([.talloc { tile := 9, fmt := 3 }, .talloc { tile := 9, tile2 := 0xFFF, fmt := 3, imm := 63 }, .talloc { tile := 9, tile2 := 0xFFF, fmt := 3, imm := 3 },
      .talloc { tile := 9, fmt := 12 }, .talloc { tile := 9, fmt := 3, shape := 6 }, .tfree { tile := 1 }, .tfree { tile := 99 }, .tstat { tile := 99 },
      .tstat { tile := 1, tile2 := 1 }] : List Instr), Ready (w .m) i) ∧
    (((w .m).ctx.hreg 0).valid ∧ ((w .m).ctx.hreg 6).valid ∧ ((w .m).ctx.hreg 0).rqRows ≠ 0 ∧ ((w .m).ctx.hreg 0).rqCols ≠ 0 ∧ ((w .m).ctx.hreg 0).rqCols % 32 ≠ 0 ∧
      ((w .m).ctx.hreg 6).rqRows = 0) ∧
    (tallocTile { tile := 9, tile2 := 0xFFF, fmt := 3, imm := 3 } (shape 3 2 2 2)).base.toNat % 2 ^ 14 + 1 = 2 ^ 14 ∧
    (tallocTile { tile := 9, tile2 := 0xFFF, fmt := 3, imm := 3 } (shape 3 2 2 2)).status? = none ∧
    ((w .m).ctx.tile 1).state ≠ .empty ∧ ((w .m).ctx.tile 99).state = .empty :=
  ⟨ready_all (by decide +kernel), by decide +kernel⟩

/-- A command at the head of the matrix engine. -/
def matCmd (i : Instr) (t : Tile := tile 0x400 8) : Cmd := { instr := i, cmdix := 0, faddr := 0, shape := shape 8 2 2 2, tile := t }
/-- A die with rows 0x400 and 0x500 readable. -/
def matDie : Die := { c := regs, tags := [(0x400, { exp := false }), (0x500, { exp := false })] }

/-- A multiply of depth 4096, a full tile wide, `done` of it retired. -/
def deepCmd (done : Nat) : Cmd := { matCmd (.mma { fmt := 8 }) { tile 0x400 8 with cols := 4096 } with shape := shape 8 2 2 4096, done, begun := done != 0 }
/-- A die with the rows it reads. -/
def deepDie : Die := { c := regs, tags := (List.range 64).map fun k => (0x400 + k, { exp := false }) }
/-- Die 0 runs with those row tags and a queue of the matrix engine. -/
def deepState (tags : FMap Tag) (q : List Cmd) : State := (w .m { regs with matQ := q }).onDie 0 fun d => { d with tags }
/-- Whether the command that heads the matrix engine's queue of die 0 ends without a fault. -/
def runB (s : State) (k : Cmd) (n : Nat := 0) : Bool := ((s.die 0).runMatrix (s.us 0) k s.free n).fail.isNone

theorem meets_MatrixCommandEffects :
    (matCmd (.zacc { fmt := 9 })).follow = none ∧ (matCmd (.zacc { fmt := 9 })).shape.rows ≤ 128 ∧ (matCmd (.zacc { fmt := 9 })).shape.cols ≤ 128 ∧
    matDie.rowFault 0 (tile 0x400 8).base.toNat = none ∧ matDie.c.yBad = [] ∧
    (∀ x ∈ ([(matCmd (.mma { fmt := 8 }), { fmt := 8 }), (matCmd (.mmai {}) (tile 0x500 0), {}), (matCmd (.mmap { fmt := 11 }) (tile 0x500 11), { fmt := 11 }),
        (deepCmd 0, { fmt := 8 }), (deepCmd 2048, { fmt := 8 })] : List (Cmd × MT)),
      ∃ u, x.1.mul x.1.instr x.2 = some u ∧ u.m ≤ 128 ∧ u.n ≤ 128 ∧ ((List.range ((min (u.k - x.1.done) u.retire + u.d - 1) / u.d)).map (x.1.done / u.d + ·)).all fun y =>
        (if x.1.shape.depth = 4096 then deepDie else matDie).firstFault 0 (u.stepRows y) == none) ∧
    (∀ n ∈ [0, 1, 64], ((deepDie.runMatrix 0 (deepCmd 0) 0 n).rest.map (·.done)) = some (if n = 1 then 8 else if n = 64 then 512 else 2048)) ∧ (deepDie.runMatrix 0 (deepCmd 2048) 0 0).rest = none ∧
    (∀ q ∈ [[matCmd (.yclr {})], [deepCmd 0, { deepCmd 0 with id := 1, cmdix := 1 }]], ((deepState deepDie.tags q).die 0).c.matQ = q ∧
      (deepState deepDie.tags q).still 0 = false ∧ runB (deepState deepDie.tags q) (q.headD (deepCmd 0)) ∧ ∀ x ∈ q.tail, x.cmdix ≠ 0 ∧ x.id ≠ 0) ∧
    runB (deepState [] [deepCmd 0]) (deepCmd 0) = false :=
  ⟨by decide +kernel, by decide +kernel, by decide +kernel, by decide +kernel, rfl, by
    intro x hx
    simp only [List.mem_cons, List.not_mem_nil, or_false] at hx
    obtain rfl | rfl | rfl | rfl | rfl := hx <;> exact ⟨_, rfl, by decide +kernel, by decide +kernel, by decide +kernel⟩,
    by decide +kernel, by decide +kernel, by decide +kernel⟩

theorem meets_CopyCommandIssue :
    (∀ i ∈ ([.cpy { src := 1, dst := 31 }, .rwb { src := 1, fd := 3 }, .rinv { src := 31 }, .pref { src := 1, fd := 1 }, .cpy { src := 1, dst := 2, fd := 1, flags := 1 },
      .cpy { src := 1, dst := 2, fd := 1, flags := 99 }, .cpym { src := 1, dst := 2 }, .cpym { src := 1, dst := 2, fd := 1, flags := 1, fol := 1 },
      .tld { src := 29, flags := 1 }, .tld { src := 1, flags := 99 }, .tst { dst := 29, flags := 1 }, .tst { dst := 1, flags := 99 }, .tred { dst := 1, flags := 1, fd := 2 },
      .tred { dst := 1, flags := 3 }, .tred { dst := 1, flags := 99 }, .cnest { nest := 3, level := 0, bound := 1 }, .cnest { level := 5, bound := 63, sstride := 2 },
      .bind { src := 1, dst := 2, flags := 63 }, .bind { fd := 1, flags := 63 }] : List Instr), Ready (w .c0) i ∧ Ready (w .c1) i) ∧
    (((w .c0).ctx.tile 1).state ≠ .empty ∧ ((w .c0).ctx.tile 99).state = .empty ∧ ((w .c0).ctx.tile 1).type = 9 ∧ ((w .c0).ctx.tile 3).type = 3) :=
  ⟨fun i h => ⟨ready_all (by decide +kernel) i h, ready_all (by decide +kernel) i h⟩, by decide +kernel⟩

theorem meets_AtomicCommandIssue :
    (∀ i ∈ ([.amo { addr := 1, opnd := 1 }, .amo { addr := 1, opnd := 63, res := 62, land := 63, op := 15 }, .cas { addr := 1, opnd := 61 },
      .cas { addr := 1, opnd := 59, res := 61, land := 1, op := 2 }, .cas { addr := 1, res := 62, land := 1, op := 1 }, .acq { addr := 1 },
      .acq { addr := 1, res := 62, land := 1, scope := 3 }, .rel { addr := 31, opnd := 63 }, .waita { addr := 1, opnd := 1, res := 61, land := 63, op := 15 },
      .waita { addr := 1, res := 1, land := 1 }, .wake { addr := 1 }, .dec { opnd := 61 }, .scld { addr := 1 }, .scld { addr := 1, res := 5, land := 1, op := 1 },
      .scst { addr := 1, opnd := 1, op := 1 }] : List Instr), Ready (w .c0) i ∧ Ready (w .c1) i) ∧
    (∀ i ∈ ([.scld { addr := 1 }, .scst { addr := 1 }] : List Instr), Ready (w .c0 { regs with wheel := 0 }) i) ∧
    (w .c0).ctx.wheel.extractLsb' 16 9 ≠ 0 :=
  ⟨fun i h => ⟨ready_all (by decide +kernel) i h, ready_all (by decide +kernel) i h⟩, ready_all (by decide +kernel), by decide +kernel⟩

/-- The die of a task that is not pinned. -/
def unpinned : State := (w .c0).onDie 0 fun d => { d with task := some { someTask with pinned := false } }

theorem meets_ExchangeCommands :
    (∀ i ∈ ([.xch { dima := 3, dimb := 15, send := 1, recv := 2 }, .xch { dimb := 15, send := 99, recv := 2 }, .xcc { dimb := 15, send := 1, recv := 2 },
      .xcc { dimb := 15, send := 1, recv := 10, op := 6 }, .sib { dimb := 3, send := 1, recv := 2, flags := 1 }, .sib { send := 99, recv := 2 },
      .grs { dimb := 3, send := 1, recv := 2 }, .grs { dima := 3, dimb := 3, send := 1, recv := 99, flags := 1 }, .dbar { send := 15, flags := 1 }, .dbar {},
      .xdig { dimb := 15, recv := 1 }, .xdig { dimb := 3, recv := 1 }, .xdig { dimb := 15, recv := 99 }] : List Instr), Ready (w .c0) i) ∧
    (((w .c0).ctx.tile 1).state ≠ .empty ∧ ((w .c0).ctx.tile 2).state ≠ .empty ∧ ((w .c0).ctx.tile 99).state = .empty ∧ ((w .c0).ctx.tile 10).state = .empty ∧ (w .c0).cur.seq.barred = false ∧
      xccFits 0 ((w .c0).ctx.tile 1) ((w .c0).ctx.tile 3) = false) ∧
    (unpinned.cur.task = some { someTask with pinned := false } ∧ (w .c0).cur.task = some someTask ∧ someTask.pinned ∧ widthOf (w .c0).ctx.mask = 4 ∧
      xchDims (.cpy {}) = []) :=
  ⟨ready_all (by decide +kernel), by decide +kernel⟩

/-! ## Hypotheses of the statements about memory events -/

/-- A translated load of two bytes, of which the L1 gave the first at its issue. -/
def someLoad : Landing :=
  { id := 5, due := 100, dest := .s 4 2 false, pieces := [{ va := 0x20000000, len := 2 }], pas := [(0x30000060000000, some 7), (0x30000060000001, none)] }
/-- A translated store, the same with a fault. -/
def someStore : Store := { id := 6, va := 0x20000040, bytes := [(0x30000060000040, 9)] }
/-- Die 0 with a load and a store on their way; the lines listed are poisoned. -/
def accesses (poison : List Nat) : State :=
  { w .s regs { run := .running, landings := [someLoad], stores := [someStore, { someStore with id := 7, fault := some { cause := .prot } }] } with poisonLines := poison }

/-- The same with a load over two lines and a store over two, and with the store's home on another package. -/
def accesses2 (far : Bool) : State :=
  { w .s regs { run := .running, landings := [{ someLoad with pas := [(0x3000006000003F, none), (0x30000060000040, none)] }]
                stores := [{ someStore with bytes := [(if far then 0x40040060000040 else 0x3000006000007F, 9)] ++ (if far then [] else [(0x30000060000080, 8)]) }] } with poisonLines := [] }

theorem meets_LoadAndStoreEvents :
    (∀ p ∈ ([[], [0x30000060000000 / 64]] : List (List Nat)),
      (.landingDataArrival 0 5 {} : Instr).problem = none ∧
      ((accesses p).die 0).seq.landings.find? (fun l => l.id == 5 && l.data.isNone && l.fault.isNone && !l.pieces.isEmpty) = some someLoad ∧
      (accesses p).inWay 0 5 0 [0x30000060000001] [] = false ∧ (accesses p).loadInWay 0 5 [0x30000060000001] = false) ∧
    (someLoad.pas.filter fun x => x.2.isNone).map Prod.fst = [0x30000060000001] ∧ someLoad.attr < 2 ∧ paClass 0x30000060000000 ≠ 4 ∧
    (accesses []).poisoned 0x30000060000001 = false ∧ (accesses []).absent 0x30000060000001 = false ∧ (accesses [0x30000060000000 / 64]).poisoned 0x30000060000001 ∧
    lineOf 0x3000006000003F ≠ lineOf 0x30000060000040 ∧ (accesses2 false).inWay 0 5 0 [0x3000006000003F] [] = false ∧
    (.writePerformed 0 { id := 6 } : Instr).problem = none ∧
    ((accesses []).die 0).seq.stores.find? (fun w => w.id == 6 && !w.sent) = some someStore ∧ someStore.vbytes = [] ∧ (accesses []).inWay 0 6 0 [] [0x30000060000040] = false ∧
    (accesses []).ucInWay 0 6 [0x30000060000040] 0 = false ∧ paClass 0x30000060000040 ≠ 4 ∧ (accesses []).window? 0x30000060000040 = none ∧ (accesses []).storeOutFar 0 6 = false ∧
    (accesses2 false).inWay 0 6 0 [] [0x3000006000007F] = false ∧ lineOf 0x3000006000007F ≠ lineOf 0x30000060000080 ∧
    (accesses2 true).inWay 0 6 0 [] [0x40040060000040] = false ∧ paClass 0x40040060000040 = 4 ∧
    ((accesses []).die 0).seq.stores.find? (fun w => w.id == 7 && !w.sent) = some { someStore with id := 7, fault := some { cause := .prot } } :=
  ⟨by decide +kernel, by decide +kernel⟩

theorem meets_SweepScrubAndEvictionEvents : (.bankClassRise 15 15 4 : Instr).problem = none ∧ (.bankClassFall 15 15 : Instr).problem = none ∧
    (.gallerySweep 15 { bank := 15, bad := [16383], panels := [33554431] } : Instr).problem = none ∧ (.patrolScrub [0, 1] : Instr).problem = none ∧ (.atriumEviction 0 : Instr).problem = none := by decide +kernel

/-- Format window 15 in a state of its own. -/
def window (f : Fmtw) : State := { w .s with fmtw := [(15, { f with osize := 1 })] }

theorem meets_FormatWindowEvents :
    ((.fmtwEnable 15 2 : Instr).problem = none ∧ ((window {}).fmt 15).en = false ∧ ((window {}).fmt 15).enabling = false) ∧
    ((.fmtwRetire 15 : Instr).problem = none ∧ ((window { en := true }).fmt 15).en ∧ ((window { en := true }).fmt 15).retiring = false) ∧
    ((.fmtwEnableComplete 15 : Instr).problem = none ∧ ((window { enabling := true }).fmt 15).enabling) ∧
    ((.fmtwRetireComplete 15 : Instr).problem = none ∧ ((window { en := true, retiring := true }).fmt 15).retiring) := by decide +kernel

theorem meets_TranslationInvalidation :
    (.tlbInvalidate 0 : Instr).problem = none ∧ (w .s).tlbBusy = none ∧ ({ accesses [] with tlbBusy := some (1, 0, 0) } : State).tlbBusy.isSome ∧
    ((List.range 16).all fun i => ({ w .s with tlbBusy := some (1, 1, 0) } : State).ctxOn i != 1 || !(({ w .s with tlbBusy := some (1, 1, 0) } : State).die i).unperformed) ∧
    (accesses []).ctxOn 0 = 1 ∧ ((accesses []).die 0).unperformed := by decide +kernel

/-- A code object of one hot and one cold unit. -/
def someObj : Obj :=
  { off := 0, units := 2, hotUnits := 1, coldUnits := 1, constLen := 0, gotLen := 0, coldLen := 65536, constOff := 0, gotOff := 0, ptOff := 0, patchOff := 0
    stepping := 0, svn := 0, fusel1 := false, measurement := [] }

/-- The page whose source reads without error has the hash of its entry or it has not: the hash is a constant without a body. -/
theorem meets_CodeDeliveryEvents :
    ((.codeLineArrival 0 0x40 : Instr).problem = none ∧ (looping.die 0).seq.halfCur.live ∧ (looping.die 0).seq.halfCur.wanted = some 0 ∧ lineOf (0x1000 + 64 * 0) = 0x40) ∧
    (({ w .s with objects := [(1, someObj)] } : State).objects.get? 1 = some someObj ∧ 0 < someObj.coldUnits) ∧
    (match (w .s).codeAt 0 with | .bad _ c => c == .fetchBound | _ => false) = true := by decide +kernel

/-! ## Hypotheses of the statements about commands -/

/-- A command of context 1 with its operands as listed: offset, width, value. -/
def command (op : Byte) (flags : Byte) (args : List (Nat × Nat × Nat)) : Command :=
  let b : List Byte := [op, flags, 7, 0, 1, 0, 0, 0] ++ List.replicate 56 0
  { op, flags, cid := 7, ctx := 1, bytes := args.foldl (fun b x => b.take x.1 ++ toLE x.2.1 x.2.2 ++ b.drop (x.1 + x.2.1)) b }
/-- Queue 63 with a command in progress. -/
def q63 (c : Command) (s : State := w .s) : State :=
  { s with unit := 63, queues := [(63, { en := true, log2n := 6, head := 5, tail := 5, cplIdx := 63, cmd := some c })] }

theorem meets_CommandCompletions : ((q63 (command 0 9 [])).queue 63).cmd = some (command 0 9 []) ∧
    ((q63 (command 0 9 [])).queue 63).cplIdx + 1 = 2 ^ max 6 ((q63 (command 0 9 [])).queue 63).log2n.toNat := by decide +kernel

theorem meets_SynchronisationCommands :
    ((q63 (command 0 0 [])).unit < 64 ∧ (command 0 0 []).op = 0) ∧
    (∀ c ∈ [command 2 0 [(8, 8, 0x20000000)], command 2 0 [(8, 8, 0)], command 2 0 [(8, 8, 0x20000004)]], c.op = 2 ∧ ((q63 c).contexts.get? c.ctx.toNat).isSome) ∧
    (command 2 0 [(8, 8, 0x20000000)]).arg 8 8 % 8 = 0 ∧ (command 2 0 [(8, 8, 0x20000004)]).arg 8 8 % 8 ≠ 0 ∧
    okB ((q63 (command 2 0 [])).devWrite 1 0x20000000 (toLE 8 5)) (fun _ => true) ∧ faultB ((q63 (command 2 0 [])).devWrite 1 0 (toLE 8 5)) ∧
    ({ q63 (command 2 0 []) with contexts := [] } : State).contexts.get? 1 = none ∧
    (∀ c ∈ [command 3 0 [(8, 8, 0x20000000)], command 3 4 [(8, 8, 0x20000000), (16, 8, 1)], command 3 0 [(8, 8, 0x20000000), (16, 8, 1), (24, 4, 1)]],
      c.op = 3 ∧ c.arg 8 8 % 8 = 0 ∧ okB ((q63 c).syncRead c) (fun x => x.2 == 0) = true) ∧
    (command 3 0 [(8, 8, 0x20000000)]).arg 16 8 ≤ 0 ∧ 0 < (command 3 4 [(16, 8, 1)]).arg 16 8 ∧ (command 3 4 [(16, 8, 1)]).flags.getLsbD 2 ∧
    (command 3 0 [(24, 4, 1)]).flags.getLsbD 2 = false ∧ (command 3 0 [(24, 4, 1)]).since = none ∧ (command 3 0 [(24, 4, 1)]).arg 24 4 ≠ 0 ∧
    0 + 1000 * 1 ≤ State.ftc ((w .s).onDie 0 fun d => { d with fab := { ftc := 1000 } }) 0 ∧
    addrsB ((w .s).devAddrs 1 0x20000000 8 1) (fun ps => !ps.isEmpty && ps.all fun x => !(w .s).poisoned x.1 && paClass x.1 != 4) ∧
    addrsB ((w .s).devAddrs 1 0x20000000 1 1) (fun ps => ps == [(0x30000060000000, 0)]) := by decide +kernel

theorem meets_QueueControl :
    ((.doorbell 63 63 : Instr).problem = none ∧ (w .s).queue 63 = {} ∧ ((q63 (command 0 0 [])).queue 63).en ∧ ((q63 (command 0 0 [])).queue 63).size = 64) ∧
    ((.qctlWrite 63 0xF1 : Instr).problem = none ∧ (BitVec.getLsbD (0xF1 : W64) 0) = true ∧ ((w .s).queue 63).en = false ∧
      (({} : Queue).fits) ∧ ({ off := 0xFFFF, log2n := 15 } : Queue).fits = false) ∧ (q63 (command 0 0 [])).unit < 64 := by decide +kernel

/-- Queues 3 and 62, each with an entry: the first is halted where `h`. -/
def waiting (h : Bool) (p : BitVec 3) : State :=
  { w .s with queues := [(3, { en := true, tail := 1, halted := h, prio := p, cpl := 1 }), (62, { en := true, tail := 1, cpl := 1, halted := false })] }

theorem meets_QueueSelection :
    (∀ s ∈ [waiting true 7, waiting false 0], s.trust.ps = 0 ∧ s.trust.start = 0 ∧ s.entryReady 62) ∧ (waiting false 1).entryReady 3 ∧
    ((waiting true 7).queue 3).halted ∧ ((waiting false 1).queue 3).halted = false ∧ (waiting false 1).queuePrio 62 < (waiting false 1).queuePrio 3 ∧
    (waiting false 0).queuePrio 62 = (waiting false 0).queuePrio 3 ∧ (3 + 127 - (waiting false 0).lastServed % 64) % 64 < (62 + 127 - (waiting false 0).lastServed % 64) % 64 ∧
    ((List.range 64).all fun r => !(w .s).entryReady r) ∧ operandsOf 11 = none ∧ operandsOf 0 = some [] ∧
    entryBad (command 0 2 []).bytes [] ∧ entryBad (command 0 1 []).bytes [] = false ∧ commandRow (command 8 0 []).bytes = none ∧
    commandRow (command 0 1 []).bytes = some .cmdNop := by decide +kernel

/-- A graph descriptor at 0x20000000 of one node, with a record at 0x20000080 and versions of 8 bytes, and a patch of the first word
at 0x20000400. -/
def graphs : State :=
  { w .s with
    mem := tables ++ [(0x30000060000000, 1), (0x30000060000008, 0x80), (0x3000006000000B, 0x20), (0x30000060000018, 0x00), (0x30000060000019, 0x01), (0x3000006000001B, 0x20),
      (0x30000060000021, 0x02), (0x30000060000023, 0x20), (0x30000060000028, 8), (0x30000060000408, 0x55)]
    objects := [(1, someObj)] }
/-- A replay of that graph in each of the slots listed. -/
def someReplay (slot : Nat) : Replay :=
  { rid := slot, ctx := 1, graph := 0x20000000, number := 0, slotVa := slot, region := 0, handle := 1, prio := 0, queue := 63, cid := 7, flags := 0, accepted := 0
    desc := { nodes := 2, tmo := 1, nodeBase := 0, succBase := 0, ver0 := 0, ver1 := 0, psize := 0, rslots := 4, doneVa := 0x20000000, spill := 0x20000000 } }

theorem meets_LaunchAndPatch :
    (let c := command 1 0 [(8, 8, 0x20000000), (16, 4, 1)]
     c.op = 1 ∧ ((q63 c graphs).contexts.get? c.ctx.toNat).isSome ∧ ((q63 c graphs).objects.get? (c.arg 16 4)).isSome ∧ c.arg 8 8 % 128 = 0 ∧
      okB ((q63 c graphs).descRead 1 0x20000000) (fun x => !descBad x.2.1 && x.1.replays.length < 256 &&
        ((List.range (descOf x.2.1).rslots).find? fun k => !x.2.2.regions.contains k) == some 0 &&
        okB (State.startCounts 1 (descOf x.2.1).nodeBase (descOf x.2.1).nodes 0 x.1 []) fun y => y.2.2 == none && addrsB (y.1.graphOpen 1 0x20000000) fun _ => true)) ∧
    ({ graphs with contexts := [] } : State).contexts.get? 1 = none ∧ graphs.objects.get? 2 = none ∧ (command 1 0 [(8, 8, 64)]).arg 8 8 % 128 ≠ 0 ∧
    okB ((w .s).descRead 1 0x20000000) (fun x => descBad x.2.1) ∧
    okB (({ graphs with graphs := [{ ctx := 1, va := 0x20000000, regions := [0, 1, 2, 3] }] } : State).descRead 1 0x20000000) (fun x => (descOf x.2.1).rslots == 4) ∧
    (∀ rs ∈ [[], [someReplay 0x20000100], [someReplay 0x20000100, someReplay 0x20000200]],
      let c := command 6 4 [(8, 8, 0x20000000), (16, 8, 0x20000400), (24, 2, 1)]
      let s := q63 c { graphs with replays := rs }
      c.op = 6 ∧ (s.contexts.get? c.ctx.toNat).isSome ∧ c.arg 24 2 = 1 ∧
        okB (s.descRead 1 0x20000000) (fun x => !descBad x.2.1 && okB (s.devRead 1 0x20000400 16) fun l =>
          okB (State.patchesOf 1 (descOf x.2.1) (sixteens 1 l.2) l.1) fun p => p.2 == some [(0, 0x55)] &&
            okB (p.1.applyPatch (descOf x.2.1) x.2.2 [(0, 0x55)]) fun z => z.2 == (if rs.length = 2 then none else some 1)) = true) ∧
    (0 : Nat) + 8 ≤ [0, 0, 0, 0, 0, 0, 0, 0].length := by decide +kernel

/-- A GXO image: its header fields as listed, 2 KiB of hot text, no other section, an opcode list, a signature. -/
def image (svn step : Nat) (life : List Byte) : List Byte :=
  toLE 4 0x314F5847 ++ [1, 0] ++ toLE 1 step ++ toLE 1 svn ++ toLE 4 0 ++ toLE 4 0xFFFFFFFF ++ toLE 4 2048 ++ List.replicate 16 0 ++ toLE 4 (life.length / 4) ++
    List.replicate 216 0 ++ List.replicate 2048 0 ++ padTo (64 * ((life.length + 63) / 64)) life ++ List.replicate 1280 0
/-- A package whose key 0 is 1793 zero bytes and which has verified an image before, at SVN 5. -/
def trusting (b : List Byte) (floor : Nat) : State :=
  { w .s with trust := { start := 0, step := 0, codefloor := floor, keys := [(0, List.replicate 1793 0)]
                         cache := [{ firmware := false, hash := Config.shake256 (b.take (gxoOf b).sig), svn := 5, key := Config.shake256 (List.replicate 1793 0) }] } }

theorem trusting_signed (b : List Byte) (floor : Nat) (h : floor ≤ 5) : ∃ s1, (trusting b floor).checkSignature (gxoOf b) = .ok s1 ∧ s1.trust.codefloor = floor ∧
    s1.objects = [] ∧ s1.pwin = State.pwin {} := by
  have hb : (gxoOf b).b = b := rfl
  refine ⟨_, by simp [State.checkSignature, Trust.lookup, trusting, Trust.floor, hb, Nat.not_lt.mpr h]; rfl, ?_⟩
  exact ⟨rfl, rfl, rfl⟩

theorem trusting_stale (b : List Byte) : ∃ x, (trusting b 6).checkSignature (gxoOf b) = .error x := by
  have hb : (gxoOf b).b = b := rfl
  exact ⟨_, by simp [State.checkSignature, Trust.lookup, trusting, Trust.floor, hb]; rfl⟩

/-- A binding block of the package's four dimensions with one save slot. -/
def block : List Byte := [0xF, 0, 0, 0, 0x10, 0x32, 0x54, 0x76, 0x98, 0xBA, 0xDC, 0] ++ List.replicate 4 0 ++ [0, 1, 1, 0] ++ List.replicate 28 0 ++ [1, 0, 1] ++ List.replicate 13 0
/-- A package whose dies have power, with that block at address 3 · 2^52. -/
def unbound : State :=
  { w .s with contexts := [], dies := (List.range 16).map fun i => (i, { powered := true }), mem := (placeAt 0x30000000000000 block).filter fun x => x.2 != 0 }

/-- The windows of the code arena as a start leaves them. -/
def windowed : State := { w .s with pwin := [(0, { en := true, base := 0, size := 4 }), (1, { en := true, base := 4, size := 4 })] }

/-- Which clause a signed image meets past its signature depends on its SVN, its opcode list and the free units of the arena. -/
theorem meets_ContextsAndCodeObjects :
    (let c (a : Nat) := command 10 0 [(8, 8, 0x30000000010000), (24, 8, a)]
     (c 0).op = 10 ∧ ((q63 (c 0)).contexts.get? (c 0).ctx.toNat).isSome ∧ (q63 (c 0) unbound).contexts.get? (c 0).ctx.toNat = none ∧
      4 * 2 ^ 52 ≤ (c 0x40000000000000).arg 24 8 ∧ (c 0x30000000000004).arg 24 8 % 64 ≠ 0 ∧
      (∀ at_ ∈ [0x30000000000000, 0x30000000000040], (c at_).arg 24 8 < 4 * 2 ^ 52 ∧ (c at_).arg 24 8 % 64 = 0 ∧
        ((List.range 64).all fun k => (q63 (c at_) unbound).mapped (at_ + k)) = true ∧ (q63 (c at_) unbound).poisoned at_ = false) ∧
      (q63 (c 0) unbound).bindingBad block = false ∧ (q63 (c 0) unbound).bindingBad (List.replicate 64 0) = true) ∧
    ((∃ r ∈ ({ w .s with replays := [someReplay 0] } : State).replays, r.ctx = 1) ∧ (∀ r ∈ (w .s).replays, r.ctx ≠ 1)) ∧
    (let c (a : Nat) := command 4 0 [(8, 8, a), (16, 8, 64), (24, 4, 0)]
     (c 0).op = 4 ∧ (w .s).outside 0 64 = none ∧ ((w .s).outside 0x30000000000000 64).isSome) ∧
    (gxoBad [] ∧ gxoBad (image 5 0 []) = false ∧ gxoBad (image 5 0 [0, 0xFF, 0, 0]) = false) ∧ (∃ x, (w .s).checkSignature (gxoOf (image 5 0 [])) = .error x) ∧
    (field (image 4 0 []) 7 1 < 5 ∧ 5 ≤ field (image 5 0 []) 7 1) ∧
    (exB (gxoOf (image 5 0 [0, 0xFF, 0, 0])).lifetimes (fun x => x == 0x16) (fun _ => false) ∧
      exB (gxoOf (image 5 0 [0, 0x3A, 0, 0])).lifetimes (fun _ => false) (fun n => n == 1)) ∧
    (windowed.chooseOffset 4095 0xFFFFFFFF 2 = some 4095 ∨ windowed.chooseOffset 0 0xFFFFFFFF 2 = some 0) ∧ windowed.chooseOffset 0xFFFF 0 2 = none ∧
    (Gxo.values someObj 0 (gxoOf (image 5 0 [])).records).isSome ∧
    (let c := command 5 0 [(8, 4, 1)]
     c.op = 5 ∧ (q63 c graphs).objects.get? (c.arg 8 4) = some someObj ∧ (q63 c).objects.get? (c.arg 8 4) = none ∧
      ∃ r ∈ ({ w .s with replays := [someReplay 0] } : State).replays, r.handle = c.arg 8 4) := by
  refine ⟨by decide +kernel, ⟨⟨_, List.mem_singleton.mpr rfl, rfl⟩, by decide +kernel⟩, by decide +kernel, by decide +kernel, ⟨_, rfl⟩, by decide +kernel, by decide +kernel,
    by decide +kernel, by decide +kernel, by decide +kernel, ?_⟩
  exact ⟨by decide +kernel, by decide +kernel, by decide +kernel, _, List.mem_singleton.mpr rfl, by decide +kernel⟩

/-- A host copy of context 1 of a chunk and 2 bytes, from a page's last 2 bytes on. -/
def someCopy (dst : Nat) : HostCopy := { ctx := 1, phys := false, src := 0x2000FFFE, dst, len := 4, pool := false, queue := some (63, 7, 0), node := none, begun := true }
def chunkEnd (x : ChunkEnd) : Nat := match x with | .wrote _ _ _ => 1 | .park _ _ _ => 2 | .fail _ _ => 3 | .wait _ => 4
def chunkB (x : ChunkEnd) (wrote : Bool) : Bool := match x with | .wrote _ n far => wrote && n == 2 && far == 0 | .fail _ _ => !wrote | _ => false

theorem meets_HostCopies :
    (let c (phys len : Nat) := command 7 0 [(8, 8, 0x2000FFFE), (16, 8, 0x20000000), (24, 6, len), (30, 1, phys)]
     (c 0 1).op = 7 ∧ (w .s).hostCopies = [] ∧ ({ w .s with contexts := [] } : State).contexts.get? (c 0 1).ctx.toNat = none ∧ ((w .s).contexts.get? (c 0 1).ctx.toNat).isSome ∧
      ¬ 1 ≤ (c 0 0).arg 24 6 ∧ ¬ (c 1 (2 ^ 40 + 1)).arg 24 6 ≤ 2 ^ 40 ∧ (c 1 (2 ^ 40)).arg 24 6 ≤ 2 ^ 40 ∧ (c 1 1).arg 30 1 == 1 ∧
      (c 1 1).arg 8 8 + (c 1 1).arg 24 6 ≤ 15 * 2 ^ 52) ∧
    (let s (dst : Nat) := { w .s with hostCopies := [someCopy dst] }
     (s 0x20100000).headCopy false = some (someCopy 0x20100000) ∧ (∀ r ∈ ((s 0x20100000).die 0).fab.requests, r.waiter ≠ .host false) ∧
      chunkB ((s 0x20100000).hostChunk (someCopy 0x20100000)) true ∧ 0 + 2 < (someCopy 0).len ∧ chunkB ((s 0).hostChunk (someCopy 0)) false) ∧
    (addrsB ((w .s).hostAddrs (someCopy 0x20100000) 0x2000FFFE 2 1) (fun src => src == [(0x3000006000FFFE, 0), (0x3000006000FFFF, 0)]) ∧
      addrsB ((w .s).hostAddrs (someCopy 0x20100000) 0x20100000 2 2) (fun dst => dst == [(0x30000060100000, 0), (0x30000060100001, 0)])) ∧
    (let c := someCopy 0x20100000
     let far : State := { w .s with contexts := [(1, { ctx1 with root := 0x40040000000000 })] }
     let s := (w .s).onDie 0 fun d => { d with fab := { requests := [{ tag := 1, peer := 16, waiter := .host false }] } }
     (w .s).headCopy false = none ∧ ({ c with parked := some 3 } : HostCopy).parked.isSome ∧ ({ c with lost := true } : HostCopy).lost ∧ c.parked = none ∧ c.lost = false ∧
      (∃ r ∈ (s.die 0).fab.requests, r.waiter = .host false) ∧ ({ c with done := 4 } : HostCopy).len ≤ ({ c with done := 4 } : HostCopy).done ∧
      chunkEnd ((w .s).hostChunk (someCopy 0x40000000)) = 2 ∧ chunkEnd (far.hostChunk c) = 4 ∧
      okB ((w .s).copyIsPool 1 false 0x2000FFFE) (fun p => !p) ∧ (match far.copyIsPool 1 false 0x2000FFFE with | .wait _ => true | _ => false) = true) ∧
    (.fqctlResume 4095 : Instr).problem = none ∧ 4096 ≤ (4096 : BitVec 16).toNat := by decide +kernel

/-- Signatures, SVNs and tokens are checked by constants without a body: of two clauses that such a check tells apart, each state
meets one. -/
theorem meets_ManagementCommands :
    (let c (len : Nat) := command 8 0 [(16, 8, 0x30000000010000), (24, 8, len)]
     (c 7).op = 8 ∧ (w .s).trust.locked = false ∧ (c 7).arg 24 8 < 8 ∧ 8 ≤ (c 8).arg 24 8 ∧ ((w .s).outside ((c 7).arg 16 8) 1793).isSome ∧ (w .s).outside 0 1793 = none ∧
      ({ locked := true } : Trust).locked ∧ 255 < (c 256).arg 24 8 ∧ (c 4).arg 24 8 < ({ codefloor := 5 } : Trust).codefloor ∧ (w .s).trust.codefloor ≤ (c 255).arg 24 8 ∧
      (c 255).arg 24 8 ≤ 255 ∧ 2 ^ 25 < (c (2 ^ 25 + 1)).arg 24 8 ∧ (c 64).arg 24 8 ≤ 2 ^ 25 ∧ ((w .s).outside ((c 64).arg 16 8) 64).isSome ∧
      (w .s).trust.fwSvn < (c 1).arg 24 8 ∧ (c 4).arg 24 8 < ({ fuseSvn := 5 } : Trust).fuseSvn ∧ (w .s).trust.fuseSvn ≤ (c 0).arg 24 8 ∧ (c 0).arg 24 8 ≤ (w .s).trust.fwSvn) ∧
    ((w .s).trust.dbg = 0 ∧ ({ dbg := 1 } : Trust).dbg ≠ 0 ∧ ({ dbg := 2 } : Trust).dbg = 2 ∧ (command 8 0 [(24, 8, 1360)]).arg 24 8 = 1360 ∧
      (command 8 0 [(24, 8, 1361)]).arg 24 8 ≠ 1360 ∧ ((w .s).outside 0x30000000010000 1360).isSome ∧ (w .s).trust.start = 0 ∧ (w .s).trust.ps = 0 ∧
      (w .s).trust.trip = false ∧ ({} : Trust).tokenGood 1 (List.replicate 1360 0) = false) ∧
    (let c (nonce len : Nat) := command 9 0 [(8, 8, nonce), (16, 8, 0x30000000020000), (24, 4, len)]
     (c 0 0).op = 9 ∧ (w .s).outside ((c 0 0).arg 8 8) 32 = none ∧ ((w .s).outside ((c 0x30000000010000 0).arg 8 8) 32).isSome ∧
      (c 0x30000000010000 4528).arg 24 4 < 4529 + 80 * (w .s).trust.mlog.length ∧ 4529 + 80 * (w .s).trust.mlog.length ≤ (c 0 4529).arg 24 4 ∧
      ((w .s).outside 0x30000000020000 4529).isSome) ∧
    ((∀ e ∈ ({} : Trust).mlog, e.length = 80) ∧ ({} : Trust).cache.length ≤ 64) := by
  refine ⟨by decide +kernel, ?_, by decide +kernel, by decide⟩
  refine ⟨by decide, by decide, by decide, by decide +kernel, by decide +kernel, by decide +kernel, by decide, by decide, by decide, by decide⟩

theorem meets_StartsBegin :
    ((∃ cause, (.coldStart .powerOn : Instr) = .coldStart cause) ∧ (w .s).trust.trip = false ∧ (w .s).hot = false ∧
      ((w .s).onDie 15 fun d => { d with temp := 760 }).hot ∧ ((w .s).onDie 15 fun d => { d with temp := 759 }).hot = false) ∧
    ((w .s).trust.start = 0 ∧ (w .s).trust.ps = 0 ∧ State.reset.trust.start ≠ 0 ∧ ({ ps := 3 } : Trust).ps ≠ 0 ∧ StartCause.mgmtWarm ≠ .unlock ∧
      ({ dbgNext := some 1 } : Trust).dbgNext = some 1 ∧ (w .s).trust.dbgNext = none ∧ StartCause.flr ≠ .lock) ∧
    (BitVec.getLsbD (0x80000040 : W64) 31 = true ∧ ({ start := 3 } : Trust).start = 3 ∧ BitVec.getLsbD (0x40 : W64) 31 = false ∧
      2 ^ 25 < ((0x82000001 : W64).extractLsb' 0 26).toNat ∧ ((0x82000000 : W64).extractLsb' 0 26).toNat ≤ 2 ^ 25) :=
  ⟨⟨⟨_, rfl⟩, by decide +kernel⟩, by decide +kernel, by decide⟩

/-- A start at a step; the firmware's signature and hash are constants without a body. -/
theorem meets_StartSteps :
    ((w .s).trust.start ≠ 1 ∧ (w .s).trust.start ≠ 2 ∧ State.reset.trust.start = 1 ∧ State.reset.trust.step = 1 ∧ ({ start := 2, cold := false } : Trust).start = 2) ∧
    (({ dieFailed := true } : StepResult).dieFailed ∧ staggerBoard ≤ (none : Option Nat).getD staggerEnd ∧ ¬ staggerBoard ≤ State.reset.trust.stagger.getD staggerEnd) ∧
    (({ fuseParity := true } : StepResult).fuseParity ∧ ({ dramFailed := true } : StepResult).dramFailed) ∧
    ((∀ e ∈ ({} : Trust).cache, e.firmware → e.hash ≠ Config.shake256 []) ∧ ({ fuseSvn := 1 } : Trust).fwSvn < 1 ∧ ({} : Trust).fuseSvn ≤ ({} : Trust).fwSvn ∧
      ({ commit := some 0 } : Trust).commit = some 0 ∧ 0 ≤ ({} : Trust).fwSvn) ∧
    (State.reset.training 0 7 = false ∧ (State.reset.onLink 0 6 fun l => { l with state := .train }).training 0 7 ∧
      (State.reset.onLink 0 7 fun l => { l with state := .train }).training 7 14 ∧ State.reset.trust.stagger.isSome ∧ ({ stagger := none } : Trust).stagger.isSome = false ∧ (some 144).getD staggerEnd ≤ staggerBoard) ∧
    (let s := (w .s).onDie 0 fun d => d.onFab fun f => { f with ftcm := true }
     s.synced ∧ ((s.onLink 1 0 fun l => { l with state := .active }).onDie 1 fun d => d.onFab fun f => { f with unsync := true }).synced = false) ∧
    (∀ k ∈ [1, 2, 3, 4, 5, 6, 7, 8, 9, 10, 11, 12], ({ step := k } : Trust).step = k) := by decide +kernel

theorem meets_PowerStatesAndTrips :
    ((command 8 0 []).op = 8 ∧ (q63 (command 8 0 [])).psInUse 63 ∧
      State.psInUse { q63 (command 8 0 []) with dies := [] } 63 = false) ∧
    ((w .s).trust.psExit = false ∧ ({ ps := 2, psExit := true, stagger := some 144 } : Trust).psExit ∧ (some 144).getD staggerEnd ≤ staggerBoard ∧
      staggerBoard < (none : Option Nat).getD staggerEnd ∧ (w .s).training 0 7 = false) ∧
    ((19 : Nat) < 20 ∧ 880 ≤ (880 : BitVec 12).toInt ∧ (879 : BitVec 12).toInt < 880 ∧ (12 : Nat) < 13) ∧
    (∀ k ∈ [0, 1, 143, 144, 145, 256], ({ stagger := some k } : Trust).stagger = some k) ∧ ({ start := 1, step := 1 } : Trust).step < 7 ∧
    (({} : Trust).portDark = false ∧ ({ portDark := true } : Trust).portDark ∧ ({} : Trust).v65At = none ∧ ({ v65At := some 0, v65Pending := true } : Trust).v65Pending ∧ (0 : Nat) + 20000 ≤ 20000 ∧ (19999 : Nat) < 0 + 20000) := by decide +kernel

/-- Die 15 of a package in a debug state, with scope bits, halted where `h`, its debug block selecting a word. -/
def debugged (dbg : Nat) (scope : BitVec 3) (h : Bool) (file : Byte := 0) : State :=
  { w .s with unit := 15, dies := [(15, { powered := true, dbgBlock := { halted := h, file, index := 63 } })], trust := { start := 0, dbg, scope } }

theorem meets_DebugBlockEvents :
    ((debugged 2 0 true).unit < 16 ∧ (debugged 2 0 true).trust.dbg = 2 ∧ (debugged 1 1 false).trust.dbg = 1 ∧ (debugged 1 1 false).trust.scope.getLsbD 0 ∧
      (debugged 1 3 true).trust.scope.getLsbD 1 ∧ ¬ ((debugged 0 7 true).trust.dbg = 2 ∨ (debugged 0 7 true).trust.dbg = 1 ∧ (debugged 0 7 true).trust.scope.getLsbD 0)) ∧
    (((debugged 1 1 false).die 15).dbgBlock.halted = false ∧ ((debugged 2 0 true).die 15).dbgBlock.halted ∧ ((debugged 2 0 true).die 15).dbgBlock.log = [] ∧
      ((debugged 2 0 true).die 15).dbgBlock.group = false ∧ ((debugged 2 0 true).die 15).dbgBlock.file = 0 ∧ ((debugged 2 0 true).die 15).dbgBlock.index.toNat = 63 ∧
      ((debugged 2 0 true).die 15).dbgBlock.word = 0 ∧ 8 ≤ ((debugged 2 0 true 8).die 15).dbgBlock.file.toNat) := by decide +kernel

theorem meets_RegisterWrites :
    (∀ x ∈ [({ bar := 0, off := 4, bytes := List.replicate 8 0 } : HostWrite), { bar := 0, off := 0, bytes := [0] }],
      x.bar = 0 ∧ ¬ (x.bytes.length = 4 ∧ x.off % 4 = 0 ∨ x.bytes.length = 8 ∧ x.off % 8 = 0)) ∧
    (2 ^ 26 ≤ (2 ^ 26 : Nat) ∧ State.answers { w .s with trust := { ps := 3 } } (regAt 0x00F00000) = false ∧ (w .s).trust.ps ≠ 3 ∧ (w .s).trust.start ≠ 3 ∧ (w .s).trust.portDark = false ∧
      ({ portDark := true } : Trust).portDark) ∧
    (({ bar := 2, off := 2 ^ 28 - 1, bytes := [7] } : HostWrite).off + 1 ≤ 2 ^ 28 ∧ 2 ^ 28 < ({ bar := 2, off := 2 ^ 28 - 1, bytes := [7, 8] } : HostWrite).off + 2 ∧
      ({ start := 3 } : Trust).start = 3 ∧ ({ bar := 3, off := 2 ^ 52 - 1, bytes := [7] } : HostWrite).off + 1 ≤ 2 ^ 52) ∧
    (0x03041000 % 8 = 0 ∧ 2 ^ 26 - 8 < 2 ^ 26) := by decide +kernel


/-! ## Hypotheses of the statements about links -/

/-- Die 0 with a link as given. -/
def onWire (l : Link) (d : Nat := 7) : State := (w .s).onLink 0 d fun _ => l
/-- A flit with its check; null, data and control. -/
def flit (ch : BitVec 3) (lseq : BitVec 13) (sop eop : Bool) (payload : List Byte := List.replicate 56 0) : Flit :=
  sealFlit { ch, sop, eop, lseq, aseq := 5, av := true, payload, check := 0 }
/-- Die 0's own MRD request from its neighbour over dimension 7. -/
def somePacket : Packet := { dst := 0, src := 128, type := 1, syn := true, payload := toLE 16 4096 }

theorem meets_FlitReceptionAndTransmission :
    ((.flitReceive 0 7 (flit 0 3 true false) : Instr).problem = none ∧ ((onWire { state := .active }).link 0 7).state = .active ∧
      ((onWire { state := .remap }).link 0 7).state = .remap) ∧
    (flitGood { flit 0 3 true false with check := 1 } = false ∧ flitGood (flit 7 3 true false) ∧ (flit 7 3 true false).ch = 7 ∧
      flitGood (flit 0 3 true false) ∧ (3 : BitVec 13) ≠ ((onWire { state := .active }).link 0 7).rxSeq ∧
      ((onWire { state := .active, rxSeq := 3 }).link 0 7).rxSeq = (flit 0 3 true false).lseq ∧
      (∀ e ∈ [4095, 4096, 4097], lseqBehind (BitVec.ofNat 13 e) 0 = e)) ∧
    (let l (n : Nat) := (onWire { state := .active, txmap := 1, rxmap := 0xFFFF, crcTimes := List.replicate n 0 } 3).link 0 3
     ((l 15).crcTimes.filter fun u => (w .s).ftc 0 < u + 1000).length < 16 ∧ 16 ≤ ((l 16).crcTimes.filter fun u => (w .s).ftc 0 < u + 1000).length ∧ (l 16).remapping = none ∧
      (l 16).needed ≤ lanesIn ((l 16).rxmap &&& ~~~(l 16).failing) ∧ (l 16).txmap ≠ 0 ∧ (4 : Nat) ≤ 7) ∧
    (({ gapRun := some 3 } : Link).gapRun.map (· + 1) = some 4 ∧ ({ gapRun := some 3 } : Link).gapRun.map (· + 1) ≠ some 5 ∧ (flit 0 3 true false).eop = false) ∧
    (let f := flit 0 3 true true (packetImage somePacket ++ List.replicate 24 0)
     flitGood f ∧ f.payload.length = 56 ∧ f.eop ∧ f.sop ∧ packetOfImage f.payload = some somePacket ∧ typeFits somePacket.type f.ch ∧ somePacket.dstep = 0 ∧
      somePacket.dst.toNat = (w .s).nid 0 ∧ deliveryOf 0 f.ch somePacket = some (.mrd 0 somePacket)) ∧
    (let f := flit 5 3 true true (controlPayload 1 [2, 0])
     flitGood f ∧ f.payload.length = 56 ∧ f.ch = 5 ∧ controlEvent 0 7 f.payload = some (.nak 0 7 2)) ∧
    ((.nak 0 7 2 : Instr).problem = none ∧ (.aseqReport 0 3 : Instr).problem = none ∧ ((onWire { state := .active } 3).link 0 3).state = .active) ∧
    ((.flitTransmit 0 7 : Instr).problem = none ∧ ((onWire { state := .active, resend := [flit 0 3 true false] }).link 0 7).resend = [flit 0 3 true false] ∧
      ((onWire { state := .active, flitQ := [{ ch := 0, payload := [] }] }).link 0 7).flitQ = [{ ch := 0, payload := [] }] ∧
      ((onWire { state := .active, flitQ := [{ ch := 5, payload := [] }] }).link 0 7).pktQ = [] ∧
      (0 : Nat) < 4096 ∧ ((onWire { state := .active, pktQ := [{ ch := 0, pkt := somePacket }] }).link 0 7).pktQ = [{ ch := 0, pkt := somePacket }] ∧
      (flitsOf { ch := 0, pkt := somePacket }).length = 1 ∧ ((onWire { state := .active }).link 0 7).flitQ = [] ∧
      ((onWire { state := .active }).link 0 7).remapping = none ∧ ((onWire { state := .train }).link 0 7).state = .train ∧ ((onWire { state := .dead }).link 0 7).state = .dead) ∧
    (let q : List OutFlit := [{ ch := 0, payload := [] }, { ch := 5, payload := controlPayload 4 [1] }]
     (∀ l ∈ [(onWire { state := .remap, flitQ := q }).link 0 7],
        l.state = .remap ∧ l.resend = [] ∧ (l.flitQ.find? fun f => f.ch == 5) = q.getLast? ∧ l.remapping = none) ∧
      ((onWire { state := .off, flitQ := q }).link 0 7).state = .off ∧ ((onWire { state := .off, flitQ := q }).link 0 7).flitQ.find? OutFlit.laser = q.getLast?) ∧
    ((List.range 16).filter fun l => (0x8001 : BitVec 16).getLsbD l) ≠ [] := by decide +kernel

/-- A remap that offers the lower eight lanes. -/
def someRemap : Remap := { mine := 0xFF, theirs := some 0xFF, acked := true }

theorem meets_TrainingAndRemap :
    ((∀ i ∈ [(.linkTrainingComplete 0 7 1 0 : Instr), .mapprop 0 7 1 1, .mapack 0 7 0xFF 3, .remapRetrainComplete 0 7 0xFF 0xFF, .laneFailing 0 7 15 true,
        .lctlEnable 15 13 true, .lctlRemap 0 7], i.problem = none) ∧ ((onWire { state := .train }).link 0 7).state = .train ∧
      ({ minw := 0 } : Link).needed ≤ lanesIn 1 ∧ ¬ ({ minw := 2 } : Link).needed ≤ lanesIn 1 ∧
      (let l := (onWire { state := .train, keepMaps := true, txmap := 3, rxmap := 6 }).link 0 7
       l.keepMaps ∧ l.txmap ≠ 0 ∧ l.rxmap ≠ 0 ∧ lanesIn (0xFFFF &&& l.txmap) = 2 ∧ l.needed ≤ lanesIn (0xFFFF &&& l.rxmap))) ∧
    (∀ r ∈ [({ mine := 0xFF } : Remap), someRemap], let l := (onWire { state := .remap, txmap := 1, remapping := some r }).link 0 7
     l.state = .remap ∧ l.remapping = some r ∧ r.fast = false ∧ (r.theirs = none ∨ r.theirs = some 0xFF ∧ (0xFF : BitVec 16) ≠ 0x7F) ∧ l.restarts < 3 ∧
      l.needed ≤ lanesIn r.mine ∧ l.txmap ≠ 0 ∧ l.needed ≤ lanesIn 0x7F ∧ lanesIn 0 < l.needed ∧ r.mine = 0xFF) ∧
    (let l := (onWire { state := .remap, remapping := some someRemap }).link 0 7
     l.state = .remap ∧ l.remapping = some someRemap ∧ someRemap.fast = false ∧ l.needed ≤ lanesIn 1 ∧ someRemap.acked ∧
      someRemap.theirs = some 0xFF ∧ someRemap.mine &&& ~~~(0xFF : BitVec 16) = 0 ∧ someRemap.mine &&& ~~~(0x7F : BitVec 16) ≠ 0 ∧ someRemap.ls ≠ some 3 ∧
      l.restarts < 3 ∧ 3 ≤ ({ restarts := 3 } : Link).restarts ∧ l.needed ≤ lanesIn (someRemap.mine &&& 0x7F) ∧ ({ someRemap with ls := some 3 } : Remap).ls = some 3) ∧
    (let l := (onWire { state := .active, txmap := 0xFFFF, rxmap := 0xFFFF, ls := 1 }).link 0 7
     l.state = .active ∧ l.remapping = none ∧ l.txmap ≠ 0 ∧ (litLanes l.txmap l.ls).getLsbD 15 = false ∧ ({ enable := false } : Link).enable = false ∧
      ((onWire { state := .dead, enable := true }).link 0 7).enable ∧ ((onWire { state := .dead }).link 0 7).state = .dead ∧ l.rxmap.getLsbD 15 ∧ (litLanes l.rxmap l.ls).getLsbD 15 = false ∧ (litLanes l.rxmap l.ls).getLsbD 7 ∧ l.rxmap.getLsbD 7 ∧
      l.rxmap ≠ BitVec.ofNat 16 (2 ^ 7) ∧ l.needed ≤ lanesIn (l.rxmap &&& ~~~BitVec.ofNat 16 (2 ^ 7)) ∧ l.needed ≤ lanesIn (l.propose &&& ~~~l.failing)) := by decide +kernel

theorem meets_LaserStates :
    (∀ i ∈ [(.lsreq 0 7 3 : Instr), .lsack 0 7 1 true, .lsack 0 7 1 false, .lctlLsset 0 13 3, .lsRequestHoldTimeout 0 7, .laserRampComplete 0 7, .lpolWrite 0 7 0x0002080C60000420],
      i.problem = none) ∧
    ((onWire { state := .active }).refusesLs 0 7 3 ∧ (onWire { state := .active }).refusesLs 0 7 2 = false ∧
      (onWire { state := .active } ((w .s).link 0 7).ddim.toNat).refusesLs 0 7 3 = false ∧ ({} : Link).lsbusy = false ∧ ({ lsReq := some (1, 0) } : Link).lsReq.isSome ∧
      ({ state := .off } : Link).state = .off ∧ ({ lsbusy := true } : Link).lsbusy ∧ ({ lsbusy := true } : Link).lsReq = none ∧ 2 ≤ ({ ps := 2 } : Trust).ps ∧ (w .s).trust.ps < 2) ∧
    (let l := (onWire { state := .active, txmap := 0xFFFF, rxmap := 0xFFFF, ls := 1 }).link 0 7
     l.lsHeld = none ∧ 1 = l.ls ∧ l.ls < 2 ∧ l.ls < 3 ∧ 0 < l.ls ∧ l.ls ≠ 3 ∧ l.needed ≤ lanesIn (l.rxmap &&& ~~~l.failing) ∧ l.txmap ≠ 0 ∧ ((onWire { ls := 3 }).link 0 7).ls = 3) ∧
    ((onWire { ls := 2 }).upsBegun < (onWire { ls := 2 }).maxUp ∧ (onWire {}).maxUp ≤ { onWire {} with upsBegun := 8 }.upsBegun) ∧
    ((onWire { state := .train }).link 0 7).state ≠ .active ∧ ((onWire { state := .train }).link 0 7).state ≠ .off ∧ ({} : Link).waking = false ∧
    (({ lsReq := some (1, 0), lsHeld := some (2, 0) } : Link).lsReq = some (1, 0) ∧ ({ lsHeld := some (2, 0) } : Link).lsHeld = some (2, 0) ∧ State.ftc ((w .s).onDie 0 fun d => { d with fab := { ftc := 1000001 } }) 0 = 0 + 1000000 + 1) ∧
    ((onWire { ramp := some 0 }).link 0 7).ramp = some 0 ∧ ((onWire { ramp := some 0 }).link 0 7).remapping = none ∧
    (opticalLinks.find? (fun (d, i) => ((onWire { lighting := true }).link i d).lighting) = some (7, 0) ∧ (onWire {}).lastLight = none ∧
      ({ onWire {} with lastLight := some 0 } : State).lastLight = some 0 ∧ 0 + 20000 ≤ State.ftc ((w .s).onDie 0 fun d => { d with fab := { ftc := 20000 } }) 0) ∧
    (0x00 : Nat) ≤ 0x04 ∧ (0x04 : Nat) ≤ 0x20 ∧ (0x20 : Nat) < 0x60 ∧ (0x04 : Nat) < 0x0C := by decide +kernel

theorem meets_LinkRegisterEvents :
    (∀ i ∈ [(.healthSample 0 7 15 {} : Instr), .lctlClrcnt 0 7, .digclr 0 7, .linkStateAnnouncement 0 3 13 2 0, .linkStateAnnouncement 0 3 13 4 0, .detourWrite 0 7 8,
      .drainResend 0 7], i.problem = none) ∧
    (litLanes ((onWire { rxmap := 0x8000 }).link 0 7).rxmap 0).getLsbD 15 ∧
    (failsBy 7 { rxpwr := 0 } {} = false ∧ failsBy 7 { rxpwr := -1001 } {} ∧ failsBy 7 { rxpwr := -1000 } {} = false ∧ failsBy 4 {} { run := 3 } ∧ failsBy 3 {} { run := 3 } = false) ∧
    ((onWire { lanes := [(15, {})] }).link 0 7).lanes.get? 15 = some {} ∧ (w .s).unit < 16 ∧
    ((onWire { draining := true, drainOld := 1 }).link 0 7).draining ∧ ((onWire {}).link 0 7).draining = false ∧ ((onWire {}).link 0 7).held = [] ∧
    ({ dactive := true, ddim := 1 } : Link).dactive ∧ (8 : BitVec 4) ≠ 1 ∧
    (onWire { drainAt := 1 }).ftc 0 < ((onWire { drainAt := 1 }).link 0 7).drainAt + 100000 ∧ 0 + 100000 ≤ State.ftc ((w .s).onDie 0 fun d => { d with fab := { ftc := 100000 } }) 0 ∧
    ((onWire { draining := true, drainOld := 1 }).link 0 7).drainOld ≠ 7 ∧ ((onWire { state := .active } 1).link 0 1).state = .active := by decide +kernel



/-! ## Hypotheses of the statements about packets at their destination -/

/-- A packet of package 1's die 0 to this package's die 0. -/
def packet (type : Byte) (payload : List Byte) (tag : BitVec 16 := 0) : Packet := { dst := 0, src := 16, type, tag, syn := true, payload }
/-- A node fabric on die 0. -/
def fabricOf (f : Fabric) : State := (w .s).onDie 0 fun d => { d with fab := f }
def fillReq : Request := { tag := 1, peer := 16, waiter := .fill 3, line := 3 }
def storeReq : Request := { tag := 2, peer := 16, waiter := .store 4 }
def atomicReq : Request := { tag := 3, peer := 16, waiter := .atomic 1 }
/-- Requests that await a fill, a store's acknowledgement and an atomic's reply. -/
def awaiting : State := fabricOf { requests := [fillReq, storeReq, atomicReq] }

theorem meets_MemoryRequestsServed :
    let mrd := packet 1 (toLE 16 4096)
    let mwr (n : Nat) := packet 2 (toLE 8 4096 ++ toLE 8 n ++ List.replicate (72 * n) 0xFF)
    let matom (op size : Nat) := packet 3 (toLE 8 4096 ++ toLE 8 (op + 256 * size) ++ toLE 16 1)
    let msync (kind : Nat) := packet 4 (toLE 8 4096 ++ toLE 8 kind ++ toLE 8 7)
    (∀ p ∈ [mrd, mwr 1, mwr 4, matom 0 8, matom 8 4, msync 1, msync 2, msync 3, msync 4], ((w .s).accept 0 (requestCh p) p).2 ∧ (.mrd 0 p : Instr).problem = none ∧
      (.mwr 0 p : Instr).problem = none ∧ (.matom 0 p : Instr).problem = none ∧ (.msync 0 p : Instr).problem = none) ∧
    (let b := mrd.payload
     b.length = 16 ∧ field b 0 8 + 1 ≤ packageBytes ∧ field b 8 1 + 1 = 1 ∧ field b 9 1 ≤ 3 ∧ field b 10 6 = 0) ∧
    (∀ n ∈ [1, 4], let b := (mwr n).payload
     b.length = 16 + 72 * n ∧ field b 8 1 = n ∧ field b 0 8 % 64 = 0 ∧ field b 0 8 + 64 * n ≤ packageBytes ∧ field b 9 1 < 4 ∧ field b 14 2 = 0 ∧ field b 10 4 = 0) ∧
    ((matomOf (matom 0 8).payload).map Prod.fst = some 8 ∧ (matomOf (matom 8 4).payload).map Prod.fst = some 4 ∧ 4096 % 8 = 0 ∧
      field (matom 0 8).payload 10 6 = 0 ∧ matomOf (matom 0 4).payload = none ∧ (w .s).poisoned 4096 = false ∧ (fabricOf {}).poisoned 4096 = false ∧
      { w .s with poisonLines := [64] }.poisoned 4096) ∧
    (∀ k ∈ [1, 2, 3, 4], let b := (msync k).payload
     b.length = 24 ∧ field b 8 1 = k ∧ field b 9 7 = 0 ∧ field b 0 8 % 8 = 0 ∧ field b 0 8 + 8 ≤ packageBytes) ∧
    packageBytes < field (packet 1 (toLE 16 packageBytes)).payload 0 8 + 1 := by decide +kernel

/-- A reservation of die 0 toward package 1's die 0 over dimension 4, and a PUSH and an RTOK from there. -/
def reserved : State := fabricOf { resv := [{ own := true, index := 5, peer := 16, dim := 4, ch := 0, seq := 0, key := 1, bytes := 64 }] }
def somePush : Packet := packet 0x20 (List.replicate 8 1) 0xE005
def someToken : Packet := packet 0x13 (toLE 1 4 ++ [0] ++ toLE 2 9 ++ toLE 4 (64 + 2 ^ 23)) 7

theorem meets_RepliesAndArrivals :
    (let p := packet 0x10 (List.replicate 64 0) 1
     (.mrdr 0 p : Instr).problem = none ∧ fillReq ∈ (awaiting.die 0).fab.requests ∧
      (awaiting.die 0).fab.requests.find? (fun r => r.tag == p.tag && r.peer == p.src.toNat && r.unsent.isNone) = some fillReq ∧ (awaiting.accept 0 2 p).2 ∧ p.payload.length = 64) ∧
    (let p := packet 0x11 [] 2
     (.mwrr 0 p : Instr).problem = none ∧ (awaiting.die 0).fab.requests.find? (fun r => r.tag == p.tag && r.peer == p.src.toNat && r.unsent.isNone) = some storeReq ∧
      (awaiting.accept 0 2 p).2 ∧ p.payload = [] ∧ ∀ q ∈ (awaiting.die 0).fab.requests, q.waiter = .store 4 → q.tag = p.tag ∧ q.peer = p.src.toNat) ∧
    (let p := packet 0x10 [0, 0] 1
     let s := (fabricOf { requests := [{ fillReq with waiter := .load 5, line := 0x40040060000000 / 64 }] }).onDie 0 fun d =>
       { d with seq := { d.seq with landings := [{ someLoad with pas := [(0x40040060000000, none)] }] } }
     (.mrdr 0 p : Instr).problem = none ∧ (s.accept 0 2 p).2 ∧ p.poison = false ∧ ({ someLoad with pas := [(0x40040060000000, none)] } : Landing).lacks (0x40040060000000 / 64) ≠ [] ∧
      (s.die 0).seq.landings.find? (fun l => l.id == 5 && l.data.isNone && l.fault.isNone) = some { someLoad with pas := [(0x40040060000000, none)] }) ∧
    (∀ q ∈ (awaiting.die 0).fab.requests, q.unsent = none) ∧ fillReq.stale = false ∧ ({ fillReq with stale := true } : Request).stale ∧
    (∀ n ∈ [8, 16], let p := packet 0x12 (List.replicate n 0) 3
     (.matomr 0 p : Instr).problem = none ∧ (awaiting.die 0).fab.requests.find? (fun r => r.tag == p.tag && r.peer == p.src.toNat && r.unsent.isNone) = some atomicReq ∧
      (awaiting.accept 0 2 p).2 ∧ ((w .s).accept 0 2 p (counts := false)).2) ∧
    ((.push 0 3 somePush : Instr).problem = none ∧ (reserved.pushResv 0 3 somePush).isSome ∧ reserved.logs 0 1 = false ∧ (reserved.accept 0 3 somePush false).2 ∧
      reserved.pushResv 0 4 somePush = none ∧ (reserved.accept 0 4 somePush false).2) ∧
    ((.rtok 0 someToken : Instr).problem = none ∧ (tokenBits someToken).isSome ∧ (tokenBits someToken).map (·.cancel) = some false ∧
      (tokenBits someToken).map (·.key) = some 1 ∧ (tokenBits someToken).map (·.seq) = some 9 ∧ (reserved.accept 0 2 someToken false).2 ∧
      ((reserved.accept 0 2 someToken false).1.die 0).fab.dead = [] ∧ tokenBits (packet 0x13 []) = none ∧ (.rtok 0 (packet 0x13 []) : Instr).problem = none) := by
  decide +kernel

/-- Send and receive entries of die 0 toward that peer: two packets unacknowledged, number 5 expected. -/
def sent (q : BitVec 32) : OutPkt := { ch := 0, pkt := { packet 1 (toLE 16 4096) with eseq := q, epoch := 2 } }
def sendsOf (e : SendEntry) (t : W64 := 0) : State := fabricOf { sends := [e], ftc := t }
def recvsOf (e : RecvEntry) (t : W64 := 0) : State := fabricOf { recvs := [e], ftc := t }

theorem meets_EndToEndDelivery :
    (let e : SendEntry := { peer := 0, cls := 0, epoch := 2, next := 7, unacked := [sent 5, sent 6] }
     sequenced 1 ∧ (sendsOf e).sendEntry? 0 somePacket.dst.toNat (classOf 0) = some e ∧ ((sendsOf e).die 0).fab.unackedCount < 2048 ∧ ((sendsOf e).die 0).fab.stalled = []) ∧
    (let e : RecvEntry := { peer := 16, cls := 0, epoch := 0, expect := 5 }
     (recvsOf e).recvEntry? 0 16 (classOf 0) = some e ∧ (packet 1 []).epoch = e.epoch ∧ classOf 0 ≠ 1 ∧ (5 : BitVec 32).toNat = e.expect ∧
      (packet 1 []).src.toNat = 16 ∧ (4 : BitVec 32).toNat < e.expect ∧ e.expect < (6 : BitVec 32).toNat) ∧
    ((w .s).recvEntry? 0 16 (classOf 0) = none ∧ ({ packet 1 [] with syn := false } : Packet).syn = false) ∧
    (∀ cls ∈ [0, 1], let p : Packet := { packet 0x14 (toLE 1 cls ++ toLE 4 6 ++ toLE 8 0 ++ [0]) with epoch := 2 }
     let e : SendEntry := { peer := 16, cls, epoch := 2, next := 7, unacked := [sent 5, sent 6] }
     (.eack 0 p : Instr).problem = none ∧ p.payload.length = 14 ∧ field p.payload 0 1 = cls ∧ field p.payload 13 1 ≤ 1 ∧ field p.payload 5 8 = 0 ∧
      (sendsOf e).sendEntry? 0 p.src.toNat cls = some e ∧ e.epoch = p.epoch) ∧
    ((.eackSend 0 16 1 : Instr).problem = none ∧ (recvsOf { peer := 16, cls := 1, epoch := 2, eack := true }).recvEntry? 0 16 1 =
      some { peer := 16, cls := 1, epoch := 2, eack := true }) ∧
    (let e : SendEntry := { peer := 16, cls := 0, epoch := 2, next := 7, unacked := [sent 5] }
     (.e2eTimeout 0 16 0 : Instr).problem = none ∧ e.unacked ≠ [] ∧ e.busy = false ∧ (sendsOf e 100000).sendEntry? 0 16 0 = some e ∧
      e.timer + 1000 * max 1 ((sendsOf e 100000).die 0).fab.e2eto.toNat ≤ (sendsOf e 100000).ftc 0 ∧ e.timeouts + 1 < max 1 ((sendsOf e 100000).die 0).fab.e2erty.toNat ∧
      max 1 ((sendsOf e 100000).die 0).fab.e2erty.toNat ≤ 7 + 1) ∧
    (let e : SendEntry := { peer := 16, cls := 0, epoch := 2 }
     (.sendEntryIdleFree 0 16 0 : Instr).problem = none ∧ e.unacked = [] ∧ ∀ t ∈ [999999, 1000000], (sendsOf e (BitVec.ofNat 64 t)).sendEntry? 0 16 0 = some e) ∧
    ((.receiveEntryIdleFree 0 16 3 : Instr).problem = none ∧ ∀ t ∈ [1999999, 2000000], (recvsOf { peer := 16, cls := 3, epoch := 0 } (BitVec.ofNat 64 t)).recvEntry? 0 16 3 =
      some { peer := 16, cls := 3, epoch := 0 }) := by decide +kernel

/-- Die 1, one step from the master over dimension 0, with a link and a node fabric. -/
def child (f : Fabric) (l : Link := { state := .active }) : State :=
  { w .s with unit := 1, dies := [(0, { fab := { ftcm := true } }), (1, { powered := true, fab := f, links := [(0, l)] })] }

theorem meets_DrainsAndFabricTime :
    (let p : Packet := { dst := 1, src := 0, type := 5 }
     (.drain 1 3 p : Instr).problem = none ∧ (.drainack 1 p : Instr).problem = none ∧ neighbourDim ((child {}).nid 1) p.src.toNat = some 0 ∧
      ((child {} { drains := [0, 3] }).link 1 0).drains = [0, 3] ∧ classOf 3 = 2 ∧ ((child {} { draining := true, dactive := true, state := .active }).link 1 0).draining ∧
      ((child {} { draining := true }).link 1 0).detourWrites = []) ∧
    ((.tsync 1 (packet 0x16 (List.replicate 10 0)) : Instr).problem = none ∧ (packet 0x16 (List.replicate 10 0)).payload.length = 10) ∧
    (let s := child { ftc := 100000 }
     s.unit < 16 ∧ s.nid s.unit ≠ s.master ∧ (s.die s.unit).fab.syncAt + 100000 ≤ s.ftc s.unit ∧ s.ftc s.unit ≤ (s.die s.unit).fab.lastSample + 10000000 ∧
      s.parentDim s.unit = some 0) ∧
    ((child { ftc := 10000001 }).die 1).fab.lastSample + 10000000 < (child { ftc := 10000001 }).ftc 1 ∧
    (let f : Fabric := { sample := some (0, false), parent := 0 }
     ∀ t ∈ [(0 : Nat), 1000, 1001, 5000], let p : Packet := { dst := 1, src := 0, type := 0x17, payload := toLE 8 t ++ toLE 2 0 ++ toLE 8 t ++ toLE 2 0 }
      (.tsyncr 1 p true : Instr).problem = none ∧ (.tsyncr 1 p false : Instr).problem = none ∧ ((child f).die 1).fab.sample = some (0, false) ∧ p.payload.length = 20 ∧
      p.src.toNat = (child f).nid 1 ^^^ 2 ^ ((child f).die 1).fab.parent.toNat ∧ p.retx = false ∧
      ((stampPs p.payload 0 - 0 : Int) - (f.picos - stampPs p.payload 10)) / 2 = 1000 * t ∧ f.picos + 1000 * t < 2 ^ 64 * 1000) ∧
    (let f : Fabric := { ftc := 5000, sample := some (5000000, false) }
     ((stampPs (List.replicate 20 0) 0 - 5000000 : Int) - (f.picos - stampPs (List.replicate 20 0) 10)) / 2 < -1000000) := by decide +kernel


/-! ## Hypotheses of the statements about engines -/

/-- How a try at a command ended. -/
def endB (x : Ended) : Nat := match x with | .wait _ => 0 | .done _ => 1 | .park _ _ => 2 | .fail _ _ => 3
/-- Die 0 with engine queues and a node fabric as given. -/
def busy (c : Ctxt) (f : Fabric := {}) (halted : Bool := false) : State :=
  { w .s with dies := [(0, { c, seq := { run := .running }, task := some someTask, powered := true, groups := 8, fab := f, dbgBlock := { halted } })] }
/-- A command with its address, its first two scalar operands and its place. -/
def cmd (instr : Instr) (a0 : W72 := 0) (s0 s1 : W64 := 0) : Cmd := { instr, cmdix := 1, id := 3, faddr := 0x1000, a0, s0, s1 }

/-- Tables that map 1 GiB from 0x20000000 on in class 0. -/
def chip : List Host.Cell := [(0x30000000000000, 1), (0x30000000000006, 0x30), (0x30000000000008, 0x3B), (0x3000000000000B, 0x40)]

theorem meets_EngineCompletions :
    (let k := cmd (.zacc {})
     let b := cmd (.trenew { tile := 1 })
     let s := busy { regs with matQ := [k] }
     s.unit < 16 ∧ s.still 0 = false ∧ (s.die s.unit).c.matQ = [k] ∧ k.follow = none ∧ ((s.die s.unit).runMatrix (s.us s.unit) k s.free 0).fail.isNone ∧ ((s.die s.unit).runMatrix (s.us s.unit) k s.free 0).rest.isNone ∧
      ((busy { regs with matQ := [b] }).die 0).c.matQ = [b] ∧ (((busy { regs with matQ := [b] }).die 0).runMatrix 0 { b with tile := tile 0x100 9 } 0 0).fail.isSome) ∧
    (let done := cmd (.pref { fd := 1 }) 0x20000000
     let park := { cmd (.cpy { src := 1, dst := 2 }) with nest := { run := 8 }, a0 := 0x40000000, a1 := 0x20000000 }
     let bad := cmd (.amo {}) 0x20000001
     let s (k : Cmd) := { busy { regs with copyQ1 := [k] } { ftc := 2000000 } with mem := chip }
     (∀ k ∈ [done, park, bad], ((s k).die 0).c.copyQ 1 = [k] ∧ k.parked = none ∧ (s k).still 0 = false) ∧
      endB ((s done).copyTry 0 1 done 0 false) = 1 ∧ endB ((s park).copyTry 0 1 park 0 false) = 2 ∧ endB ((s bad).copyTry 0 1 bad 0 false) = 3 ∧
      (let k := { cmd (.waita { addr := 1 }) 0x20000000 1 0x60000000 with armed := true }
       k.armed ∧ (s k).overdue 0 k ∧ endB ((s k).copyTry 0 1 k 0 true) = 1) ∧
      done.moved = [] ∧ done.s2.toNat / 2 ^ 32 ≠ 1) ∧
    (let k : Cmd := { cmd (.grs {}) with begun := true }
     let r : Role := { ldim := 0, dim := 0, peer := 1, recv := some 2, begun := true }
     let s (k : Cmd) := busy { regs with xchQ0 := [k] } { ftc := 2000000 }
     (s k).still 0 = false ∧ (s k).xchHead 0 0 = some k ∧ k.begun ∧ k.isDigest = false ∧ endB ((s k).exchangeTry 0 0 k false) = 1 ∧
      (let k := { k with roles := [r] }
       (s k).xchHead 0 0 = some k ∧ (s k).overdue 0 k ∧ endB ((s k).exchangeTry 0 0 k true) = 3)) ∧
    (busy regs {} true).still 0 ∧ Engine.matrix ≠ .sequencer ∧ Engine.copy0 ≠ .matrix := by decide +kernel

theorem meets_AtomicsAtTheirHomes :
    let pa := 0x60000000
    (∀ k ∈ [cmd (.amo {}) 0x20000000 3, cmd (.amo { op := 12 }) 0x20000000 3, cmd (.cas {}) 0x20000000 3 4, cmd (.rel { scope := 3 }) 0x20000000 3,
        { cmd (.acq {}) 0x20000000 with landing := some 1 }, cmd (.waita {}) 0x20000000 0],
      let s := { busy { regs with copyQ0 := [k] } with mem := chip }
      let pas := (List.range k.atomic.1).map (pa + ·)
      k.performed = false ∧ k.begun = false ∧ (match s.word 0 k k.atomic.1 3 with | .ok x => x == (pa, 0) | _ => false) = true ∧
      (match s.object 0 k 3 with | .ok x => x == (pa, 0) | _ => false) = true ∧ (match s.object 0 k 1 with | .ok x => x == (pa, 0) | _ => false) = true ∧ k.done ≠ 16 ∧
      s.inWay 0 k.id 0 [] pas = false ∧ s.inWay 0 k.id 0 pas [] = false ∧ s.boundWait 0 k = none ∧ s.poisoned pa = false ∧
      { s with poisonLines := [lineOf pa] }.poisoned pa ∧ (∀ a ∈ pas, s.window? a = none) ∧ s.writesDone 0 k.id k.scope k.cmdix ∧ s.fused.get false 0 = false ∧
      k.s0.toNat ≤ 3) ∧
    paClass pa < 3 ∧
    (let early := { cmd (.rwb {}) 0x20000000 with cmdix := 9, id := 1 }
     (busy { regs with copyQ0 := [early] }).writesDone 0 3 2 1 = false) := by decide +kernel


/-! ## Hypotheses of the statements about tasks -/

/-- A flight's node of 8 iterations in one level. -/
def someNode : Node :=
  { kind := 0, pinned := false, migr := false, prioset := false, ovrabort := false, pre := false, prio := 0, retry := 1, nlev := 1, order := [0], desig := 0, extra := 0
    npred := 1, entry := 0, param := 0, budget := 1, succ := 0, nsucc := 0, banks := 0, bounds := [8], psrc := 0, plen := 0, pbank := 0, ptile := 0, pfmt := 0, prows := 0
    pcols := 0, csrc := 0, cdst := 0, clen := 0 }
/-- A replay whose node 1 is open with `left` iterations to end. -/
def flying (left : Nat := 2) (r : Replay := someReplay 1) : State :=
  { graphs with replays := [{ r with pooled := [1], flights := [(1, { node := someNode, ready := 0, left })] }] }
/-- Die 0 of it at its task's end. -/
def atEnd (e : EndCause) (left : Nat := 2) : State :=
  (flying left).onDie 0 fun d => { d with task := some { someTask with task := { someTask.task with node := 1 }, pinned := false }, seq := { run := .ended, endCause := some e } }
/-- Die 0 of it free. -/
def freeDie (s : State := flying) : State := s.onDie 0 fun d => { d with task := none, seq := {} }

theorem meets_TasksCountsAndReplays :
    ((∀ s ∈ [freeDie, freeDie { flying with replays := [] }, atEnd .fend], Opened s ∧ s.unit < 16 ∧ s.waitingGangs = []) ∧ (freeDie.die 0).task = none ∧ freeDie.dieFree 0 ∧
      (freeDie.pick 0).isSome ∧ (freeDie { flying with replays := [] }).pick 0 = none ∧ (freeDie.flight? 1 1).isSome ∧ freeDie.objects.get? (someReplay 1).handle = some someObj ∧
      someNode.pre = false ∧ (freeDie.pick 0).bind (·.saved) = none ∧ (∀ v ∈ freeDie.saved, v.kind ≠ .resident 0) ∧ 8 ≤ (freeDie.die 0).groups) ∧
    (({ half := true } : Die).half ∧ ({ groups := 8 } : Die).half = false ∧ ({ groups := 6 } : Die).groups < 7 ∧ ({ groups := 7 } : Die).groups < 8 ∧
      (((w .s).onDie 3 fun d => { d with groupAt := some 0 }).die 3).groupAt = some 0 ∧ (w .s).wc < 0 + 2000 ∧ ∀ z ∈ List.range 16, ((w .s).die z).groupAt = none) ∧
    (∀ e ∈ [EndCause.fend, .failed .stale 0, .failed .illegal 0], ∀ left ∈ [1, 2], let s := atEnd e left
      (s.die 0).task.isSome ∧ (s.die 0).seq.run = .ended ∧ (s.die 0).seq.endCause = some e ∧ ((s.flight? 1 1).map fun x => (x.1.aborted, x.2.1.left)) = some (none, left)) ∧
    (okB ((atEnd .fend 1).completeNode 1 1 someNode) fun _ => true) ∧ rerunnable .stale 0 ∧ rerunnable .illegal 0 = false ∧ 0 < someNode.retry ∧
    ((let r := { someReplay 1 with hw := [(0, 2), (1, 1)] }
      let s : State := { w .s with replays := [r] }
      s.replay? 1 = some r ∧ r.aborted = none ∧ (0 : Nat) < r.desc.nodes ∧ r.hw.get? 0 = some 2 ∧ r.hw.get? 1 = some 1 ∧ s.poolUsed < 8192 ∧ r.desc.nodes ≤ 2 ∧
        (someReplay 1).hw.get? 1 = none ∧ 1 ∉ (someReplay 1).spilled) ∧
      (let r := { someReplay 1 with spilled := [1], desc := { (someReplay 1).desc with spill := 0x20000800, nodeBase := 0x20000000 } }
       let s : State := { graphs with replays := [r] }
       s.replay? 1 = some r ∧ 1 ∈ r.spilled ∧ okB (s.devRead 1 0x20000808 8) (fun x => ofLE x.2 == 0) ∧ okB (s.nodeBytes r 1) (fun _ => true) ∧
        addrsB (s.devAddrs 1 0x20000808 8 3) fun l => l.all fun x => paClass x.1 != 4) ∧
      (let r := { someReplay 1 with spilled := [1], desc := { (someReplay 1).desc with spill := 0x20000800, nodeBase := 0x20000000 } }
       let s (spillRead : List Nat) : State := { graphs with replays := [{ r with spillRead }], mem := graphs.mem.flatMap fun x => if x.1 = 0x3000000000000E then [(0x3000000000000D, 0x04), (x.1, 0x40)] else [x] }
       1 ∉ r.spillRead ∧ addrsB ((s []).devAddrs 1 0x20000808 8 3) (fun l => l.any fun x => paClass x.1 == 4) ∧ field (List.replicate 8 (0 : Byte)) 0 4 ≤ (nodeOf []).npred + (nodeOf []).extra) ∧
      ((someReplay 1).desc.tmo ≠ 0 ∧ (w .s).ftc 0 < 0 + 1000000 * 1 ∧ 0 + 1000000 * 1 ≤ (fabricOf { ftc := 1000000 }).ftc 0) ∧
      (let r := { someReplay 1 with completed := 2 }
       let s : State := { graphs with replays := [r] }
       s.replay? 1 = some r ∧ s.retires r ∧ r.doneOk = none ∧ addrsB (s.graphOpen 1 r.graph) (fun _ => true) ∧ s.writesOut 1 = false ∧ s.retires { r with completed := 1 } = false ∧ okB (s.writeDone r) (fun t => (t.die 0).fab.requests.isEmpty && (t.replay? 1).isSome) ∧
        addrsB (s.devAddrs 1 0x20000000 32 2) (fun l => (l.all fun x => paClass x.1 != 4 && !s.poisoned x.1 && (s.window? x.1).isNone) && decide ((l.map Prod.fst).Nodup))) ∧
      ({ someReplay 1 with doneOk := some true } : Replay).doneOk.isSome ∧ ({ someReplay 1 with aborted := some { xstat := 1, cause := 0, node := 0 } } : Replay).aborted.isSome) := by
  unfold Opened; exact ⟨⟨by decide +kernel, by decide +kernel⟩, by decide +kernel, by decide +kernel, by decide +kernel, by decide +kernel, by decide +kernel, by decide +kernel⟩

/-- Die 0 of it, its task running and past its budget where FTC is 5. -/
def overBudget (q : Seq := { run := .running, preempt := true }) (ftc : W64 := 5) : State :=
  flying.onDie 0 fun d => { d with task := some { someTask with task := { someTask.task with node := 1 }, pinned := false, budget := 5, since := some 0 }, seq := q, fab := { ftc } }

/-- A context saved of that task, whole. -/
def someSaved : Saved := { id := 7, task := { someTask with pinned := false }, kind := .full, ctxt := {}, pc := 0x1000, die := 0, rowLim := 128, colLim := 128 }



/-! ## Hypotheses of the statements about die cycles, the step and traps -/

/-- A line: ADDI s7, s7, 1 under p1, with bytes of a second bundle behind it. -/
def someLine (second : List Byte := [1, 0, 0, 0, 0, 0]) : List Byte := [0x01, 0x01, 0x03, 0xC7, 0x11, 0x00] ++ second ++ List.replicate (58 - second.length) 0
/-- A sequencer at that line's bundle at byte `o`. -/
def someSeq (o : Nat := 0) (second : List Byte := [1, 0, 0, 0, 0, 0]) (wait : Nat := 0) : Seq :=
  { run := .running, pc := 0x1000 + o, halfCur := { seg := 0x1000, live := true, trailer := List.replicate 16 0, lines := [(0, someLine second)] }
    held := some { guards := [true], wait, dec := 0, sched := wait } }
/-- The die that runs it. -/
def cycling (q : Seq := someSeq) (bound : W64 := 0x10000) (lim : Nat := 64000) (p1 : Bool := true) : State :=
  w .s { regs with p := if p1 then regs.p else [], ctxbound := bound, lim } q
/-- The bytes there are ready and pass a test with the state they leave. -/
def readyCode (x : CodeAt) (p : State → List Byte → Bool) : Bool := match x with | .ready s b => p s b | _ => false

theorem meets_DieCyclesAndDecisions :
    (∀ s ∈ [cycling, { cycling with dies := [] }, { cycling with trust := { start := 0, ps := 1 } }], s.unit < 16 ∧ ((s.die 0).powered = false ∨ s.trust.ps ≠ 0 ∨ s.trust.ps = 0 ∧ (s.die 0).powered)) ∧
    ({ cycling with dies := [] }.die 0).powered = false ∧ ((busy {} {} true).die 0).dbgBlock.halted ∧ ((w .s {} {}).die 0).seq.run = .idle ∧
    ((w .s {} {}).die 0).dbgBlock.halted = false ∧ ((w .s {} {}).die 0).seq.haltReq = none ∧ ((w .s {} {}).die 0).seq.window.sum = 0 ∧
    (let d := (w .s { lim := 4000 } { window := [3900] }).die 0
     d.seq.run = .idle ∧ d.seq.window.sum ≠ 0 ∧ d.c.lim < d.seq.window.sum + (200 + d.busyWeight)) ∧
    (∀ q ∈ [someSeq, { someSeq with held := none, decideAt := 1 }], let d := (cycling { q with landings := [{ id := 1, due := 0, dest := .discard }] }).die 0
     d.seq.run = .running ∧ d.seq.taking = none ∧ d.seq.preempt = false ∧ d.c.pendTraps = [] ∧ (∀ l ∈ d.seq.landings, l.fault = none) ∧
      (∃ l ∈ d.seq.landings, l.due ≤ d.seq.cycle ∧ l.data = none) ∧ (d.seq.held.isSome ∨ d.seq.cycle < d.seq.decideAt)) ∧
    (∀ lim ∈ [4000, 64000], let d := (cycling { someSeq 0 [] 3 with window := [3900] } 0x10000 lim).die 0
     d.seq.landings = [] ∧ d.seq.memWait = [] ∧ d.seq.held.isSome ∧ d.heldBundle.isSome ∧ (3 : Nat) ≠ 0 ∧ d.seq.window.sum ≠ 0 ∧
      (if lim = 4000 then (d.applyDue (· ≤ d.seq.cycle)).c.lim < d.seq.window.sum + (200 + (d.applyDue (· ≤ d.seq.cycle)).busyWeight)
       else d.seq.window.sum + (200 + (d.applyDue (· ≤ d.seq.cycle)).busyWeight) ≤ (d.applyDue (· ≤ d.seq.cycle)).c.lim)) ∧
    (let d := (cycling { run := .ending }).die 0
     d.seq.run = .ending ∧ d.seq.stores = [] ∧ d.seq.memWait = [] ∧ d.c.allCmds = [] ∧ d.seq.pend = []) ∧
    -- guards all false that may be read, and one whose predicate a landing or a later write is to give
    (∀ late ∈ [true, false], let q := someSeq
     readyCode (((cycling { q with score := if late then [{ reg := .p 1, ready := 99, landing := false }] else [] } 0x10000 64000 false).onDie 0 fun d =>
       { d with c := { d.c with chksb := 1 } }).codeAt 0) fun s1 bytes =>
      (match decodeBundle bytes with
       | .ok b => let s2 := s1.onDie 0 Die.enterBody
         { s2 with issue := { die := 0, addr := (s2.die 0).seq.pc, dec := (s2.die 0).seq.schedAt, sched := (s2.die 0).seq.schedAt, guards := guardRegs b } }.holdShort [] == late
       | .error _ => false)) ∧
    -- a decision: the bundle's guard true, false, its bytes no bundle, and past the bound
    (∀ p1 ∈ [true, false], readyCode ((cycling someSeq 0x10000 64000 p1).codeAt 0) fun s1 bytes =>
      (match decodeBundle bytes with
       | .ok b => let d := (s1.onDie 0 Die.enterBody).die 0
         decide (d.c.ctxbase.toNat ≤ d.seq.pc ∧ d.seq.pc + b.len ≤ d.c.ctxbound.toNat) && (b.slots.all fun x => (d.c.preg x.pfx.guard.toNat != x.pfx.inv) == p1) && !d.dbgBlock.brken
       | .error _ => false)) ∧
    (readyCode ((cycling (someSeq 6 [0x80, 0, 0, 0, 0, 0])).codeAt 0) fun _ bytes => (match decodeBundle bytes with | .error _ => true | .ok _ => false)) ∧
    (readyCode ((cycling someSeq 0x1004).codeAt 0) fun s1 bytes =>
      (match decodeBundle bytes with
       | .ok b => decide (((s1.onDie 0 Die.enterBody).die 0).c.ctxbound.toNat < 0x1000 + b.len)
       | .error _ => false)) := by decide +kernel

theorem meets_SelectsByPredicate : Ready (w .s) (.sel { d := 7, a := 1, b := 2, fn := 1 }) ∧ Ready (w .s) (.sel { d := 62, a := 1, b := 63, fn := 0, lit := 1 }) :=
  ⟨ready_of (by decide +kernel), ready_of (by decide +kernel)⟩

theorem meets_NopDoesNothing : Ready (w .s) .nop ∧ ∃ b : Bundle, ∃ x ∈ b.slots, x.op = .ok .nop :=
  ⟨ready_of (by decide +kernel), { slots := [⟨.s, {}, .ok .nop⟩], lits := [], len := 6 }, _, List.mem_singleton.mpr rfl, rfl⟩

/-- Whether an operation has its effect at a state. -/
def effectB (i : Instr) (s : State) : Bool := match runOp i s with | .ok _ => true | .error _ => false

theorem meets_WritesTakeEffect :
    (let p : Pend := { at_ := 0, due := 9, write := .s 7 1 }
     let q : Pend := { at_ := 1, due := 2, write := .s 7 2 }
     let d : Die := { seq := { pend := [q, p] } }
     d.seq.landings = [] ∧ d.seq.pend = [q, p] ∧ p.write = .s 7 1 ∧ q.write = .s 7 2 ∧ p.at_ < q.at_ ∧
      (p.due ≤ 9 ∧ q.due ≤ 9) ∧ (2 < p.due ∧ q.due ≤ 2) ∧ (1 < p.due ∧ 1 < q.due)) ∧
    (let l : Landing := { id := 1, due := 2, dest := .s 7 8 false, data := some (List.replicate 8 1) }
     let d : Die := { seq := { landings := [l] } }
     d.seq.pend = [] ∧ d.seq.landings = [l] ∧ l.dest = .s 7 8 false ∧ l.due ≤ 2 ∧ (List.replicate 8 (1 : Byte)).length = 8 ∧ l.data = some (List.replicate 8 1)) ∧
    effectB (.addi { d := 7, a := 1, imm := 1 }) (w .s) := by decide +kernel

theorem meets_EncodingsAgree :
    (let ops : List (Slot × Pfx × Instr) := [(.s, { guard := 6 }, .addi { d := 7, a := 63, imm := 1 })]
     ops ≠ [] ∧ presentSlots 0x41 = ops.map Prod.fst ∧ litCount 0x41 = [(5 : BitVec 32)].length ∧ (∀ o ∈ ops, o.2.2.problem = none) ∧
      (ops.map fun o => encodeSlot o.1 o.2.1 o.2.2) = [[0x06, 0x03, 0xC7, 0x1F, 0x00]].map some) ∧
    ([0x06, 0x03, 0xC7, 0x1F, 0x00] : List Byte).length = Slot.s.size ∧ decodeSlot .s [0x06, 0x03, 0xC7, 0x1F, 0x00] = ⟨.s, { guard := 6 }, .ok (.addi { d := 7, a := 63, imm := 1 })⟩ ∧
    encode (.addi { d := 7, a := 63, imm := 1 }) [5] = some [0x41, 0x00, 0x03, 0xC7, 0x1F, 0x00, 0x05, 0x00, 0x00, 0x00] := by decide +kernel

theorem meets_UnassignedOpcodesTrap :
    (let b : Bundle := { slots := [⟨.s, {}, .bad .unassigned⟩], lits := [], len := 6 }
     ∃ x ∈ b.slots, x.op = .bad .unassigned) ∧
    (((cycling).die 0).seq.landings = [] ∧ ((cycling).die 0).seq.pend = []) ∧
    -- opcode 0x47 of the S slot under p1, which is false
    (readyCode ((cycling (someSeq 6 [0x01, 0x01, 0x47, 0, 0, 0]) 0x10000 64000 false).codeAt 0) fun s1 bytes =>
      (match decodeBundle bytes with
       | .ok b => let d := (s1.onDie 0 Die.enterBody).die 0
         decide (d.c.ctxbase.toNat ≤ d.seq.pc ∧ d.seq.pc + b.len ≤ d.c.ctxbound.toNat) && (b.slots.all fun x => x.op == .bad .unassigned && d.c.preg x.pfx.guard.toNat == x.pfx.inv)
       | .error _ => false)) := by decide +kernel

theorem meets_StepRunsDecodedInstruction :
    let i : Instr := .addi { d := 7, a := 7, imm := 1 }
    let h : Held := { guards := [true], wait := 0, dec := 0, sched := 0 }
    let s := cycling
    let d := s.die s.turn
    s.tape = [] ∧ (s.agenda = [] ∨ s.round = 0) ∧ s.turn < 16 ∧ s.trust.ps = 0 ∧ d.powered ∧ d.dbgBlock.halted = false ∧ d.seq.run = .running ∧ d.seq.taking = none ∧
      d.seq.haltReq = none ∧ d.seq.preempt = false ∧ d.c.pendTraps = [] ∧ d.seq.landings = [] ∧ d.seq.memWait = [] ∧ d.seq.held = some h ∧ h.wait = 0 ∧ h.guards = [true] ∧
      d.seq.halfCur.lines.get? (lineIn d.seq.pc) = some someLine ∧
      (match decodeBundle ((someLine.take (lineLimit (lineIn d.seq.pc))).drop (d.seq.pc % 64)) with
       | .ok b => b.slots == [⟨.s, { guard := 1 }, .ok i⟩] &&
         (let s0 := State.onDie { s with unit := s.turn } s.turn fun d => d.applyDue (· ≤ d.seq.cycle)
          let r := s0.readyIssue s.turn b h
          let s1 := { r with issue := { r.issue with slot := .s } }
          readyB s1 i && effectB i s1 && (match exec i s1 with | .next _ => true | _ => false))
       | .error _ => false) = true ∧ (encodeSlot .s { guard := 1 } i).isSome ∧ d.seq.window.sum = 0 ∧
      { s with tape := [⟨0, .dieCycle⟩] }.tape = [⟨0, .dieCycle⟩] ∧ { s with agenda := [⟨0, .dieCycle⟩], round := 1 }.agenda = [⟨0, .dieCycle⟩] := by decide +kernel

theorem meets_EveryStepKeepsMemoryCanonical : Memory.wf cycling.mem = true ∧ (match step cycling with | .next _ => true | _ => false) = true := by decide +kernel

/-- Die 0 with a trap vector. -/
def vectored (c : Ctxt) : State := w .s { c with tvec := 0x100000040 }

/-- How a store of a trap record ended: made, faulted, or made to wait. -/
def gotB {α : Type} (x : Got α) : Nat := match x with | .ok _ => 0 | .fault _ _ => 1 | .wait _ => 2

theorem meets_TrapEntry :
    let t : Trap := { cause := .illegal, faddr := 0x1000 }
    let store (s : State) : Got State := let c := (s.die 0).c
      s.storeNow 0 (s.ctxOn 0) (c.trecbase + BitVec.ofNat 72 (64 * c.tdepth)) (trapRecord c t t.cause (s.die 0).seq.pc (c.pendTraps.any fun x => x.engine != 0))
    let v (base : Nat) := vectored { regs with trecbase := BitVec.ofNat 72 base }
    let late := (v 0x20000000).onDie 0 fun d => { d with seq := { d.seq with nextId := 7, stores := [{ someStore with bytes := [(0x30000060000000, 9)] }] } }
    (gotB (store (v 0x20000000)) = 0 ∧ gotB (store (v 0)) = 1 ∧ gotB (store late) = 2) ∧
    (∀ s ∈ [v 0x20000000, v 0, late], (s.die 0).c.tvec.getLsbD 32 ∧ (s.die 0).c.tdepth < 4) ∧
    ((w .s).die 0).c.tvec.getLsbD 32 = false ∧ ((vectored { regs with tdepth := 4 }).die 0).c.tdepth = 4 ∧
    ((w .s).die 0).c.trecbase = 0 ∧ t.cause ≠ .depth ∧ t.cause ≠ .recFault ∧ t.cause ≠ .holdShort ∧ t.cause ≠ .stale := by decide +kernel


/-! ## A save slot that can be written and read -/

/-- Where the page tables stand. -/
abbrev tableAt : Nat := 0x30000000000000
/-- Context 1's tables as `tables` has them, nothing poisoned: what the writes of a save keep. -/
def Walks (s : State) : Prop :=
  s.contexts.get? 1 = some ctx1 ∧ s.poisonLines = [] ∧ (s.die noDie).tlb = [] ∧ s.homeNat tableAt 8 = 0x30000000000001 ∧ s.homeNat (tableAt + 8) 8 = 0x3000004000003B

theorem walks_translate {s : State} (h : Walks s) {va : Nat} (lo : 0x20000000 ≤ va) (hi : va < 0x40000000) (need : Nat) :
    s.translate noDie 1 va need = .ok (0x30000040000000 + va % 2 ^ 30) 0 := by
  obtain ⟨hc, hp, ht, h0, h1⟩ := h
  have e0 : va % 2 ^ 72 = va := Nat.mod_eq_of_lt (by omega)
  have i0 : va / 2 ^ 68 % 2 ^ 4 = 0 := by omega
  have i1 : va / 2 ^ 55 % 2 ^ 13 = 0 := by omega
  have i2 : va / 2 ^ 42 % 2 ^ 13 = 0 := by omega
  have i3 : va / 2 ^ 29 % 2 ^ 13 = 1 := by omega
  have m0 : ∀ a, paClass a = 3 → s.mapped a = true := fun a ha => by simp [State.mapped, ha]
  have m1 : ∀ a, paClass a = 3 → s.absent a = false := fun a ha => by simp [State.absent, ha]
  have m2 : ∀ a, s.poisoned a = false := fun a => by simp [State.poisoned, hp]
  have hroot : ctx1.root = tableAt := rfl
  have step : ∀ level shift bits r, level ≠ 4 → va / 2 ^ shift % 2 ^ bits = 0 → s.walk va ((level, shift, bits) :: r) tableAt = s.walk va r tableAt := by
    intro level shift bits r hl hz
    have next : ((BitVec.ofNat 64 0x30000000000001).extractLsb' 16 40).toNat * 2 ^ 16 = tableAt := by decide
    rw [State.walk]
    simp only [hz, Nat.mul_zero, Nat.add_zero, m0 tableAt (by decide), m1 tableAt (by decide), m2, h0, next, hl, or_false]
    simp [pteClean]
  have leaf : s.walk va [(3, 29, 13), (4, 16, 13)] tableAt = .ok (0x3000004000003B, 2 ^ 30) := by
    have size : s.leafSize 3 0x3000004000003B = some (2 ^ 30) := by
      have hm := m0 (((0x3000004000003B : W64).extractLsb' 16 40).toNat * 2 ^ 16) (by decide)
      unfold State.leafSize
      simp only [hm]
      decide
    rw [State.walk]
    simp only [i3, Nat.mul_one, m0 (tableAt + 8) (by decide), m1 (tableAt + 8) (by decide), m2, h1]
    have : (BitVec.ofNat 64 0x3000004000003B : W64) = 0x3000004000003B := rfl
    rw [this, size]
    simp [pteClean]
  have walk : s.walk va vaLevels ctx1.root = .ok (0x3000004000003B, 2 ^ 30) := by
    rw [hroot, vaLevels, step _ _ _ _ (by decide) i0, step _ _ _ _ (by decide) i1, step _ _ _ _ (by decide) i2, leaf]
  unfold State.translate
  rw [hc]
  simp only [e0, walk, ht, List.find?_nil]
  have frame : ((0x3000004000003B : W64).extractLsb' 16 40).toNat * 2 ^ 16 = 0x30000040000000 := by decide
  have hm := m0 (0x30000040000000 + va % 2 ^ 30) (by unfold paClass; omega)
  have perm : ((need.testBit 0 && !(0x3000004000003B : W64).getLsbD 4) || (need.testBit 1 && !(0x3000004000003B : W64).getLsbD 5)) = false := by
    rw [show (0x3000004000003B : W64).getLsbD 4 = true by decide, show (0x3000004000003B : W64).getLsbD 5 = true by decide]
    simp
  unfold useLeaf
  simp only [frame, perm, hm]
  rfl

theorem mem_distinct {l : List Nat} {x : Nat} : x ∈ distinct l ↔ x ∈ l := by
  induction l with
  | nil => simp [distinct]
  | cons a r ih => simp only [distinct, List.mem_cons, List.mem_filter, ih]; by_cases h : x = a <;> simp [h]

theorem walks_pages {s : State} (h : Walks s) (need : Nat) (l : List Nat) (hl : ∀ p ∈ l, 0x20000000 ≤ p * 2 ^ 16 ∧ p * 2 ^ 16 < 0x40000000) :
    s.translatePages noDie 1 need l = .ok (l.map fun p => (p, 0x30000040000000 + p * 2 ^ 16 % 2 ^ 30, 0)) := by
  induction l with
  | nil => rfl
  | cons p r ih =>
    have hp := hl p (by simp)
    rw [State.translatePages, walks_translate h hp.1 hp.2 need]
    simp only [ih fun q hq => hl q (by simp [hq]), List.map_cons]

/-- Where a byte of the mapped gibibyte stands. -/
def placeOf (va k : Nat) : Nat := 0x30000040000000 + (va + k) % 2 ^ 30

theorem devAddrs_of {s : State} {ctx va n need : Nat} {pages : List (Nat × Nat × Nat)}
    (h : s.translatePages noDie ctx need (pagesOf [{ va := BitVec.ofNat 72 va, len := n }]) = .ok pages) :
    s.devAddrs ctx va n need = .ok ((vaBytes [{ va := BitVec.ofNat 72 va, len := n }]).map (byPages pages)) := by
  unfold State.devAddrs
  simp only []
  generalize s.translatePages noDie ctx need (pagesOf [{ va := BitVec.ofNat 72 va, len := n }]) = x at h
  subst h
  rfl

theorem vaBytes_one {va n : Nat} (h : va + n ≤ 2 ^ 71) : vaBytes [{ va := BitVec.ofNat 72 va, len := n }] = (List.range n).map fun k => va + k := by
  have ev : (BitVec.ofNat 72 va).toNat = va := by rw [BitVec.toNat_ofNat]; exact Nat.mod_eq_of_lt (by omega)
  simp only [vaBytes, List.flatMap_cons, List.flatMap_nil, List.append_nil, ev]
  exact List.map_congr_left fun k hk => Nat.mod_eq_of_lt (by have := List.mem_range.mp hk; omega)

theorem pagesOf_one {va n : Nat} (h : va + n ≤ 2 ^ 71) (p : Nat) :
    p ∈ pagesOf [{ va := BitVec.ofNat 72 va, len := n }] ↔ ∃ k, k < (if n = 0 then 0 else (n - 1 + va % 2 ^ 16) / 2 ^ 16 + 1) ∧ p = va / 2 ^ 16 + k := by
  have ev : (BitVec.ofNat 72 va).toNat = va := by rw [BitVec.toNat_ofNat]; exact Nat.mod_eq_of_lt (by omega)
  simp only [pagesOf, mem_distinct, List.flatMap_cons, List.flatMap_nil, List.append_nil, List.mem_map, List.mem_range, ev]
  constructor
  · rintro ⟨k, hk, rfl⟩; exact ⟨k, hk, Nat.mod_eq_of_lt (by split at hk <;> omega)⟩
  · rintro ⟨k, hk, rfl⟩; exact ⟨k, hk, Nat.mod_eq_of_lt (by split at hk <;> omega)⟩

theorem byPages_of {l : List Nat} {f : Nat → Nat} {va : Nat} (h : va / 2 ^ 16 ∈ l) : byPages (l.map fun p => (p, f p, 0)) va = (f (va / 2 ^ 16) + va % 2 ^ 16, 0) := by
  suffices hf : (l.map fun p => (p, f p, 0)).find? (fun p => p.1 == va / 2 ^ 16) = some (va / 2 ^ 16, f (va / 2 ^ 16), 0) by
    unfold byPages; rw [hf]
  induction l with
  | nil => cases h
  | cons q r ih =>
    by_cases hq : q = va / 2 ^ 16
    · simp [hq]
    · have := ih ((List.mem_cons.mp h).resolve_left fun x => hq x.symm)
      rw [List.map_cons, List.find?_cons_of_neg (by simpa using hq)]; exact this

theorem walks_addrs {s : State} (h : Walks s) {va n : Nat} (lo : 0x20000000 ≤ va) (hi : va + n ≤ 0x40000000) (need : Nat) :
    s.devAddrs 1 va n need = .ok ((List.range n).map fun k => (placeOf va k, 0)) := by
  have small : va + n ≤ 2 ^ 71 := Nat.le_trans hi (by decide)
  rw [devAddrs_of (walks_pages h need _ fun p hp => by obtain ⟨k, hk, rfl⟩ := (pagesOf_one small p).mp hp; split at hk <;> omega), vaBytes_one small, List.map_map]
  refine congrArg _ (List.map_congr_left fun k hk => ?_)
  have hk : k < n := List.mem_range.mp hk
  have hm : (va + k) / 2 ^ 16 ∈ pagesOf [{ va := BitVec.ofNat 72 va, len := n }] := (pagesOf_one small _).mpr ⟨(va + k) / 2 ^ 16 - va / 2 ^ 16, by split <;> omega, by omega⟩
  exact (byPages_of hm).trans (Prod.ext (by unfold placeOf; simp only; omega) rfl)

theorem walks_byte {s : State} (h : Walks s) {a : Nat} (ha : paClass a = 3) (hi : tableAt + 16 ≤ a) (b : Byte) : Walks (s.homeByteWrite a b) := by
  have hw : s.homeByteWrite a b = s.rawWrite [(a, b)] := by simp [State.homeByteWrite, State.window?, ha]
  rw [hw]
  obtain ⟨hc, hp, ht, h0, h1⟩ := h
  have keep : ∀ x, tableAt ≤ x → x < tableAt + 16 → (s.rawWrite [(a, b)]).homeByte x = s.homeByte x := by
    intro x hl hx
    have c : paClass x = 3 := by simp only [tableAt] at hl hx; unfold paClass; omega
    simp only [State.homeByte, State.window?, State.heldByte, c]
    exact s.rawByte_write_ne b (by omega)
  refine ⟨hc, hp, ht, ?_, ?_⟩
  · rw [← h0, State.homeNat, State.homeNat, List.map_congr_left fun k hk => keep _ (by omega) (by have := List.mem_range.mp hk; omega)]
  · rw [← h1, State.homeNat, State.homeNat, List.map_congr_left fun k hk => keep _ (by omega) (by have := List.mem_range.mp hk; omega)]

theorem walks_put {s : State} (h : Walks s) (ws : List (Nat × Byte)) (hw : ∀ x ∈ ws, paClass x.1 = 3 ∧ tableAt + 16 ≤ x.1) : Walks (s.devPut ws) := by
  have part : ws.partition (fun w => paClass w.1 == 4) = ([], ws) := by
    rw [List.partition_eq_filter_filter]
    refine Prod.ext (List.filter_eq_nil_iff.mpr fun x hx => ?_) (List.filter_eq_self.mpr fun x hx => ?_) <;> simp [(hw x hx).1]
  unfold State.devPut
  simp only [part, List.isEmpty_nil, if_true]
  have fold : ∀ (l : List (Nat × Byte)) (s : State), Walks s → (∀ x ∈ l, paClass x.1 = 3 ∧ tableAt + 16 ≤ x.1) →
      Walks (l.foldl (fun s x => s.homeByteWrite x.1 x.2) s) := by
    intro l
    induction l with
    | nil => exact fun _ h _ => h
    | cons x r ih => exact fun s h hl => ih _ (walks_byte h (hl x (by simp)).1 (hl x (by simp)).2 _) fun y hy => hl y (by simp [hy])
  obtain ⟨hc, hp, ht, h0, h1⟩ := fold ws s h hw
  refine ⟨hc, ?_, ht, h0, h1⟩
  show (List.foldl (fun s x => s.homeByteWrite x.1 x.2) s ws).poisonLines.filter _ = []
  rw [hp]; rfl

theorem devWrite_of {s : State} {ctx va : Nat} {bs : List Byte} {pas : List (Nat × Nat)} (h : s.devAddrs ctx va bs.length 2 = .ok pas) :
    s.devWrite ctx va bs = .ok (s.devPut ((pas.map Prod.fst).zip bs)) := by
  unfold State.devWrite
  generalize s.devAddrs ctx va bs.length 2 = x at h
  subst h
  rfl

theorem walks_write {s : State} (h : Walks s) {va : Nat} {bs : List Byte} (lo : 0x20000000 ≤ va) (hi : va + bs.length ≤ 0x40000000) :
    ∃ t, s.devWrite 1 va bs = .ok t ∧ Walks t := by
  refine ⟨_, devWrite_of (walks_addrs h lo hi 2), walks_put h _ fun x hx => ?_⟩
  have := (List.of_mem_zip hx).1
  simp only [List.map_map, List.mem_map, Function.comp] at this
  obtain ⟨k, -, e⟩ := this
  rw [← e]
  unfold placeOf paClass tableAt; omega

theorem areas_cons {s t u : State} {ctx va : Nat} {w : AreaWrite} {r : List AreaWrite} (ht : s.devWrite ctx ((va + w.off) % 2 ^ 72) w.bytes w.bad = .ok t)
    (hu : t.writeAreas ctx va r = .ok u) : s.writeAreas ctx va (w :: r) = .ok u := by
  rw [State.writeAreas]
  generalize s.devWrite ctx ((va + w.off) % 2 ^ 72) w.bytes w.bad = x at ht
  subst ht
  exact hu

theorem walks_areas (va : Nat) : ∀ (l : List AreaWrite), (∀ x ∈ l, x.bad = false ∧ 0x20000000 ≤ va + x.off ∧ va + x.off + x.bytes.length ≤ 0x40000000) →
    ∀ {s : State}, Walks s → ∃ t, s.writeAreas 1 va l = .ok t
  | [], _, s, _ => ⟨s, rfl⟩
  | w :: r, hl, s, h => by
    obtain ⟨ok, lo, hi⟩ := hl w (List.mem_cons_self ..)
    have e : (va + w.off) % 2 ^ 72 = va + w.off := Nat.mod_eq_of_lt (by omega)
    obtain ⟨t, ht, hw⟩ := walks_write h lo hi
    obtain ⟨u, hu⟩ := walks_areas va r (fun y hy => hl y (List.mem_cons_of_mem _ hy)) hw
    exact ⟨u, areas_cons (by rw [e, ok]; exact ht) hu⟩


theorem walks_read {s : State} (h : Walks s) {va n : Nat} (lo : 0x20000000 ≤ va) (hi : va + n ≤ 0x40000000) :
    s.devRead 1 va n = .ok (s, (List.range n).map fun k => s.homeByte (placeOf va k)) := by
  have none_of : ∀ p : Nat × Nat → Bool, (∀ k, p (placeOf va k, 0) = false) → ((List.range n).map fun k => (placeOf va k, 0)).find? p = none := by
    intro p hp
    rw [List.find?_eq_none]
    intro x hx
    obtain ⟨k, -, e⟩ := List.mem_map.mp hx
    rw [← e, hp k]; decide
  unfold State.devRead
  rw [walks_addrs h lo hi]
  simp only [none_of (fun x => s.poisoned x.1) fun k => by simp [State.poisoned, h.2.1],
    none_of (fun x => s.absent x.1) fun k => by have : paClass (placeOf va k) = 3 := by unfold placeOf paClass; omega
                                                simp [State.absent, this], List.map_map]
  rfl

theorem field_range (f : Nat → Byte) {n a c : Nat} (h : a + c ≤ n) : field ((List.range n).map f) a c = ofLE ((List.range c).map fun k => f (a + k)) := by
  unfold field
  congr 1
  apply List.ext_getElem
  · simp; omega
  · intro k h1 h2; simp

/-- Shape registers as a slot at `va` holds them. -/
def slotShapes (s : State) (va : Nat) : FMap Shape :=
  mapOf {} 8 fun i =>
    { req := BitVec.ofNat 64 (ofLE ((List.range 8).map fun k => s.homeByte (placeOf (va + 0x100) (0x700 + 8 * i + k))))
      grant := BitVec.ofNat 64 (ofLE ((List.range 8).map fun k => s.homeByte (placeOf (va + 0x100) (0x740 + 8 * i + k)))) }

theorem slot_of {s : State} {ctx va : Nat} {v : Saved} {head regs b : List Byte} (hv : v.kind ≠ .full) (h0 : s.devRead ctx ((va + 0) % 2 ^ 72) 256 = .ok (s, head))
    (h1 : s.devRead ctx ((va + 0x100) % 2 ^ 72) 0x7F00 = .ok (s, regs)) (h2 : s.devRead ctx ((va + 0x8000) % 2 ^ 72) 0x98000 = .ok (s, b)) (one : field head 0 1 = 1) :
    ∃ m : SlotImage, s.loadSlot ctx va v = .ok (s, m) ∧ m.ctxt.h = ((v.ctxt.loadRegisters regs).loadTables (b.drop 0x8000)).h := by
  unfold State.loadSlot
  simp only [h0, h1, h2, one, hv, ne_eq, not_true, if_false]
  exact ⟨_, rfl, rfl⟩

theorem regs_shapes (c : Ctxt) (regs b : List Byte) : ((c.loadRegisters regs).loadTables b).h =
    mapOf {} 8 fun i => { req := BitVec.ofNat 64 (field regs (0x700 + 8 * i) 8), grant := BitVec.ofNat 64 (field regs (0x740 + 8 * i) 8) } := rfl

theorem foldl_put_congr (f g : Nat → Shape) : ∀ (l : List Nat) (m : FMap Shape), (∀ i ∈ l, f i = g i) →
    l.foldl (fun m k => FMap.put m {} k (f k)) m = l.foldl (fun m k => FMap.put m {} k (g k)) m
  | [], _, _ => rfl
  | a :: r, m, h => by
    rw [List.foldl_cons, List.foldl_cons, h a (by simp)]
    exact foldl_put_congr f g r _ fun i hi => h i (by simp [hi])

theorem mapOf_congr {f g : Nat → Shape} {n : Nat} (h : ∀ i, i < n → f i = g i) : mapOf {} n f = mapOf {} n g :=
  foldl_put_congr f g _ _ fun i hi => h i (List.mem_range.mp hi)

theorem walks_slot {s : State} (h : Walks s) (v : Saved) (hv : v.kind ≠ .full) {va : Nat} (lo : 0x20000000 ≤ va) (hi : va + 0x100000 ≤ 0x40000000)
    (one : s.homeByte (placeOf va 0) = 1) : ∃ m, s.loadSlot 1 va v = .ok (s, m) ∧ m.ctxt.h = slotShapes s va := by
  have e : ∀ o, o < 0x100000 → (va + o) % 2 ^ 72 = va + o := fun o ho => Nat.mod_eq_of_lt (by omega)
  have head : field ((List.range 256).map fun k => s.homeByte (placeOf (va + 0) k)) 0 1 = 1 := by
    rw [field_range _ (by decide)]
    show ofLE [s.homeByte (placeOf va 0)] = 1
    rw [one]; decide
  obtain ⟨m, hm, eq⟩ := slot_of hv (by rw [e 0 (by decide)]; exact walks_read h (by omega) (by omega)) (by rw [e 0x100 (by decide)]; exact walks_read h (by omega) (by omega))
    (by rw [e 0x8000 (by decide)]; exact walks_read h (by omega) (by omega)) head
  refine ⟨m, hm, eq.trans ?_⟩
  rw [regs_shapes]
  unfold slotShapes
  have f : ∀ i, i < 8 → ∀ o, o = 0x700 ∨ o = 0x740 → field ((List.range 0x7F00).map fun k => s.homeByte (placeOf (va + 0x100) k)) (o + 8 * i) 8 =
      ofLE ((List.range 8).map fun k => s.homeByte (placeOf (va + 0x100) (o + 8 * i + k))) := fun i hi o ho => field_range _ (by omega)
  generalize (List.range 0x7F00).map (fun k => s.homeByte (placeOf (va + 0x100) k)) = l at f
  exact mapOf_congr fun i hi => Shape.mk.injEq .. ▸ ⟨congrArg (BitVec.ofNat 64) (f i hi 0x700 (.inl rfl)), congrArg (BitVec.ofNat 64) (f i hi 0x740 (.inr rfl))⟩


theorem length_toLE (n w : Nat) : (toLE n w).length = n := by
  induction n generalizing w with
  | zero => rfl
  | succ n ih => simp [toLE, ih]

theorem length_blocks {n c : Nat} {f : Nat → List Byte} (h : ∀ i, (f i).length = c) : (listed n f).flatten.length = n * c := by
  simp [listed, List.length_flatten, Function.comp_def, h, List.map_const', List.sum_replicate_nat]

theorem length_listed {n : Nat} (f : Nat → Byte) : (listed n f).length = n := by simp [listed]

theorem length_padTo (n : Nat) (b : List Byte) : (padTo n b).length = n := by simp [padTo]

theorem length_image (c : Ctxt) (fr : Nat) : (c.registerImage fr).length ≤ 0x10000 := by
  have a : ∀ i : Nat, (toLE 8 (c.s.get 0 i).toNat).length = 8 := fun _ => length_toLE ..
  simp only [Ctxt.registerImage, List.length_append, length_padTo, length_blocks (c := 8) fun i => length_toLE .., length_blocks (c := 16) fun i => length_toLE ..,
    length_blocks (c := 64) fun i => length_toLE .., length_blocks (c := 32) fun i => length_toLE .., length_blocks (c := 256) fun i => length_toLE ..]
  rw [length_blocks (c := 32) (f := fun i => (c.bindings.get {} i).image) fun i => length_toLE ..]
  simp [freeBytes]

theorem save_fits {d : Die} (ht : d.c.tiles = []) (hy : d.c.yUsed = []) (t fr : Nat) (full : Bool) {header : List Byte} (hh : header.length = 256) :
    ∀ x ∈ d.saveWrites t fr full header, x.bad = false ∧ x.off + x.bytes.length ≤ 0x7000000 := by
  have rows : d.rowWrites t d.c = [{ off := 0x8000, bytes := listed 0x8000 fun _ => 0 }] := by simp [Die.rowWrites, Ctxt.tileRows, ht, distinct]
  have pan : d.c.panelWrites = [] := by
    have : d.c.panelsUsed = [] := by rw [Ctxt.panelsUsed, hy]; decide
    simp [Ctxt.panelWrites, this]
  intro x hx
  unfold Die.saveWrites at hx
  simp only [rows, pan, ite_self, List.append_nil, List.mem_append, List.mem_cons, List.not_mem_nil, or_false] at hx
  have i := length_image d.c fr
  have tiles : (listed 4096 fun k => d.tileImage t (d.c.tile k)).flatten.length = 4096 * 16 := length_blocks fun k => length_toLE ..
  have z : (listed 0x10000 fun k => toLE 8 (d.c.z.get 0 k).toNat).flatten.length = 0x10000 * 8 := length_blocks fun k => length_toLE ..
  rcases hx with (((rfl | rfl | rfl) | hx) | rfl) | rfl | rfl
  · exact ⟨rfl, by simp only []; omega⟩
  · exact ⟨rfl, by simp only [length_listed]; decide⟩
  · exact ⟨rfl, by simp only []; rw [tiles]; decide⟩
  · split at hx
    · simp only [List.mem_cons, List.not_mem_nil, or_false] at hx
      subst hx; exact ⟨rfl, by simp only [length_listed]; decide⟩
    · cases hx
  · exact ⟨rfl, by simp only []; rw [z]; decide⟩
  · exact ⟨rfl, by simp only [List.length_replicate, logOffset]; decide⟩
  · exact ⟨rfl, by simp only [hh]; decide⟩

/-- Die 0 of that replay, its task pre-empted, and about to be restored from a slot whose bytes past the version are as listed. -/
def preempted : State :=
  flying.onDie 0 fun d => { d with c := {}, task := some { someTask with task := { someTask.task with node := 1 }, pinned := false }, seq := { run := .ended, endCause := some .overran } }
def restoring (bytes : List Host.Cell := []) : State :=
  { w .s {} {} with
    saved := [{ id := 7, task := { someTask with pinned := false }, kind := .resident 0, ctxt := {}, pc := 0x1000, die := 0, rowLim := 128, colLim := 128 }]
    mem := tables ++ (0x30000068000000, 1) :: bytes
    dies := [(0, { c := {}, task := some { someTask with task := { someTask.task with saved := some 7 }, pinned := false }, powered := true, groups := 8 })] }
/-- A shape register 0 of 2 rows and columns of fp32 with a grant of 0. -/
def granted : List Host.Cell := [(0x30000068000800, 2), (0x30000068000802, 2), (0x30000068000807, 0x19)]

/-- A die asked to pre-empt, a bundle held. -/
def held : Seq := { someSeq 0 [] 3 with preempt := true }

theorem meets_BudgetsSavesAndRestores :
    (let s := overBudget { run := .running }
     let x := { someTask with task := { someTask.task with node := 1 }, pinned := false, budget := 5, since := some 0 }
     s.unit < 16 ∧ (s.die 0).task = some x ∧ x.budget ≠ 0 ∧ (s.die 0).seq.run = .running ∧ s.halted 0 = false ∧ s.stallsParked 0 = false ∧ x.started ∧ x.pinned = false ∧
      x.budget ≤ x.used + (s.ftc 0 - x.since.getD (s.ftc 0)) ∧
      x.used + ((overBudget {} 4).ftc 0 - x.since.getD ((overBudget {} 4).ftc 0)) < x.budget) ∧
    (∀ s ∈ [overBudget held, overBudget { held with stores := [{ id := 1, va := 0, faddr := 0 }] }],
      (s.die 0).seq.preempt ∧ (s.die 0).task.isSome ∧ (s.die 0).seq.run = .running ∧ (s.die 0).dbgBlock.halted = false ∧ (s.die 0).seq.haltReq = none ∧
      (s.die 0).seq.taking = none ∧ (s.die 0).dueFaults.nextEvent = none ∧ s.coldWait 0 = false ∧ s.wouldTrap 0 = false) ∧
    ((overBudget held).settledFor 0 ∧ (overBudget { held with stores := [{ id := 1, va := 0, faddr := 0 }] }).settledFor 0 = false) ∧
    (let s := preempted
     let d := s.die 0
     (∀ q ∈ s.replays, q.overflow = [] ∧ q.listing = [] ∧ ∀ m ∈ q.pooled, (q.flights.get? m).isSome) ∧ d.task.isSome ∧ d.seq.run = .ended ∧ d.seq.endCause = some .overran ∧
      ((s.flight? 1 1).map fun x => (x.1.aborted, x.2.1.node.ovrabort)) = some (none, false) ∧ s.contexts.get? 1 = some ctx1) ∧
    (let s := preempted
     let d := s.die 0
     let s1 := (s.l1Dies 0).foldl (fun s z => s.l1WriteBack z fun _ => true) s
     ∃ s2, State.writeAreas { s1 with free := s1.free + 3456 } 1 (ctx1.slotVa 0) (d.saveWrites (s1.us 0) s1.free d.c.logFits
      (saveHeader (if d.c.logFits then 1 else 2) 128 d.colLim d.seq.pc (s1.ftc 0) d.c.panelsUsed)) = .ok s2) ∧
    (∀ s ∈ [restoring, restoring granted], s.unit < 16 ∧ (s.die 0).task.isSome ∧ ((s.die 0).task.bind fun x => x.task.saved) = some 7 ∧
      (s.saved.find? fun v => v.id == 7).isSome ∧ s.contexts.get? 1 = some ctx1 ∧ 8 ≤ (s.die 0).groups) ∧
    (∃ s1 m, (restoring.takeMode 0).1.loadSlot 1 (ctx1.slotVa 0) (restoring.saved.headD someSaved) = .ok (s1, m) ∧ m.ctxt.h = []) ∧
    (∃ s1 m, ((restoring granted).takeMode 0).1.loadSlot 1 (ctx1.slotVa 0) (restoring.saved.headD someSaved) = .ok (s1, m) ∧
      ∃ h ∈ m.ctxt.h, h.2.valid ∧ grantOf h.2.req 128 ((restoring granted).die 0).nextColLim ≠ h.2.grant) ∧
    ((.preloadRenewal 0 0x4000 : Instr).problem = none ∧ (.residentRenewal 0 0x100 : Instr).problem = none ∧
      0x100 ∈ { w .s with saved := [{ someSaved with kind := .resident 0, ctxt := regs }] }.residentRows 0 ∧
      (let d : Die := { tags := [(0x4000, { exp := false })] }
       d.dueRenewal 900 0x4000 ∧ d.dueRenewal 0 0x4000 = false) ∧
      (let p : Preload := { task := someTask.task, ctx := 1, bank := 1, rows := 2, len := 512, done := 512, src := 0, hasData := true }
       p.hasData ∧ p.bank * 2 ^ 14 ≤ 0x4000 ∧ 0x4000 < p.bank * 2 ^ 14 + p.rows ∧ p.bank * 2 ^ 14 + p.rows ≤ 0x4002)) := by
  have va : ctx1.slotVa 0 = 0x28000000 := by decide
  have kind : (restoring.saved.headD someSaved).kind ≠ .full := by decide
  refine ⟨by decide +kernel, by decide +kernel, by decide +kernel, by decide +kernel, ?_, by decide +kernel, ?_, ?_, by decide +kernel⟩
  · have fits := save_fits (d := preempted.die 0) (by decide +kernel) (by decide +kernel)
    refine walks_areas _ _ (fun x hx => ?_) (by unfold Walks; decide +kernel)
    obtain ⟨ok, le⟩ := fits _ _ _ (length_padTo ..) x hx
    rw [va]
    exact ⟨ok, by omega, by omega⟩
  · obtain ⟨m, h, e⟩ := walks_slot (s := (restoring.takeMode 0).1) (va := 0x28000000) (by unfold Walks; decide +kernel) _ kind (by decide) (by decide) (by decide +kernel)
    exact ⟨_, m, by rw [va]; exact h, e.trans (by decide +kernel)⟩
  · obtain ⟨m, h, e⟩ := walks_slot (s := ((restoring granted).takeMode 0).1) (va := 0x28000000) (by unfold Walks; decide +kernel) _ kind (by decide) (by decide) (by decide +kernel)
    refine ⟨_, m, by rw [va]; exact h, ?_⟩
    rw [e]
    decide +kernel

/-! ## The assembler's examples (12 R320, R321, 14 R352) -/

/-- The line of R320: header 0x43, 16 bytes, its literal in word 0. -/
theorem test_assembled_line :
    ((assembleLine { sec := 1, off := 0, syms := [] }
      [{ slot := .s, pfx := { guard := 3, hold := 1 }, lits := [(LitField.s, .dec false 100000 1)]
         build := fun ks _ _ => .add { d := 4, a := 5, b := 63, fn := 0, lit := BitVec.ofNat 2 (ks.headD 0) } },
       { slot := .v0, build := fun _ _ _ => .vfadd { vd := 4, va := 3, vb := 5, vc := 0, mask := 0, shape := 1, type := 9, lit := 0 } }]).map
      fun l => l.bytes) = some [0x43, 0x23, 0x01, 0x44, 0xF1, 0x03, 0x00, 0x20, 0x64, 0x14, 0x80, 0x24, 0xA0, 0x86, 0x01, 0x00] := by decide

/-- Where bundles of these lengths come to lie: those of R321's first example, then those of its second. -/
def placed (ns : List Nat) : List Nat :=
  (ns.foldl (fun (x : Text × List Nat) n => (x.1.room n |>.put (List.replicate n 1), x.2 ++ [(x.1.room n).here])) ({}, [])).2
theorem test_placed : placed [13, 21, 13, 21] = [0, 13, 34, 64] ∧ placed [13, 21, 13, 13, 6] = [0, 13, 34, 47, 64] := by decide

/-! ## Hypotheses of clauses about waits, spacing and what is dropped -/

theorem meets_SweepScrubAndEvictionEvents_pool :
    (let s : State := { w .s with pool := [(0x20000000000000, 7)] }
     (∀ e ∈ s.pool, paClass e.1 = 2) ∧ (s.pool.map Prod.fst).Nodup ∧ (∀ e ∈ s.pool, lineOf e.1 ≠ 0) ∧ s.fmtLines.get? 0x800000000000 = none ∧
      paClass 0x20000000000000 ≠ 4 ∧ s.window? 0x20000000000000 = none) ∧
    (.gallerySweep 3 { bank := 15, corrected := 2 } : Instr).problem = none := by decide +kernel

theorem meets_TranslationInvalidation_writes :
    let r : Request := { tag := 1, peer := 16, waiter := .store 4 }
    (∀ i ∈ List.range 16, ((w .s).die i).writesSent = false) ∧ ((fabricOf { requests := [r] }).die 0).writesSent := by decide +kernel

theorem meets_CodeDeliveryEvents_turn :
    let f : ColdFetch := { handle := 1, page := 0 }
    let s (begun : Bool) : State := { w .s with objects := [(1, someObj)], coldFetches := [f], hostCopies := [{ someCopy 0 with begun }] }
    f ∈ (s true).coldFetches ∧ (s true).coldTurn f = false ∧ (s false).coldTurn f := by decide +kernel

theorem meets_ContextsAndCodeObjects_keys :
    let s (n : Nat) : State := { w .s with contexts := (List.range n).map fun k => (k + 5, { ctx1 with xkey := BitVec.ofNat 8 (k + 100) }) }
    16 ≤ (distinct ((s 16).contexts.map fun y => y.2.xkey.toNat)).length ∧ (distinct ((s 15).contexts.map fun y => y.2.xkey.toNat)).length < 16 ∧
      (∀ y ∈ (s 16).contexts, y.2.xkey ≠ (contextOf 0 block).xkey) ∧ (s 16).contexts.get? 1 = none := by decide +kernel

theorem meets_HostCopies_record :
    let s : State := { w .s with replays := [someReplay 1], fqCount := 4097, hostCopies := [{ someCopy 0 with parked := some 4096 }] }
    s.resumes 0 (some 4096) ∧ s.resumes 0 (some 8192) = false ∧ ∀ i ∈ List.range 16, (s.die i).task.all fun x => s.replayDead x.task.rid = false := by decide +kernel

theorem meets_PowerStatesAndTrips_spacing :
    (let s (k lit : Nat) : State := { (w .s).onLink 0 7 fun l => { l with enable := true, state := .off } with
        lastLight := some lit, trust := { (w .s).trust with stagger := some k, start := 0 } }
     (s 145 0).unitLights 145 ∧ (s 145 0).slotOpen = false ∧ (s 144 0).unitLights 144 = false ∧ (s 1 0).wc < (s 1 0).trust.staggerAt + 2000 * unitAt 1 ∧
      (s 145 0).trust.start ≠ 1 ∧ (s 145 0).trust.start ≠ 2 ∧ unitAt 0 = 0) ∧
    ((({ v65At := some 0, v65Pending := true, portDark := true } : Trust).portDark) ∧ ({ enable := false } : Link).enable = false) := by decide +kernel

theorem meets_RepliesAndArrivals_prefetch :
    (∀ y ∈ List.range 16, (awaiting.die y).prefs.get? fillReq.line = none) ∧ (reserved.accept 0 4 somePush (counts := false)).2 ∧
    ∀ r, reserved.pushResv 0 3 somePush = some r → (reserved.accept 0 3 somePush (counts := (reserved.pushFor 0 r).isSome)).2 := by
  refine ⟨by decide +kernel, by decide +kernel, fun r h => ?_⟩
  have : ((reserved.pushResv 0 3 somePush).map fun r => (reserved.accept 0 3 somePush (counts := (reserved.pushFor 0 r).isSome)).2) = some true := by decide +kernel
  rw [h] at this
  exact Option.some.inj this

theorem meets_BudgetsSavesAndRestores_dropped :
    (let s : State := { (w .s) with replays := [{ someReplay 1 with aborted := some { xstat := 1, cause := 0, node := 0 } }] }
     s.replayDead 1 ∧ (s.die 0).task = some someTask) ∧ flying.replayDead 1 = false ∧
    (let d : Die := { preload := some { task := someTask.task, ctx := 1, bank := 1, rows := 2, len := 512, done := 512, src := 0, hasData := true } }
     d.preloadRows = [0x4000, 0x4001] ∧ 0x4002 ∉ d.preloadRows) := by decide +kernel

theorem meets_DieCyclesAndDecisions_pushes : ((w .s).die 0).fab.heldPushes = [] ∧ (cycling.die cycling.unit).fab.heldPushes = [] := by decide +kernel

theorem meets_EngineCompletions_follow : Ctxt.badFollowOf {} (cmd (.cpym {})) = false ∧
    Ctxt.badFollowOf { matQ := [{ cmd (.cpym {}) with cmdix := 2, follow := some 0 }] } (cmd (.cpym {})) = true := by decide +kernel

theorem meets_MemoryRequestsServed_poison : ({ packet 0x03 [] 1 with poison := true } : Packet).poison ∧ (packet 0x03 [] 1).poison = false := by decide +kernel

theorem meets_TrapAndTrapReturn_loop :
    let l : Loop := { first := 0x1000, last := 0x1040, after := 0x1080, c0 := 2, c1 := 1, c2 := 1, index := 0, pe := 0 }
    (some l).filter (fun l => decide (l.first ≤ 0x1040 ∧ 0x1040 ≤ l.last)) = some l ∧
      (some l).filter (fun l => decide (l.first ≤ 0x1041 ∧ 0x1041 ≤ l.last)) = none := by decide +kernel

end Sys2Proof.Tests
end

/-! # Every step keeps the canonical form of memory

One lemma for each function of the model a step can reach, in the order of the model. A function that writes no memory
has a lemma `_mem`: memory after it is memory before it. A function that may write memory has a lemma `_wf`: it keeps the
canonical form. Each proof unfolds its own function alone; `grind`, or `split` and `simp`, takes the branches one by one
and finds each by the lemmas, named there, of the functions that branch calls. -/

namespace Sys2Proof.Machine

/-! ## The canonical form, for each kind of result a function of the model has -/

/-- The memory of a state has the canonical form. A definition and no abbreviation, so that no unifier compares memories
by evaluating the functions that computed them. -/
def State.MemWf (s : State) : Prop := Memory.wf s.mem = true

theorem State.MemWf.of_mem {s t : State} (h : s.MemWf) (e : t.mem = s.mem) : t.MemWf := by
  unfold State.MemWf at *
  rwa [e]

theorem State.MemWf.ite {c : Prop} {_ : Decidable c} {a b : State} (ha : a.MemWf) (hb : b.MemWf) :
    (if c then a else b).MemWf := by
  split <;> assumption

theorem State.MemWf.foldl {α : Type} {g : State → α → State} (hg : ∀ (s : State) a, s.MemWf → (g s a).MemWf) {s : State}
    (h : s.MemWf) (l : List α) : (l.foldl g s).MemWf :=
  foldl_wf g hg l s h

theorem State.MemWf.free {s : State} (h : s.MemWf) (n : Nat) : ({ s with free := n } : State).MemWf := h

/-- What was got carries a state of canonical memory, which `f` picks; a fault carries no state. -/
def Got.MemWf {α : Type} (f : α → State) : Got α → Prop
  | .ok x => (f x).MemWf
  | .fault _ _ => True
  | .wait s => s.MemWf

theorem Got.MemWf.ok {α : Type} {f : α → State} {g : Got α} {x : α} (h : g.MemWf f) (e : g = .ok x) : (f x).MemWf := by
  subst e; exact h

theorem Got.MemWf.wait {α : Type} {f : α → State} {g : Got α} {t : State} (h : g.MemWf f) (e : g = .wait t) : t.MemWf := by
  subst e; exact h

theorem Got.MemWf.foldl {α : Type} (g : Got State → α → Got State) (hg : ∀ x a, x.MemWf id → (g x a).MemWf id)
    (l : List α) {x : Got State} (h : x.MemWf id) : (l.foldl g x).MemWf id := by
  induction l generalizing x with
  | nil => exact h
  | cons a r ih => exact ih (hg x a h)

def Ended.MemWf : Ended → Prop
  | .wait s => s.MemWf
  | .done s => s.MemWf
  | .park s _ => s.MemWf
  | .fail s _ => s.MemWf

theorem Ended.MemWf.ite {c : Prop} {_ : Decidable c} {a b : Ended} (ha : a.MemWf) (hb : b.MemWf) :
    (if c then a else b).MemWf := by
  split <;> assumption

def CodeAt.MemWf : CodeAt → Prop
  | .ready s _ => s.MemWf
  | .freeze s => s.MemWf
  | .bad s _ => s.MemWf

def Decision.MemWf : Decision → Prop
  | .held s => s.MemWf
  | .freeze s => s.MemWf
  | .trap s _ => s.MemWf

def ChunkEnd.MemWf : ChunkEnd → Prop
  | .wait s => s.MemWf
  | .wrote s _ _ => s.MemWf
  | .park s _ _ => s.MemWf
  | .fail s _ => s.MemWf

/-- An operation issues into a state of canonical memory, or traps. -/
def IssueWf : Except Trap State → Prop
  | .ok t => t.MemWf
  | .error _ => True

/-- The next state, where there is one, has canonical memory. -/
def OutcomeWf : Host.Outcome State Fault Refusal → Prop
  | .next t => t.MemWf
  | _ => True

theorem event_wf {s t : State} (i : Instr) (hs : s.MemWf) (ht : t.MemWf) : OutcomeWf (event i s t) := by
  unfold event
  split <;> assumption

theorem dieEvent_wf {s t : State} (hs : s.MemWf) (ht : t.MemWf) : OutcomeWf (dieEvent s t) := by
  unfold dieEvent
  split <;> assumption

theorem queueEvent_wf {s t : State} (hs : s.MemWf) (ht : t.MemWf) : OutcomeWf (queueEvent s t) := by
  unfold queueEvent
  split <;> assumption

theorem Memory.filter_wf {m : List Host.Cell} (h : Memory.wf m = true) (p : Host.Cell → Bool) :
    Memory.wf (m.filter p) = true :=
  FMap.filter_wf p h

/-- Induction over a function defined by structural recursion on a list, from its body `F`. It serves where the kernel
cannot check the function's own equations, because doing so evaluates a call on a large literal. -/
theorem brecOn_ind {α : Type} {motive : List α → Type} (P : ∀ l, motive l → Prop)
    (F : ∀ l, List.below (motive := motive) l → motive l)
    (hF : ∀ l (f : List.below (motive := motive) l),
      (∀ a r (e : l = a :: r), P r (e ▸ f : List.below (motive := motive) (a :: r)).1) → P l (F l f)) (l) :
    P l (List.brecOn l F) := by
  induction l with
  | nil => exact hF [] _ (by simp)
  | cons a r ih =>
    refine hF (a :: r) _ ?_
    intro a' r' e
    cases e
    exact ih

theorem State.MemWf.again {s : State} (h : s.MemWf) {u : Nat} {e : Instr} : (s.again u e).MemWf :=
  h.of_mem (State.again_mem ..)

/-! ## `Machine/Access` -/

@[simp] theorem State.onReplay_mem (s : State) (rid : Nat) (f : Replay → Replay) : (s.onReplay rid f).mem = s.mem := rfl

@[simp] theorem State.mgmtEvent_mem (s : State) : s.mgmtEvent.mem = s.mem := by
  unfold State.mgmtEvent
  grind [State.later_mem, State.onTrust_mem, State.raise_mem]

/-! ## `Machine/Net` -/

@[simp] theorem State.wakeWaiting_mem (s : State) (i d : Nat) : (s.wakeWaiting i d).mem = s.mem := by
  unfold State.wakeWaiting
  dsimp only
  split <;> simp

@[simp] theorem State.dropDetoured_mem (s : State) (i d : Nat) (all : Bool) : (s.dropDetoured i d all).mem = s.mem := rfl

@[simp] theorem State.resendHeld_mem (s : State) (i d : Nat) : (s.resendHeld i d).mem = s.mem := by
  unfold State.resendHeld
  grind [foldl_mem, State.onLink_mem, State.placeOn_mem]

@[simp] theorem State.resendAll_mem (s : State) (i : Nat) : (s.resendAll i).mem = s.mem := by
  simp [State.resendAll, foldl_mem]

@[simp] theorem State.unstall_mem (s : State) (i : Nat) : (s.unstall i).mem = s.mem := by
  simp [State.unstall, foldl_mem]

@[simp] theorem State.scheduleEack_mem (s : State) (i peer cls : Nat) : (s.scheduleEack i peer cls).mem = s.mem := by
  unfold State.scheduleEack
  split <;> simp

@[simp] theorem State.putRecv_mem (s : State) (i : Nat) (e : RecvEntry) : (s.putRecv i e).mem = s.mem := rfl

@[simp] theorem State.countBad_mem (s : State) (i : Nat) : (s.countBad i).mem = s.mem := rfl

@[simp] theorem State.countDup_mem (s : State) (i : Nat) : (s.countDup i).mem = s.mem := rfl

@[simp] theorem State.accept_mem (s : State) (i : Nat) (ch : BitVec 3) (p : Packet) (refuses : Bool) (counts : Bool) :
    (s.accept i ch p refuses counts).1.mem = s.mem := by
  unfold State.accept
  grind [State.again_mem, State.countBad_mem, State.countDup_mem, State.digest_mem, State.putRecv_mem, State.scheduleEack_mem]

@[simp] theorem State.arrive_mem (s : State) (i : Nat) (ch : BitVec 3) (p : Option Packet) : (s.arrive i ch p).mem = s.mem := by
  unfold State.arrive
  grind [State.countBad_mem, State.forward_mem, State.later_mem]

/-! ## `Machine/Links` -/

@[simp] theorem State.announce_mem (s : State) (i d : Nat) : (s.announce i d).mem = s.mem := rfl

@[simp] theorem State.sendDrains_mem (s : State) (i d e : Nat) : (s.sendDrains i d e).mem = s.mem := by
  unfold State.sendDrains
  dsimp only
  split <;> simp

@[simp] theorem State.beginDrain_mem (s : State) (i d old : Nat) : (s.beginDrain i d old).mem = s.mem := by
  simp [State.beginDrain, foldl_mem]

@[simp] theorem State.releaseHeld_mem (s : State) (i d : Nat) : (s.releaseHeld i d).mem = s.mem := by
  unfold State.releaseHeld
  grind [State.onLink_mem, State.requestLs_mem, State.wakeOff_mem]

@[simp] theorem State.becomeActive_mem (s : State) (i d : Nat) : (s.becomeActive i d).mem = s.mem := by
  unfold State.becomeActive
  dsimp only
  split <;> simp

@[simp] theorem State.becomeDead_mem (s : State) (i d : Nat) : (s.becomeDead i d).mem = s.mem := by
  simp [State.becomeDead, foldl_mem]

@[simp] theorem State.offer_mem (s : State) (i d : Nat) (mine : BitVec 16) (reason : Byte) (fast : Bool) (ls : Option Nat) :
    (s.offer i d mine reason fast ls).mem = s.mem := by
  unfold State.offer
  grind [State.announce_mem, State.becomeDead_mem, State.onLink_mem, State.spoil_mem]

@[simp] theorem State.beginRemap_mem (s : State) (i d : Nat) (mine : BitVec 16) (reason : Byte) (fast : Bool)
    (ls : Option Nat) : (s.beginRemap i d mine reason fast ls).mem = s.mem := by
  simp [State.beginRemap]

@[simp] theorem State.endChange_mem (s : State) (i d ls : Nat) : (s.endChange i d ls).mem = s.mem := by
  unfold State.endChange
  grind [State.announce_mem, State.dropDetoured_mem, State.onLink_mem, State.releaseHeld_mem, State.resendAll_mem,
    State.wakeWaiting_mem]

@[simp] theorem State.beginChange_mem (s : State) (i d ls : Nat) : (s.beginChange i d ls).mem = s.mem := by
  unfold State.beginChange
  grind [State.beginRemap_mem, State.detourQueue_mem, State.later_mem, State.onLink_mem, State.releaseHeld_mem]

@[simp] theorem State.remapAgreed_mem (s : State) (i d : Nat) : (s.remapAgreed i d).mem = s.mem := by
  unfold State.remapAgreed
  grind [State.endChange_mem]

@[simp] theorem State.emit_mem (s : State) (i d : Nat) (f : Flit) : (s.emit i d f).mem = s.mem := by
  unfold State.emit
  split <;> simp

@[simp] theorem State.sampled_mem (s : State) (i : Nat) (o : OutFlit) : (s.sampled i o).mem = s.mem := by
  unfold State.sampled
  split <;> simp

@[simp] theorem State.flitTransmit_mem (s : State) (i d : Nat) : (s.flitTransmit i d).mem = s.mem := by
  unfold State.flitTransmit
  grind [State.emit_mem, State.onLink_mem, State.remapAgreed_mem, State.sampled_mem]

@[simp] theorem State.takeFlit_mem (s : State) (i d : Nat) (f : Flit) : (s.takeFlit i d f).mem = s.mem := by
  unfold State.takeFlit
  grind [State.arrive_mem, State.later_mem, State.onLink_mem]

@[simp] theorem State.badFlits_mem (s : State) (i d : Nat) : (s.badFlits i d).mem = s.mem := by
  unfold State.badFlits
  dsimp only
  split <;> simp

@[simp] theorem State.counted_mem (s : State) (i d : Nat) : (s.counted i d).mem = s.mem := by
  unfold State.counted
  dsimp only
  split <;> simp

@[simp] theorem State.flitReceive_mem (s : State) (i d : Nat) (f : Flit) : (s.flitReceive i d f).mem = s.mem := by
  unfold State.flitReceive
  grind [State.badFlits_mem, State.counted_mem, State.onLink_mem, State.remapAgreed_mem, State.spoil_mem, State.takeFlit_mem]

@[simp] theorem State.aseqReport_mem (s : State) (i d : Nat) : (s.aseqReport i d).mem = s.mem := by
  unfold State.aseqReport
  dsimp only
  split <;> simp

@[simp] theorem State.endRemap_mem (s : State) (i d : Nat) (r : Remap) : (s.endRemap i d r).mem = s.mem := by
  simp [State.endRemap]

@[simp] theorem State.nak_mem (s : State) (i d : Nat) (lseq : BitVec 13) : (s.nak i d lseq).mem = s.mem := by
  unfold State.nak
  grind [State.endRemap_mem, State.onLink_mem, State.spoilTimed_mem]

@[simp] theorem State.trained_mem (s : State) (i d : Nat) (tx rx : BitVec 16) : (s.trained i d tx rx).mem = s.mem := by
  unfold State.trained
  grind [State.becomeActive_mem, State.becomeDead_mem, State.onLink_mem]

@[simp] theorem State.restartRemap_mem (s : State) (i d : Nat) (mine : BitVec 16) : (s.restartRemap i d mine).mem = s.mem := by
  unfold State.restartRemap
  dsimp only
  split <;> simp

@[simp] theorem State.answerMap_mem (s : State) (i d : Nat) (mask : BitVec 16) : (s.answerMap i d mask).mem = s.mem := by
  unfold State.answerMap
  grind [State.becomeDead_mem, State.onLink_mem, State.remapAgreed_mem]

@[simp] theorem State.mapprop_mem (s : State) (i d : Nat) (mask : BitVec 16) (reason : Byte) :
    (s.mapprop i d mask reason).mem = s.mem := by
  unfold State.mapprop
  grind [State.answerMap_mem, State.beginRemap_mem, State.later_mem, State.restartRemap_mem]

@[simp] theorem State.remapRetrainComplete_mem (s : State) (i d : Nat) (tx rx : BitVec 16) :
    (s.remapRetrainComplete i d tx rx).mem = s.mem := by
  unfold State.remapRetrainComplete
  grind [State.endChange_mem, State.endRemap_mem, State.later_mem, State.onLink_mem, State.restartRemap_mem]

@[simp] theorem State.laneFails_mem (s : State) (i d lane : Nat) : (s.laneFails i d lane).mem = s.mem := by
  unfold State.laneFails
  grind [State.becomeDead_mem, State.beginRemap_mem, State.onLink_mem, State.restartRemap_mem]

@[simp] theorem State.laneFailing_mem (s : State) (i d lane : Nat) (rx : Bool) : (s.laneFailing i d lane rx).mem = s.mem := by
  unfold State.laneFailing
  grind [State.laneFails_mem, State.onLink_mem]

@[simp] theorem State.healthSample_mem (s : State) (i d lane : Nat) (h : Health) : (s.healthSample i d lane h).mem = s.mem := by
  unfold State.healthSample
  grind [State.laneFails_mem, State.onLink_mem]

@[simp] theorem State.lsreq_mem (s : State) (i d ls : Nat) : (s.lsreq i d ls).mem = s.mem := by
  unfold State.lsreq
  grind [State.beginChange_mem, State.later_mem, State.onLink_mem]

@[simp] theorem State.lsack_mem (s : State) (i d ls : Nat) (rejected : Bool) : (s.lsack i d ls rejected).mem = s.mem := by
  unfold State.lsack
  grind [State.beginChange_mem, State.onLink_mem, State.releaseHeld_mem]

@[simp] theorem State.lsTimeout_mem (s : State) (i d : Nat) : (s.lsTimeout i d).mem = s.mem := by
  unfold State.lsTimeout
  grind [State.again_mem, State.onLink_mem]

theorem execLaserRampComplete_wf {s : State} (h : s.MemWf) (i d : Nat) : OutcomeWf (execLaserRampComplete i d s) := by
  unfold execLaserRampComplete
  exact event_wf _ h (by grind [State.MemWf, State.beginRemap_mem, State.later_mem])

@[simp] theorem State.light_mem (s : State) (i d : Nat) : (s.light i d).mem = s.mem := rfl

@[simp] theorem State.lightingSlot_mem (s : State) : s.lightingSlot.mem = s.mem := by
  unfold State.lightingSlot
  grind [State.again_mem, State.light_mem]

@[simp] theorem State.policy_mem (s : State) (i d : Nat) : (s.policy i d).mem = s.mem := by
  unfold State.policy
  grind [State.onLink_mem, State.requestLs_mem]

@[simp] theorem State.beginUp_mem (s : State) (i d : Nat) : (s.beginUp i d).mem = s.mem := by
  unfold State.beginUp
  grind [State.beginChange_mem, State.light_mem]

theorem execPolicyWindow_wf {s : State} (h : s.MemWf) : OutcomeWf (execPolicyWindow s) := by
  unfold execPolicyWindow
  exact event_wf _ h (by grind [State.MemWf, foldl_wf, State.beginUp_mem, State.onLink_mem, State.policy_mem])

@[simp] theorem State.train_mem (s : State) (i d : Nat) (keep : Bool) : (s.train i d keep).mem = s.mem := by
  unfold State.train
  dsimp only
  split <;> simp

theorem execLctlEnable_wf {s : State} (h : s.MemWf) (i d : Nat) (en : Bool) : OutcomeWf (execLctlEnable i d en s) := by
  unfold execLctlEnable
  exact event_wf _ h (by grind [State.MemWf, State.announce_mem, State.dropDetoured_mem, State.onLink_mem, State.spoil_mem,
    State.train_mem])

@[simp] theorem State.lctlRemap_mem (s : State) (i d : Nat) : (s.lctlRemap i d).mem = s.mem := by
  unfold State.lctlRemap
  dsimp only
  split <;> simp

theorem execLctlRemap_wf {s : State} (h : s.MemWf) (i d : Nat) : OutcomeWf (execLctlRemap i d s) :=
  event_wf _ h (h.of_mem (State.lctlRemap_mem ..))

theorem execLctlClrcnt_wf {s : State} (h : s.MemWf) (i d : Nat) : OutcomeWf (execLctlClrcnt i d s) :=
  event_wf _ h (h.of_mem (State.onLink_mem ..))

theorem execLctlLsset_wf {s : State} (h : s.MemWf) (i d : Nat) (ls : BitVec 2) : OutcomeWf (execLctlLsset i d ls s) := by
  unfold execLctlLsset
  exact event_wf _ h (by grind [State.MemWf, State.onLink_mem, State.requestLs_mem, State.wakeOff_mem])

theorem execLpolWrite_wf {s : State} (h : s.MemWf) (i d : Nat) (v : W64) : OutcomeWf (execLpolWrite i d v s) := by
  unfold execLpolWrite
  exact event_wf _ h (by grind [State.MemWf, State.onLink_mem])

@[simp] theorem State.writeDetour_mem (s : State) (i d : Nat) (v : W64) : (s.writeDetour i d v).mem = s.mem := by
  unfold State.writeDetour
  dsimp only
  split <;> simp

@[simp] theorem State.writeDetours_mem (s : State) (i d : Nat) (vs : List W64) : (s.writeDetours i d vs).mem = s.mem := by
  induction vs generalizing s with
  | nil => rfl
  | cons v r ih => grind [State.writeDetours, State.writeDetour_mem, State.onLink_mem]

theorem execDetourWrite_wf {s : State} (h : s.MemWf) (i d : Nat) (v : W64) : OutcomeWf (execDetourWrite i d v s) :=
  event_wf _ h (h.of_mem (by split <;> simp))

theorem execDrainResend_wf {s : State} (h : s.MemWf) (i d : Nat) : OutcomeWf (execDrainResend i d s) := by
  unfold execDrainResend
  exact event_wf _ h (by grind [State.MemWf, State.later_mem, State.onLink_mem, State.sendDrains_mem])

theorem execDigclr_wf {s : State} (h : s.MemWf) (i d : Nat) : OutcomeWf (execDigclr i d s) :=
  event_wf _ h (h.of_mem (State.onLink_mem ..))

theorem execFstatClr_wf {s : State} (h : s.MemWf) : OutcomeWf (execFstatClr s) :=
  dieEvent_wf h (h.of_mem (State.onDie_mem ..))

/-! ## `Machine/Ops` -/

@[simp] theorem State.sendWaiting_mem (s : State) (i : Nat) : (s.sendWaiting i).mem = s.mem := by
  unfold State.sendWaiting
  grind [foldl_mem, State.onDie_mem, State.sendRequest_mem]

@[simp] theorem State.readRecordFar_mem (s : State) (i pa n : Nat) : (s.readRecordFar i pa n).mem = s.mem := by
  unfold State.readRecordFar
  split <;> simp

theorem State.loadNow_wf {s : State} (h : s.MemWf) (i ctx : Nat) (va : W72) (n : Nat) :
    (s.loadNow i ctx va n).MemWf Prod.fst := by
  unfold State.loadNow
  grind [State.MemWf, Got.MemWf, foldl_wf, State.countMiss_mem, State.fetchRemote_mem, State.onDie_mem, State.readBytes_wf,
    State.readRecordFar_mem]

theorem State.enterTrap_wf {s : State} (h : s.MemWf) (i : Nat) (t : Trap) : (s.enterTrap i t).MemWf := by
  unfold State.enterTrap
  grind [State.MemWf, Got.MemWf, State.failContext_mem, State.onDie_mem, State.storeNow_wf]

theorem State.beginTrap_wf {s : State} (h : s.MemWf) (i : Nat) (t : Trap) : (s.beginTrap i t).MemWf := by
  unfold State.beginTrap
  grind [State.MemWf, State.enterTrap_wf, State.interruptWaits_mem, State.onDie_mem]

/-! ## `Machine/Operands` -/

@[simp] theorem State.result_mem (s : State) (lat : Nat) (w : RegWrite) : (s.result lat w).mem = s.mem := rfl

@[simp] theorem State.toS_mem (s : State) (d : BitVec 6) (lat : Nat) (x : W64) : (s.toS d lat x).mem = s.mem := rfl

@[simp] theorem State.toA_mem (s : State) (d : BitVec 6) (x : W72) : (s.toA d x).mem = s.mem := rfl

@[simp] theorem State.toP_mem (s : State) (d : Nat) (x : Bool) : (s.toP d x).mem = s.mem := rfl

@[simp] theorem State.flag_mem (s : State) (f : Flags) : (s.flag f).mem = s.mem := rfl

/-! ## `Machine/Issue` -/

@[simp] theorem State.score_mem (s : State) (live : List Op) : (s.score live).mem = s.mem := rfl

theorem State.readRecord_wf {s : State} (h : s.MemWf) : s.readRecord.MemWf Prod.fst := by
  unfold State.readRecord
  grind [State.MemWf, Got.MemWf, State.loadNow_wf]

theorem State.stall_wf {s : State} (h : s.MemWf) (live : List Op) : (s.stall live).MemWf := by
  unfold State.stall
  grind [State.MemWf, Got.MemWf, State.onCur_mem, State.readRecord_wf]

@[simp] theorem State.slotWrite_mem (s : State) (ws : List (Nat × Byte)) : (s.slotWrite ws).mem = s.mem := rfl

theorem State.retire_wf {s : State} (h : s.MemWf) (live : List Op) : (s.retire live).MemWf := by
  unfold State.retire
  grind [State.MemWf, State.beginTrap_wf, State.onCur_mem, State.onDie_mem, State.score_mem]

theorem perform_wf {s : State} (h : s.MemWf) (all live : List Op) {r : Except Trap State} (hr : IssueWf r) :
    (perform s all live r).MemWf := by
  unfold perform
  split
  · exact State.beginTrap_wf h _ _
  · split
    · exact State.stall_wf h _
    · split
      · exact State.beginTrap_wf h _ _
      · exact State.retire_wf hr _

@[simp] theorem State.nextCmdix_mem (s : State) : s.nextCmdix.mem = s.mem := rfl

@[simp] theorem State.toMatrix_mem (s : State) (c : Cmd) : (s.toMatrix c).mem = s.mem := rfl

@[simp] theorem State.toCopy_mem (s : State) (c : Cmd) (ev : Instr) : (s.toCopy c ev).mem = s.mem := rfl

@[simp] theorem State.toExchange_mem (s : State) (c : Cmd) : (s.toExchange c).mem = s.mem := rfl

/-! ## `Machine/Scalar` -/

theorem binS_wf {s : State} (h : s.MemWf) (f : SR) (lat : Nat) (g : W64 → W64 → W64) : IssueWf (binS f lat g s) :=
  h.of_mem (State.toS_mem ..)

theorem unS_wf {s : State} (h : s.MemWf) (f : SR) (g : W64 → W64) : IssueWf (unS f g s) :=
  h.of_mem (State.toS_mem ..)

theorem immS_wf {s : State} (h : s.MemWf) (f : SI) (g : W64 → W64 → W64) : IssueWf (immS f g s) :=
  h.of_mem (State.toS_mem ..)

theorem divS_wf {s : State} (h : s.MemWf) (f : SR) (flags : W64 → W64 → Flags) (g : W64 → W64 → W64) :
    IssueWf (divS f flags g s) := by
  unfold divS
  grind [State.MemWf, IssueWf, State.flag_mem, binS_wf]

theorem binP_wf {s : State} (h : s.MemWf) (f : SP) (g : Bool → Bool → Bool) : IssueWf (binP f g s) :=
  h.of_mem (State.toP_mem ..)

theorem issueAmov_wf {s : State} (h : s.MemWf) (f : SR) : IssueWf (issueAmov f s) := by
  unfold issueAmov
  grind [State.MemWf, IssueWf, State.toA_mem, State.toS_mem]

@[simp] theorem State.landingLoad_mem (s : State) (dest : LandDest) (pieces : List Piece) (land : Nat) (vec : Bool) :
    (s.landingLoad dest pieces land vec).mem = s.mem := by
  simp [State.landingLoad]

theorem issueGld_wf {s : State} (h : s.MemWf) (size : BitVec 3) (f : SM) : IssueWf (issueGld size f s) := by
  unfold issueGld
  grind [State.MemWf, IssueWf, State.toS_mem]

theorem issueGst_wf {s : State} (h : s.MemWf) (size : BitVec 2) (f : SM) : IssueWf (issueGst size f s) := by
  unfold issueGst
  grind [State.MemWf, IssueWf, State.slotWrite_mem]

@[simp] theorem State.jump_mem (s : State) (target : Nat) : (s.jump target).mem = s.mem := rfl

theorem issueCall_wf {s : State} (h : s.MemWf) (f : SB) : IssueWf (issueCall f s) := by
  unfold issueCall
  grind [State.MemWf, IssueWf, State.jump_mem, State.toS_mem]

theorem issueJmpi_wf {s : State} (h : s.MemWf) (f : SR) : IssueWf (issueJmpi f s) := by
  unfold issueJmpi
  grind [State.MemWf, IssueWf, State.jump_mem, State.toS_mem]

theorem issueLoop_wf {s : State} (h : s.MemWf) (f : SI) : IssueWf (issueLoop f s) := by
  unfold issueLoop
  grind [State.MemWf, IssueWf, State.onCur_mem]

theorem issueTstb_wf {s : State} (h : s.MemWf) (f : SR) : IssueWf (issueTstb f s) := by
  unfold issueTstb
  grind [State.MemWf, IssueWf, State.jump_mem]

theorem issueSetshape_wf {s : State} (h : s.MemWf) (f : SR) : IssueWf (issueSetshape f s) := by
  unfold issueSetshape
  grind [State.MemWf, IssueWf, State.result_mem]

theorem issueSysr_wf {s : State} (h : s.MemWf) (f : SI) : IssueWf (issueSysr f s) := by
  unfold issueSysr
  grind [State.MemWf, IssueWf, State.toA_mem, State.toS_mem]

theorem issueSysw_wf {s : State} (h : s.MemWf) (f : SI) : IssueWf (issueSysw f s) := by
  unfold issueSysw
  grind [State.MemWf, IssueWf, State.onCur_mem, State.result_mem]

theorem issueTret_wf {s : State} (h : s.MemWf) : IssueWf (issueTret s) := by
  unfold issueTret
  grind [State.MemWf, Got.MemWf, IssueWf, State.failContext_mem, State.onCur_mem, State.readRecord_wf]

/-! ## `Machine/Vector` -/

@[simp] theorem State.toV_mem (s : State) (vd : BitVec 5) (lat w : Nat) (rs : List (Nat × Nat × Flags)) :
    (s.toV vd lat w rs).mem = s.mem := rfl

theorem State.lanewise_wf {s : State} (h : s.MemWf) (f : VR) (lat : Nat) (g : Nat → Nat × Flags) :
    IssueWf (s.lanewise f lat g) := by
  unfold State.lanewise
  grind [State.MemWf, IssueWf, State.toV_mem]

theorem State.intLanes_wf {s : State} (h : s.MemWf) (f : VR) (u : Bool) (g : Int → Int → Int × Flags) :
    IssueWf (s.intLanes f u g) :=
  State.lanewise_wf h ..

theorem State.bitLanes_wf {s : State} (h : s.MemWf) (f : VR) (g : Nat → Nat → Nat) : IssueWf (s.bitLanes f g) :=
  State.lanewise_wf h ..

@[simp] theorem State.draw_mem (s : State) : s.draw.2.mem = s.mem := by
  unfold State.draw
  dsimp only
  split <;> simp

theorem State.roundLanes_wf {s : State} (h : s.MemWf) (f : VR) (lat : Nat) (g : Fmt → Mode → Nat → Nat → Nat × Flags) :
    IssueWf (s.roundLanes f lat g) := by
  unfold State.roundLanes
  grind [State.MemWf, IssueWf, State.draw_mem, State.lanewise_wf]

theorem State.approxLanes_wf {s : State} (h : s.MemWf) (f : VR) (kind : Nat) : IssueWf (s.approxLanes f kind) :=
  State.roundLanes_wf h ..

theorem State.pickLanes_wf {s : State} (h : s.MemWf) (f : VR) (wantMax : Bool) : IssueWf (s.pickLanes f wantMax) := by
  unfold State.pickLanes
  grind [State.MemWf, IssueWf, State.lanewise_wf]

theorem State.rewidth_wf {s : State} (h : s.MemWf) (f : VR) (lat ws wd part : Nat) (g : Nat → Nat → Nat × Flags) :
    IssueWf (s.rewidth f lat ws wd part g) := by
  unfold State.rewidth
  grind [State.MemWf, IssueWf, State.toV_mem]

theorem State.permute_wf {s : State} (h : s.MemWf) (f : VR) (control : BitVec 5) (g : Nat → Nat → Nat → Nat) :
    IssueWf (s.permute f control g) := by
  unfold State.permute
  grind [State.MemWf, IssueWf, State.lanewise_wf]

theorem issueVwiden_wf {s : State} (h : s.MemWf) (f : VR) : IssueWf (issueVwiden f s) := by
  unfold issueVwiden
  grind [State.MemWf, IssueWf, State.rewidth_wf]

theorem issueVnarrow_wf {s : State} (h : s.MemWf) (f : VR) : IssueWf (issueVnarrow f s) := by
  unfold issueVnarrow
  grind [State.MemWf, IssueWf, State.rewidth_wf]

theorem issueVfsgn_wf {s : State} (h : s.MemWf) (f : VR) : IssueWf (issueVfsgn f s) := by
  unfold issueVfsgn
  grind [State.MemWf, IssueWf, State.lanewise_wf]

theorem issueVcvt_wf {s : State} (h : s.MemWf) (f : VR) : IssueWf (issueVcvt f s) := by
  unfold issueVcvt
  grind [State.MemWf, IssueWf, State.draw_mem, State.rewidth_wf]

theorem issueVcmp_wf {s : State} (h : s.MemWf) (f : VR) : IssueWf (issueVcmp f s) := by
  unfold issueVcmp
  grind [State.MemWf, IssueWf, foldl_wf, State.flag_mem, State.result_mem]

theorem issueVsel_wf {s : State} (h : s.MemWf) (f : VR) : IssueWf (issueVsel f s) := by
  unfold issueVsel
  grind [State.MemWf, IssueWf, State.lanewise_wf]

theorem issueKop_wf {s : State} (h : s.MemWf) (f : VR) : IssueWf (issueKop f s) := by
  unfold issueKop
  grind [State.MemWf, IssueWf, State.result_mem]

theorem issueVins_wf {s : State} (h : s.MemWf) (f : VR) : IssueWf (issueVins f s) := by
  unfold issueVins
  grind [State.MemWf, IssueWf, State.toV_mem]

theorem issueVreda_wf {s : State} (h : s.MemWf) (f : VR) : IssueWf (issueVreda f s) := by
  unfold issueVreda
  grind [State.MemWf, IssueWf, State.draw_mem, State.toV_mem]

theorem issueVredm_wf {s : State} (h : s.MemWf) (f : VR) : IssueWf (issueVredm f s) := by
  unfold issueVredm
  grind [State.MemWf, IssueWf, foldl_wf, State.toV_mem]

theorem issueVld_wf {s : State} (h : s.MemWf) (f : VM) : IssueWf (issueVld f s) := by
  unfold issueVld
  grind [State.MemWf, IssueWf, State.landingLoad_mem, State.toV_mem]

theorem issueVst_wf {s : State} (h : s.MemWf) (f : VM) : IssueWf (issueVst f s) := by
  unfold issueVst
  grind [State.MemWf, IssueWf, State.issueStore_mem, State.slotWrite_mem]

theorem issueVgld_wf {s : State} (h : s.MemWf) (f : VM) : IssueWf (issueVgld f s) := by
  unfold issueVgld
  grind [State.MemWf, IssueWf, State.landingLoad_mem]

theorem issueVgst_wf {s : State} (h : s.MemWf) (f : VM) : IssueWf (issueVgst f s) := by
  unfold issueVgst
  grind [State.MemWf, IssueWf, State.issueStore_mem]

theorem issueVgath_wf {s : State} (h : s.MemWf) (f : VR) : IssueWf (issueVgath f s) := by
  unfold issueVgath
  grind [State.MemWf, IssueWf, State.toV_mem]

theorem issueVscat_wf {s : State} (h : s.MemWf) (f : VR) : IssueWf (issueVscat f s) := by
  unfold issueVscat
  grind [State.MemWf, IssueWf, State.slotWrite_mem]

/-! ## `Machine/Matrix` -/

theorem State.issueMatrix_wf {s : State} (h : s.MemWf) (i : Instr) : IssueWf (s.issueMatrix i) := by
  unfold State.issueMatrix
  grind [State.MemWf, IssueWf, State.nextCmdix_mem, State.onCur_mem, State.toMatrix_mem]

theorem State.issueTable_wf {s : State} (h : s.MemWf) (i : Instr) : IssueWf (s.issueTable i) := by
  unfold State.issueTable
  grind [State.MemWf, IssueWf, State.nextCmdix_mem, State.onCur_mem, State.slotWrite_mem]

/-! ## `Machine/Copy` -/

@[simp] theorem State.resultEntry_mem (s : State) (dest : LandDest) (land : Nat) : (s.resultEntry dest land).1.mem = s.mem :=
  rfl

@[simp] theorem State.withResult_mem (s : State) (res land : BitVec 6) (dest : LandDest) :
    (s.withResult res land dest).1.mem = s.mem := by
  unfold State.withResult
  split <;> simp

@[simp] theorem State.sendCopy_mem (s : State) (c : Cmd) : (s.sendCopy c).mem = s.mem := rfl

@[simp] theorem State.holdTile_mem (s : State) (c : Cmd) (t : Nat) (e : Tile) (st : TileState) :
    (s.holdTile c t e st).1.mem = s.mem := rfl

theorem State.issueTile_wf {s : State} (h : s.MemWf) (i : Instr) (f : CX) (base : BitVec 5) (st : TileState) :
    IssueWf (s.issueTile i f base st) := by
  unfold State.issueTile
  grind [State.MemWf, IssueWf, State.holdTile_mem, State.toCopy_mem]

theorem State.copyCmd_wf {s : State} (h : s.MemWf) (i : Instr) (f : CX) : ∀ x, s.copyCmd i f = .ok x → x.1.MemWf := by
  unfold State.copyCmd
  grind [State.MemWf, IssueWf, State.holdTile_mem]

theorem issueCnest_wf {s : State} (h : s.MemWf) (f : CN) : IssueWf (issueCnest f s) := by
  unfold issueCnest
  grind [State.MemWf, IssueWf, State.nextCmdix_mem, State.result_mem]

theorem issueCpy_wf {s : State} (h : s.MemWf) (f : CX) : IssueWf (issueCpy f s) := by
  unfold issueCpy
  split
  · trivial
  · next t c e => exact (State.copyCmd_wf h _ f _ e).of_mem (State.sendCopy_mem t c)

theorem issueCpym_wf {s : State} (h : s.MemWf) (f : CX) : IssueWf (issueCpym f s) := by
  unfold issueCpym
  split
  · trivial
  · next t c e =>
    refine (State.copyCmd_wf h _ f _ e).of_mem ?_
    rw [State.toMatrix_mem, State.onCur_mem, State.sendCopy_mem]

theorem issueAmo_wf {s : State} (h : s.MemWf) (f : CA) : IssueWf (issueAmo f s) := by
  unfold issueAmo
  grind [State.MemWf, IssueWf, State.sendCopy_mem, State.withResult_mem]

theorem issueCas_wf {s : State} (h : s.MemWf) (f : CA) : IssueWf (issueCas f s) := by
  unfold issueCas
  grind [State.MemWf, IssueWf, State.sendCopy_mem, State.withResult_mem]

theorem issueBind_wf {s : State} (h : s.MemWf) (f : CX) : IssueWf (issueBind f s) := by
  unfold issueBind
  grind [State.MemWf, IssueWf, State.nextCmdix_mem, State.onCur_mem]

theorem issueAcq_wf {s : State} (h : s.MemWf) (f : CA) : IssueWf (issueAcq f s) := by
  unfold issueAcq
  grind [State.MemWf, IssueWf, State.onCur_mem, State.sendCopy_mem, State.withResult_mem]

theorem issueWaita_wf {s : State} (h : s.MemWf) (f : CA) : IssueWf (issueWaita f s) := by
  unfold issueWaita
  grind [State.MemWf, IssueWf, State.resultEntry_mem, State.sendCopy_mem]

theorem issueScld_wf {s : State} (h : s.MemWf) (f : CA) : IssueWf (issueScld f s) := by
  unfold issueScld
  grind [State.MemWf, IssueWf, State.sendCopy_mem, State.withResult_mem]

theorem issueScst_wf {s : State} (h : s.MemWf) (f : CA) : IssueWf (issueScst f s) := by
  unfold issueScst
  grind [State.MemWf, IssueWf, State.sendCopy_mem]

/-! ## `Machine/Exchange` -/

theorem State.issueExchange_wf {s : State} (h : s.MemWf) (i : Instr) (f : CD) : IssueWf (s.issueExchange i f) := by
  unfold State.issueExchange
  grind [State.MemWf, IssueWf, State.onCur_mem, State.toExchange_mem]

theorem issueDbar_wf {s : State} (h : s.MemWf) (f : CD) : IssueWf (issueDbar f s) := by
  unfold issueDbar
  grind [State.MemWf, IssueWf, State.onCur_mem, State.toExchange_mem]

theorem issueXdig_wf {s : State} (h : s.MemWf) (f : CD) : IssueWf (issueXdig f s) := by
  unfold issueXdig
  grind [State.MemWf, IssueWf, State.onCur_mem, State.toExchange_mem]

/-! ## `Machine/Sched` -/

theorem State.devRead_wf {s : State} (h : s.MemWf) (ctx va n : Nat) : (s.devRead ctx va n).MemWf Prod.fst := by
  unfold State.devRead
  grind [State.MemWf, Got.MemWf, State.fetchRemote_mem]

theorem State.devPut_wf {s : State} (h : s.MemWf) (ws : List (Nat × Byte)) (bad : Bool) : (s.devPut ws bad).MemWf := by
  unfold State.devPut
  grind [State.MemWf, foldl_wf, State.dropCopies_mem, State.homeWrite_wf, State.poisonLine_mem, State.sendWrites_wf]

theorem State.devWrite_wf {s : State} (h : s.MemWf) (ctx va : Nat) (bs : List Byte) (bad : Bool) :
    (s.devWrite ctx va bs bad).MemWf id := by
  unfold State.devWrite
  grind [State.MemWf, Got.MemWf, State.devPut_wf, State.fetchRemote_mem]

theorem State.nodeBytes_wf {s : State} (h : s.MemWf) (r : Replay) (n : Nat) : (s.nodeBytes r n).MemWf Prod.fst := by
  unfold State.nodeBytes
  grind [State.MemWf, Got.MemWf, State.devRead_wf]

@[simp] theorem State.wake_mem (s : State) : s.wake.mem = s.mem := rfl

@[simp] theorem State.checkRetire_mem (s : State) (rid : Nat) : (s.checkRetire rid).mem = s.mem := by
  unfold State.checkRetire
  grind [State.later_mem]

@[simp] theorem State.dropDead_mem (s : State) : s.dropDead.mem = s.mem := by
  simp [State.dropDead, foldl_mem]

@[simp] theorem State.dropSaved_mem (s : State) (id : Nat) : (s.dropSaved id).mem = s.mem := by
  unfold State.dropSaved
  grind [State.onDie_mem]

@[simp] theorem State.abort_mem (s : State) (rid : Nat) (x : Abort) : (s.abort rid x).mem = s.mem := by
  unfold State.abort
  grind [foldl_mem, State.checkRetire_mem, State.dropDead_mem, State.dropSaved_mem, State.onDie_mem, State.onReplay_mem,
    State.wake_mem]

theorem State.takeListed_wf {s : State} (h : s.MemWf) (r : Replay) (n : Nat) : (s.takeListed r n).MemWf := by
  unfold State.takeListed
  grind [State.MemWf, Got.MemWf, State.abort_mem, State.devRead_wf, State.onReplay_mem]

theorem State.refill_wf {s : State} (h : s.MemWf) : s.refill.MemWf := by
  unfold State.refill
  grind [State.MemWf, foldl_wf, State.takeListed_wf]

theorem State.refillAll_wf {s : State} (h : s.MemWf) : s.refillAll.MemWf :=
  .foldl (fun _ _ h => State.refill_wf h ..) h _

theorem State.listNode_wf {s : State} (h : s.MemWf) (rid k n : Nat) : (s.listNode rid k n).MemWf := by
  unfold State.listNode
  grind [State.MemWf, Got.MemWf, State.abort_mem, State.devWrite_wf, State.nodeBytes_wf, State.onReplay_mem]

theorem State.listAgain_wf {s : State} (h : s.MemWf) : s.listAgain.MemWf := by
  unfold State.listAgain
  grind [State.MemWf, foldl_wf, State.listNode_wf, State.onReplay_mem]

theorem State.nodeReady_wf {s : State} (h : s.MemWf) (rid n : Nat) : (s.nodeReady rid n).MemWf := by
  unfold State.nodeReady
  grind [State.MemWf, State.listNode_wf, State.onReplay_mem, State.refillAll_wf]

theorem State.decrement_wf {s : State} (h : s.MemWf) (rid n : Nat) : (s.decrement rid n).MemWf := by
  unfold State.decrement
  grind [State.MemWf, State.abort_mem, State.later_mem, State.nodeReady_wf, State.onReplay_mem]

theorem State.completeNode_wf {s : State} (h : s.MemWf) (rid n : Nat) (node : Node) : (s.completeNode rid n node).MemWf id := by
  unfold State.completeNode
  grind [State.MemWf, Got.MemWf, foldl_wf, State.abort_mem, State.checkRetire_mem, State.decrement_wf, State.devRead_wf,
    State.kernelBoundary_wf, State.onReplay_mem]

theorem State.copyIsPool_wf {s : State} (h : s.MemWf) (ctx : Nat) (phys : Bool) (src : Nat) :
    (s.copyIsPool ctx phys src).MemWf fun _ => s := by
  unfold State.copyIsPool
  grind [State.MemWf, Got.MemWf, State.fetchRemote_mem]

@[simp] theorem State.addCopy_mem (s : State) (c : HostCopy) : (s.addCopy c).mem = s.mem := by
  simp [State.addCopy]

theorem State.openNode_wf {s : State} (h : s.MemWf) (rid n : Nat) : (s.openNode rid n).MemWf id := by
  have hn := State.nodeBytes_wf h
  unfold State.openNode
  repeat' split
  all_goals grind [Got.MemWf, State.MemWf, State.abort_mem, State.addCopy_mem, State.completeNode_wf, State.copyIsPool_wf,
    State.onReplay_mem, id]

theorem State.openAll_wf {s : State} (h : s.MemWf) (n : Nat) : (State.openAll n s).MemWf := by
  induction n generalizing s with
  | zero => exact h
  | succ n ih => grind [State.MemWf, State.openAll, State.refillAll_wf, State.openNode_wf, Got.MemWf]

theorem State.settle_wf {s : State} (h : s.MemWf) : s.settle.MemWf :=
  State.openAll_wf (State.listAgain_wf h ..) ..

/-! ## `Machine/CopyEngine` -/

theorem State.ringPut_wf {s : State} (h : s.MemWf) (b : List Byte) : (s.ringPut b).MemWf :=
  State.homeWrite_wf _ _ h

theorem State.ringFlush_wf {s : State} (h : s.MemWf) (n : Nat) : (State.ringFlush n s).MemWf := by
  induction n generalizing s with
  | zero => exact h
  | succ n ih => grind [State.MemWf, State.ringFlush, State.ringPut_wf]

theorem State.ringAdd_wf {s : State} (h : s.MemWf) (b : List Byte) : (s.ringAdd b).1.MemWf := by
  unfold State.ringAdd
  grind [State.MemWf, State.ringFlush_wf]

theorem State.engPut_wf {s : State} (h : s.MemWf) (i : Nat) (w : Waiter) (ws : List (Nat × Byte)) (attr : Nat) :
    (s.engPut i w ws attr).MemWf := by
  unfold State.engPut
  grind [State.MemWf, State.engWrite_wf, State.l1Purge_wf, State.sendWrites_wf]

@[simp] theorem State.deliver_mem (s : State) (i : Nat) (k : Cmd) (bytes : List Byte) : (s.deliver i k bytes).mem = s.mem := by
  unfold State.deliver
  split <;> simp

@[simp] theorem State.freeOver_mem (s : State) (both : List Nat) (ws : List ((Nat × Nat) × Byte)) :
    (s.freeOver both ws).1.mem = s.mem := by
  induction ws generalizing s with
  | nil => rfl
  | cons w r ih => grind [State.freeOver]

theorem State.copyBytes_wf {s : State} (h : s.MemWf) (i : Nat) (k : Cmd) (both : List Nat) (g : Gran) :
    (s.copyBytes i k both g).MemWf := by
  unfold State.copyBytes
  grind [State.MemWf, Ended.MemWf, foldl_wf, State.engPut_wf, State.engRead_wf, State.fetchRemote_mem, State.freeOver_mem,
    State.onDie_mem]

theorem State.copyGran_wf {s : State} (h : s.MemWf) (i : Nat) (k : Cmd) (both : List Nat) (g : Gran) :
    (s.copyGran i k both g).MemWf := by
  unfold State.copyGran
  grind [State.MemWf, Ended.MemWf, State.copyBytes_wf]

theorem State.copyRun_wf {s : State} (h : s.MemWf) (i : Nat) (k : Cmd) (both : List Nat) (gs : List Gran) (n : Nat) :
    (State.copyRun i k both gs n s).2.MemWf := by
  induction gs generalizing s n with
  | nil => exact h
  | cons g r ih => grind [State.MemWf, State.copyRun, State.copyGran_wf, Ended.MemWf, State.onDie_mem]

@[simp] theorem State.keepDone_mem (s : State) (i n : Nat) (k : Cmd) (done : Nat) : (s.keepDone i n k done).mem = s.mem := rfl

@[simp] theorem State.expireUnwritten_mem (s : State) (i : Nat) (e : Tile) (written : List Nat) :
    (s.expireUnwritten i e written).mem = s.mem := rfl

theorem State.copyHead_wf {s : State} (h : s.MemWf) (i n : Nat) (k : Cmd) (limit : Nat) : (s.copyHead i n k limit).MemWf := by
  unfold State.copyHead
  grind [State.MemWf, Ended.MemWf, State.copyRun_wf, State.expireUnwritten_mem, State.keepDone_mem, State.onDie_mem]

theorem State.tileBytes_wf {s : State} (h : s.MemWf) (i need : Nat) (ps : List (W72 × Nat × Nat)) :
    ∀ t, s.tileBytes i need ps = .error (.error t) → t.MemWf := by
  induction ps with
  | nil => simp [State.tileBytes]
  | cons p r ih => grind [State.MemWf, State.tileBytes, State.fetchRemote_mem]

theorem State.readTile_wf {s : State} (h : s.MemWf) (i n : Nat) (k : Cmd) (lines : List Nat) :
    ∀ t, s.readTile i n k lines = some t → t.MemWf := by
  unfold State.readTile
  grind [State.MemWf, foldl_wf, State.dropCopies_mem, State.fetchRemote_mem, State.onDie_mem]

theorem State.tldHead_wf {s : State} (h : s.MemWf) (i n : Nat) (k : Cmd) : (s.tldHead i n k).MemWf := by
  unfold State.tldHead
  grind [State.MemWf, Ended.MemWf, State.engRead_wf, State.expireUnwritten_mem, State.onDie_mem, State.readTile_wf,
    State.tileBytes_wf]

theorem State.sendGroup_wf {s : State} (h : s.MemWf) (i n : Nat) (ws : List (Nat × Byte)) : (s.sendGroup i n ws).MemWf := by
  unfold State.sendGroup
  grind [State.MemWf, foldl_wf, State.onDie_mem, State.sendWrites_wf]

theorem State.tileStore_wf {s : State} (h : s.MemWf) (i n need : Nat) (k : Cmd)
    (merge : State → List (Nat × Nat) → List (Nat × Byte) × Option Marks) : (s.tileStore i n need k merge).MemWf := by
  unfold State.tileStore
  grind [State.MemWf, Ended.MemWf, State.engRead_wf, State.engWrite_wf, State.l1Purge_wf, State.onDie_mem, State.readTile_wf,
    State.sendGroup_wf, State.tileBytes_wf]

theorem State.tstHead_wf {s : State} (h : s.MemWf) (i n : Nat) (k : Cmd) : (s.tstHead i n k).MemWf := by
  unfold State.tstHead
  grind [State.MemWf, Ended.MemWf, State.tileStore_wf]

theorem State.tredHead_wf {s : State} (h : s.MemWf) (i n : Nat) (k : Cmd) (op : Nat) : (s.tredHead i n k op).MemWf := by
  unfold State.tredHead
  grind [State.MemWf, Ended.MemWf, foldl_wf, State.tileStore_wf]

theorem State.maintain_wf {s : State} (h : s.MemWf) (i : Nat) (k : Cmd) (scope : Nat) (drop : Bool) :
    (s.maintain i k scope drop).MemWf := by
  unfold State.maintain
  grind [State.MemWf, foldl_wf, State.dropCopies_mem, State.l1Drop_mem, State.l1WriteBack_wf, State.poolBack_wf]

theorem State.maintainHead_wf {s : State} (h : s.MemWf) (i n : Nat) (k : Cmd) (scope : Nat) (drop : Bool) :
    (s.maintainHead i n k scope drop).MemWf := by
  unfold State.maintainHead
  grind [State.MemWf, Ended.MemWf, State.fetchRemote_mem, State.maintain_wf, State.onDie_mem]

theorem State.prefetch_wf {s : State} (h : s.MemWf) (i : Nat) (k : Cmd) (toL1 : Bool) : (s.prefetch i k toL1).MemWf := by
  unfold State.prefetch
  grind [State.MemWf, Ended.MemWf, foldl_wf, State.fetchRemote_mem, State.l1Fill_mem, State.l1Room_wf, State.onDie_mem]

theorem State.word_wf {s : State} (h : s.MemWf) (i : Nat) (k : Cmd) (size need : Nat) :
    ∀ e, s.word i k size need = .error e → e.MemWf := by
  unfold State.word
  grind [State.MemWf, Ended.MemWf, State.fetchRemote_mem]

@[simp] theorem State.onCopyCmd_mem (s : State) (i n : Nat) (k : Cmd) (f : Cmd → Cmd) : (s.onCopyCmd i n k f).mem = s.mem := rfl

theorem State.atomicHead_wf {s : State} (h : s.MemWf) (i n : Nat) (k : Cmd) : (s.atomicHead i n k).MemWf := by
  unfold State.atomicHead
  grind [State.MemWf, Ended.MemWf, State.deliver_mem, State.engRead_wf, State.engWrite_wf, State.l1Purge_wf,
    State.onCopyCmd_mem, State.poisonLine_mem, State.sendRequest_mem, State.word_wf]

theorem State.object_wf {s : State} (h : s.MemWf) (i : Nat) (k : Cmd) (need : Nat) :
    ∀ e, s.object i k need = .error e → e.MemWf := by
  unfold State.object
  grind [State.MemWf, Ended.MemWf, State.word_wf]

theorem State.acqHead_wf {s : State} (h : s.MemWf) (i n : Nat) (k : Cmd) : (s.acqHead i n k).MemWf := by
  unfold State.acqHead
  split
  · next e he => exact State.object_wf h _ _ _ _ he
  · grind [State.MemWf, Ended.MemWf, State.deliver_mem, State.dropCopies_mem, State.engRead_wf, State.fetchRemote_mem,
    State.l1DropWt_mem, State.l1Purge_wf, State.onCopyCmd_mem, State.sendRequest_mem]

@[simp] theorem State.sendSync_mem (s : State) (i n pa kind value : Nat) (k : Cmd) :
    (s.sendSync i n pa kind value k).mem = s.mem := by
  simp [State.sendSync]

theorem State.relHead_wf {s : State} (h : s.MemWf) (i n : Nat) (k : Cmd) : (s.relHead i n k).MemWf := by
  unfold State.relHead
  grind [State.MemWf, Ended.MemWf, State.engRead_wf, State.engWrite_wf, State.l1Purge_wf, State.object_wf, State.sendSync_mem]

@[simp] theorem State.watch_mem (s : State) : s.watch.mem = s.mem := by
  unfold State.watch
  grind [foldl_mem, State.onDie_mem]

theorem State.waitaHead_wf {s : State} (h : s.MemWf) (i n : Nat) (k : Cmd) (timeout : Bool) :
    (s.waitaHead i n k timeout).MemWf := by
  unfold State.waitaHead
  split
  · next e he => exact State.object_wf h _ _ _ _ he
  · next pa a he =>
    have hr := State.engRead_wf s i ((List.range 8).map (pa + ·)) h
    have land (t : State) (ht : t.MemWf) (bs : List Byte) : Ended.MemWf (.done (t.deliver i k bs)) :=
      ht.of_mem (State.deliver_mem ..)
    refine .ite (land s h _) <| .ite (h.of_mem (State.fetchRemote_mem ..)) <| .ite h <| .ite h ?_
    refine .ite (land _ hr _) <| .ite (land _ hr _) <| .ite (land _ hr _) <| .ite (land _ hr _) <| ?_
    refine .ite ?_ <| .ite (land _ hr _) ?_
    · exact State.MemWf.ite (State.MemWf.of_mem hr (State.dropCopies_mem ..)) hr
    · exact State.MemWf.of_mem hr ((State.later_mem ..).trans (State.onCopyCmd_mem ..))

@[simp] theorem State.wakeWord_mem (s : State) (pa : Nat) : (s.wakeWord pa).mem = s.mem := by
  unfold State.wakeWord
  grind [foldl_mem, State.onDie_mem]

theorem State.wakeHead_wf {s : State} (h : s.MemWf) (i n : Nat) (k : Cmd) : (s.wakeHead i n k).MemWf := by
  unfold State.wakeHead
  grind [State.MemWf, Ended.MemWf, State.object_wf, State.sendSync_mem, State.wakeWord_mem]

theorem State.scWord_wf {s : State} (h : s.MemWf) (i : Nat) (k : Cmd) : ∀ e, s.scWord i k = .error e → e.MemWf := by
  unfold State.scWord
  grind [State.MemWf, Ended.MemWf, State.fetchRemote_mem]

theorem State.performSc_wf {s : State} (h : s.MemWf) (i n : Nat) (k : Cmd) : (s.performSc i n k).MemWf := by
  unfold State.performSc
  grind [State.MemWf, Ended.MemWf, State.deliver_mem, State.engRead_wf, State.engWrite_wf, State.l1DropWt_mem, State.scWord_wf]

theorem State.performAhead_wf {s : State} (h : s.MemWf) (i n : Nat) : (s.performAhead i n).MemWf := by
  unfold State.performAhead
  grind [State.MemWf, Ended.MemWf, foldl_wf, State.onCopyCmd_mem, State.performSc_wf]

theorem State.copyTry_wf {s : State} (h : s.MemWf) (i n : Nat) (k : Cmd) (limit : Nat) (timeout : Bool) :
    (s.copyTry i n k limit timeout).MemWf := by
  unfold State.copyTry
  grind [State.MemWf, Ended.MemWf, State.acqHead_wf, State.atomicHead_wf, State.copyHead_wf, State.maintainHead_wf,
    State.performSc_wf, State.prefetch_wf, State.relHead_wf, State.tldHead_wf, State.tredHead_wf, State.tstHead_wf,
    State.waitaHead_wf, State.wakeHead_wf]

theorem State.copyFinish_wf {s : State} (h : s.MemWf) (i n : Nat) (k : Cmd) : (s.copyFinish i n k).MemWf := by
  unfold State.copyFinish
  grind [State.MemWf, State.decrement_wf, State.later_mem, State.onCopyCmd_mem, State.onDie_mem, State.settle_wf]

theorem State.parkCopy_wf {s : State} (h : s.MemWf) (i n : Nat) (k : Cmd) (va : W72) : (s.parkCopy i n k va).MemWf := by
  unfold State.parkCopy
  grind [State.MemWf, State.onCopyCmd_mem, State.ringAdd_wf]

@[simp] theorem State.rouseStream_mem (s : State) (y n : Nat) : (s.rouseStream y n).mem = s.mem := by
  unfold State.rouseStream
  grind [foldl_mem, State.later_mem]

theorem State.copyStep_wf {s : State} (h : s.MemWf) (i n limit : Nat) (timeout : Bool) (again : Instr) :
    (s.copyStep i n limit timeout again).MemWf := by
  unfold State.copyStep
  grind [State.MemWf, Ended.MemWf, State.copyFinish_wf, State.copyTry_wf, State.later_mem, State.parkCopy_wf,
    State.performAhead_wf]

theorem execWaitaTimeout_wf {s : State} (h : s.MemWf) (die stream : Nat) : OutcomeWf (execWaitaTimeout die stream s) := by
  unfold execWaitaTimeout
  exact event_wf _ h (by grind [State.MemWf, State.copyStep_wf, State.later_mem])

theorem execMatrixCommandComplete_wf {s : State} (h : s.MemWf) : OutcomeWf (execMatrixCommandComplete s) := by
  unfold execMatrixCommandComplete
  exact dieEvent_wf h (by grind [State.MemWf, State.later_mem, State.setDie_mem])

theorem State.engineFault_wf {s : State} (h : s.MemWf) (i : Nat) (e : Engine) : (s.engineFault i e).MemWf := by
  unfold State.engineFault
  grind [State.MemWf, Ended.MemWf, State.copyTry_wf, State.later_mem, State.onDie_mem, State.setDie_mem]

/-! ## `Machine/XchEngine` -/

@[simp] theorem State.sendToken_mem (s : State) (i : Nat) (k : Cmd) (r : Role) (seqn bytes : Nat) (tag : BitVec 16)
    (flags : Nat) : (s.sendToken i k r seqn bytes tag flags).mem = s.mem := by
  simp [State.sendToken]

@[simp] theorem State.takeNumber_mem (s : State) (i : Nat) (k : Cmd) (r : Role) (sends : Bool) (seqn : Nat) :
    (s.takeNumber i k r sends seqn).1.mem = s.mem := rfl

@[simp] theorem State.beginRole_mem (s : State) (i : Nat) (k : Cmd) (r : Role) : (s.beginRole i k r).1.mem = s.mem := by
  unfold State.beginRole
  grind [State.onDie_mem, State.sendToken_mem, State.takeNumber_mem]

@[simp] theorem State.putXch_mem (s : State) (i n : Nat) (k : Cmd) : (s.putXch i n k).mem = s.mem := rfl

@[simp] theorem State.beginRoles_mem (i : Nat) (k : Cmd) (rs : List Role) (s : State) :
    (State.beginRoles i k rs s).1.mem = s.mem := by
  induction rs generalizing s with
  | nil => rfl
  | cons r rs ih => grind [State.beginRoles, State.beginRole_mem]

@[simp] theorem State.beginExchange_mem (s : State) (i n : Nat) (k : Cmd) : (s.beginExchange i n k).mem = s.mem := by
  unfold State.beginExchange
  split <;> simp

@[simp] theorem State.tileReady_mem (s : State) (i n : Nat) (k : Cmd) (t : Nat) : (s.tileReady i n k t).mem = s.mem := by
  unfold State.tileReady
  split <;> simp

@[simp] theorem State.putRole_mem (s : State) (i n : Nat) (k : Cmd) (j : Nat) (r : Role) :
    (s.putRole i n k j r).mem = s.mem := rfl

@[simp] theorem State.dropResv_mem (s : State) (i : Nat) (x : Resv) : (s.dropResv i x).mem = s.mem := rfl

theorem State.sendTry_wf {s : State} (h : s.MemWf) (i n : Nat) (k : Cmd) (j : Nat) (r : Role) (late : Bool) :
    (s.sendTry i n k j r late).MemWf := by
  unfold State.sendTry
  grind [State.MemWf, Ended.MemWf, State.dropResv_mem, State.onDie_mem, State.originate_mem, State.putRole_mem,
    State.tileReady_mem]

theorem State.recvTry_wf {s : State} (h : s.MemWf) (i n : Nat) (k : Cmd) (j : Nat) (r : Role) (late : Bool) :
    (s.recvTry i n k j r late).MemWf := by
  unfold State.recvTry
  dsimp only
  repeat' split
  all_goals grind [Ended.MemWf, State.MemWf, foldl_mem, State.putRole_mem, State.setDie_mem, State.tileReady_mem]

theorem State.roundTry_wf {s : State} (h : s.MemWf) (i n : Nat) (k : Cmd) (j : Nat) (r : Role) (late : Bool) :
    (s.roundTry i n k j r late).MemWf := by
  unfold State.roundTry
  grind [State.MemWf, Ended.MemWf, State.dropResv_mem, State.putRole_mem]

theorem State.roleTry_wf {s : State} (h : s.MemWf) (i n : Nat) (k : Cmd) (j : Nat) (r : Role) (late : Bool) :
    (s.roleTry i n k j r late).MemWf := by
  unfold State.roleTry
  grind [State.MemWf, Ended.MemWf, State.recvTry_wf, State.roundTry_wf, State.sendTry_wf]

theorem State.rolesTry_wf {s : State} (h : s.MemWf) (i n : Nat) (k : Cmd) (late : Bool) (rs : List (Role × Nat)) (all : Bool) :
    (State.rolesTry i n k late rs all s).MemWf := by
  induction rs generalizing s all with
  | nil => grind [State.MemWf, State.rolesTry, Ended.MemWf]
  | cons r rs ih => grind [State.MemWf, State.rolesTry, State.roleTry_wf, Ended.MemWf]

theorem State.exchangeTry_wf {s : State} (h : s.MemWf) (i n : Nat) (k : Cmd) (timeout : Bool) :
    (s.exchangeTry i n k timeout).MemWf := by
  unfold State.exchangeTry
  grind [State.MemWf, Ended.MemWf, foldl_wf, State.rolesTry_wf, State.sendTry_wf]

@[simp] theorem State.cancelRole_mem (s : State) (i : Nat) (k : Cmd) (r : Role) : (s.cancelRole i k r).mem = s.mem := by
  unfold State.cancelRole
  grind [State.expireUnwritten_mem, State.onDie_mem, State.sendToken_mem]

@[simp] theorem State.xchFail_mem (s : State) (i n : Nat) (k : Cmd) (x : Fail) : (s.xchFail i n k x).mem = s.mem := by
  simp [State.xchFail, foldl_mem]

theorem State.xchStep_wf {s : State} (h : s.MemWf) (i n : Nat) : (s.xchStep i n).MemWf := by
  unfold State.xchStep
  grind [State.MemWf, Ended.MemWf, State.again_mem, State.beginExchange_mem, State.beginRoles_mem, State.exchangeTry_wf,
    State.later_mem, State.onDie_mem, State.putXch_mem]

theorem execXwaitExpiry_wf {s : State} (h : s.MemWf) (die stream : Nat) : OutcomeWf (execXwaitExpiry die stream s) := by
  unfold execXwaitExpiry
  exact event_wf _ h (by grind [State.MemWf, Ended.MemWf, State.again_mem, State.exchangeTry_wf, State.xchFail_mem])

theorem execEngineFault_wf {s : State} (h : s.MemWf) (die : Nat) (e : Engine) : OutcomeWf (execEngineFault die e s) := by
  unfold execEngineFault
  exact event_wf _ h (by grind [State.MemWf, Ended.MemWf, State.again_mem, State.engineFault_wf, State.exchangeTry_wf,
    State.later_mem, State.xchFail_mem])

theorem State.writeIf_wf {s : State} (h : s.MemWf) (ctx : Nat) (va : W72) (bs : List Byte) : (s.writeIf ctx va bs).MemWf := by
  unfold State.writeIf
  grind [State.MemWf, Got.MemWf, State.devWrite_wf]

theorem State.logAppend_wf {s : State} (h : s.MemWf) (i key : Nat) (e : LogEntry) : (s.logAppend i key e).MemWf := by
  unfold State.logAppend
  grind [State.MemWf, State.onDie_mem, State.writeIf_wf]

@[simp] theorem State.onOwner_mem (s : State) (i key : Nat) (f : Ctxt → Ctxt) : (s.onOwner i key f).mem = s.mem := by
  unfold State.onOwner
  split <;> simp

@[simp] theorem State.pushNow_mem (s : State) (i : Nat) (rs : Resv) (p : Packet) : (s.pushNow i rs p).mem = s.mem := by
  unfold State.pushNow
  grind [State.dropResv_mem, State.onDie_mem, State.onOwner_mem]

@[simp] theorem State.pushIn_mem (s : State) (i : Nat) (rs : Resv) (p : Packet) : (s.pushIn i rs p).mem = s.mem := by
  unfold State.pushIn
  grind [State.countDup_mem, State.onDie_mem, State.pushNow_mem]

@[simp] theorem State.flushPushes_mem (s : State) (i : Nat) : (s.flushPushes i).mem = s.mem := by
  unfold State.flushPushes
  grind [foldl_mem, State.onDie_mem, State.pushNow_mem]

@[simp] theorem State.tokenIn_mem (s : State) (i : Nat) (p : Packet) (t : TokenBits) : (s.tokenIn i p t).mem = s.mem := by
  unfold State.tokenIn
  grind [State.countDup_mem, State.onDie_mem, State.onOwner_mem]

@[simp] theorem State.replayLog_mem (s : State) (i : Nat) (log : List LogEntry) : (s.replayLog i log).mem = s.mem := by
  unfold State.replayLog
  grind [foldl_mem, State.countDup_mem, State.pushIn_mem, State.tokenIn_mem]

theorem execPush_wf {s : State} (h : s.MemWf) (die : Nat) (ch : BitVec 3) (p : Packet) : OutcomeWf (execPush die ch p s) := by
  unfold execPush
  exact event_wf _ h (by grind [State.MemWf, State.accept_mem, State.countDup_mem, State.logAppend_wf, State.pushIn_mem])

theorem execRtok_wf {s : State} (h : s.MemWf) (die : Nat) (p : Packet) : OutcomeWf (execRtok die p s) := by
  unfold execRtok
  exact event_wf _ h (by grind [State.MemWf, State.accept_mem, State.countBad_mem, State.logAppend_wf, State.tokenIn_mem])

/-! ## `Machine/Run` -/

theorem runOp_wf {s : State} (h : s.MemWf) (i : Instr) : IssueWf (runOp i s) := by
  cases i <;> dsimp only [runOp]
  case add | sub | mul | mulhs | mulhb | and | or | xor | shl | shr | sar | min | max | minb | maxb | sel => exact binS_wf h ..
  case addi | andi | ori | xori | shli | shri | sari => exact immS_wf h ..
  case divs | divb | rems | remb => exact divS_wf h ..
  case clz | popc | brev | exts | mov => exact unS_wf h ..
  case bfx | bfi | movl | adiff | spl | getshape | node => exact h.of_mem (State.toS_mem ..)
  case cmp | cmpi | pnot => exact h.of_mem (State.toP_mem ..)
  case pand | por | pxor => exact binP_wf h ..
  case aadd | aaddi | alit => exact h.of_mem (State.toA_mem ..)
  case ld | lda => exact h.of_mem (State.landingLoad_mem ..)
  case st | sta => exact h.of_mem (State.issueStore_mem ..)
  case sps | trap | fence | fend => exact h.of_mem (State.onCur_mem ..)
  case br | ret => exact h.of_mem (State.jump_mem ..)
  case vadd | vsub | vmul | vmulh | vadds | vsubs | vmin | vmax => exact State.intLanes_wf h ..
  case vmac | vabs => exact State.lanewise_wf h ..
  case vshl | vshr | vsar | vand | vor | vxor => exact State.bitLanes_wf h ..
  case vfadd | vfsub | vfmul | vfma => exact State.roundLanes_wf h ..
  case vfmin | vfmax => exact State.pickLanes_wf h ..
  case vrcp | vrsq | vexp2 | vlog2 => exact State.approxLanes_wf h ..
  case vperm | vrot | vbcast | vextr => exact State.permute_wf h ..
  case mma | mmai | mmap | zacc | zadd | zret | trenew | txpose | tcvt | tfill | cbld | ptb | yld | yclr =>
    exact State.issueMatrix_wf h ..
  case talloc | tfree | tstat => exact State.issueTable_wf h ..
  case tld | tst | tred => exact State.issueTile_wf h ..
  case rwb | rinv | pref | rel | wake | dec => exact h.of_mem (State.sendCopy_mem ..)
  case xch | xcc | sib | grs => exact State.issueExchange_wf h ..
  case amov f => exact issueAmov_wf h f
  case gld size f => exact issueGld_wf h size f
  case gst size f => exact issueGst_wf h size f
  case call f => exact issueCall_wf h f
  case jmpi f => exact issueJmpi_wf h f
  case tstb f => exact issueTstb_wf h f
  case loop f => exact issueLoop_wf h f
  case setshape f => exact issueSetshape_wf h f
  case sysr f => exact issueSysr_wf h f
  case sysw f => exact issueSysw_wf h f
  case vwiden f => exact issueVwiden_wf h f
  case vnarrow f => exact issueVnarrow_wf h f
  case vfsgn f => exact issueVfsgn_wf h f
  case vcvt f => exact issueVcvt_wf h f
  case vcmp f => exact issueVcmp_wf h f
  case vsel f => exact issueVsel_wf h f
  case kop f => exact issueKop_wf h f
  case vins f => exact issueVins_wf h f
  case vreda f => exact issueVreda_wf h f
  case vredm f => exact issueVredm_wf h f
  case vld f => exact issueVld_wf h f
  case vst f => exact issueVst_wf h f
  case vgld f => exact issueVgld_wf h f
  case vgst f => exact issueVgst_wf h f
  case vgath f => exact issueVgath_wf h f
  case vscat f => exact issueVscat_wf h f
  case cnest f => exact issueCnest_wf h f
  case cpy f => exact issueCpy_wf h f
  case cpym f => exact issueCpym_wf h f
  case amo f => exact issueAmo_wf h f
  case cas f => exact issueCas_wf h f
  case bind f => exact issueBind_wf h f
  case acq f => exact issueAcq_wf h f
  case waita f => exact issueWaita_wf h f
  case scld f => exact issueScld_wf h f
  case scst f => exact issueScst_wf h f
  case dbar f => exact issueDbar_wf h f
  case xdig f => exact issueXdig_wf h f
  case nop => exact h
  case tret => exact issueTret_wf h
  all_goals exact h

theorem runOps_wf {s : State} (h : s.MemWf) (ops : List Op) : IssueWf (runOps ops s) := by
  induction ops generalizing s with
  | nil => exact h
  | cons o r ih => grind [State.MemWf, runOps, runOp_wf, IssueWf]

/-! ## `Machine/Cycle` -/

@[simp] theorem State.fetchCold_mem (s : State) (h p : Nat) : (s.fetchCold h p).mem = s.mem := by
  unfold State.fetchCold
  split <;> simp

@[simp] theorem State.fetchMore_mem (s : State) (i : Nat) : (s.fetchMore i).mem = s.mem := by
  unfold State.fetchMore
  grind [State.again_mem, State.fetchCold_mem, State.onDie_mem]

theorem execCodeLineArrival_wf {s : State} (h : s.MemWf) (die line : Nat) : OutcomeWf (execCodeLineArrival die line s) := by
  unfold execCodeLineArrival
  exact event_wf _ h (by grind [State.MemWf, State.fetchMore_mem, State.onDie_mem])

@[simp] theorem State.enterHalf_mem (s : State) (i a : Nat) : (s.enterHalf i a).mem = s.mem := by
  unfold State.enterHalf
  grind [State.onDie_mem]

theorem State.codeAt_wf {s : State} (h : s.MemWf) (i : Nat) : (s.codeAt i).MemWf := by
  unfold State.codeAt
  grind [State.MemWf, CodeAt.MemWf, State.enterHalf_mem, State.fetchCold_mem, State.fetchMore_mem]

theorem State.endFetch_wf {s : State} (h : s.MemWf) (handle page : Nat) (readError : Bool) :
    (s.endFetch handle page readError).MemWf := by
  unfold State.endFetch
  grind [State.MemWf, foldl_wf, State.again_mem, State.homeWrite_wf, State.onDie_mem]

@[simp] theorem State.fenceAcquire_mem (s : State) (i scope : Nat) : (s.fenceAcquire i scope).mem = s.mem := by
  unfold State.fenceAcquire
  grind [State.dropCopies_mem, State.l1DropWt_mem]

@[simp] theorem State.settleWaits_mem (s : State) (i : Nat) : (s.settleWaits i).mem = s.mem := by
  unfold State.settleWaits
  grind [foldl_mem, State.fenceAcquire_mem, State.onDie_mem]

@[simp] theorem State.freeze_mem (s : State) (i : Nat) (f : Counters → Counters) : (s.freeze i f).mem = s.mem := rfl

@[simp] theorem State.endCycle_mem (s : State) (i w : Nat) : (s.endCycle i w).mem = s.mem := rfl

@[simp] theorem State.plainCycle_mem (s : State) (i : Nat) : (s.plainCycle i).mem = s.mem := by
  unfold State.plainCycle
  dsimp only
  split <;> simp

@[simp] theorem State.halt_mem (s : State) (i reason : Nat) : (s.halt i reason).mem = s.mem := by
  unfold State.halt
  grind [foldl_mem, State.later_mem, State.onDie_mem]

theorem State.decideNext_wf (n : Nat) {s : State} (h : s.MemWf) (i : Nat) : (State.decideNext n s i).MemWf := by
  induction n generalizing s with
  | zero => exact h
  | succ n ih => grind [State.MemWf, State.decideNext, State.codeAt_wf, State.onDie_mem, CodeAt.MemWf, Decision.MemWf]

@[simp] theorem State.readyIssue_mem (s : State) (i : Nat) (b : Bundle) (h : Held) : (s.readyIssue i b h).mem = s.mem := rfl

theorem State.decided_wf {s : State} (h : s.MemWf) (i : Nat) : (s.decided i).MemWf := by
  unfold State.decided
  grind [State.MemWf, Decision.MemWf, State.decideNext_wf, State.onDie_mem, State.settleWaits_mem]

theorem State.freezeLate_wf {s : State} (h : s.MemWf) (i : Nat) : (s.freezeLate i).MemWf := by
  unfold State.freezeLate
  grind [State.MemWf, CodeAt.MemWf, foldl_wf, State.codeAt_wf, State.freeze_mem, State.onDie_mem]

theorem State.issueHeld_wf {s : State} (hs : s.MemWf) (i : Nat) (b : Bundle) (h : Held) : (s.issueHeld i b h).MemWf := by
  unfold State.issueHeld
  grind [State.MemWf, IssueWf, State.beginTrap_wf, State.readyIssue_mem, perform_wf, runOps_wf]

@[simp] theorem State.afterIssue_mem (before : State) (s : State) (i : Nat) : (before.afterIssue s i).mem = s.mem := by
  unfold State.afterIssue
  grind [State.onDie_mem]

theorem State.runCycle_wf {s : State} (h : s.MemWf) (i : Nat) : (s.runCycle i).MemWf := by
  unfold State.runCycle
  grind [State.MemWf, Decision.MemWf, IssueWf, State.afterIssue_mem, State.beginTrap_wf, State.decided_wf, State.endCycle_mem,
    State.freeze_mem, State.freezeLate_wf, State.issueHeld_wf, State.onDie_mem, State.plainCycle_mem, State.readyIssue_mem,
    runOps_wf]

theorem State.drainCycle_wf {s : State} (h : s.MemWf) (i : Nat) (preempt : Bool) : (s.drainCycle i preempt).MemWf := by
  unfold State.drainCycle
  grind [State.MemWf, State.freezeLate_wf, State.onDie_mem, State.plainCycle_mem, State.settleWaits_mem]

theorem State.endingCycle_wf {s : State} (h : s.MemWf) (i : Nat) : (s.endingCycle i).MemWf := by
  unfold State.endingCycle
  grind [State.MemWf, State.freezeLate_wf, State.later_mem, State.onDie_mem, State.plainCycle_mem, State.settleWaits_mem]

theorem State.afterBoundary_wf {s : State} (h : s.MemWf) (i : Nat) : (s.afterBoundary i).MemWf := by
  unfold State.afterBoundary
  grind [State.MemWf, State.drainCycle_wf, State.plainCycle_mem, State.runCycle_wf]

theorem State.dieCycle_wf {s : State} (h : s.MemWf) (i : Nat) : (s.dieCycle i).MemWf := by
  unfold State.dieCycle
  grind [State.MemWf, State.afterBoundary_wf, State.beginTrap_wf, State.drainCycle_wf, State.endingCycle_wf,
    State.enterTrap_wf, State.halt_mem, State.interruptWaits_mem, State.onDie_mem, State.plainCycle_mem, State.runCycle_wf,
    State.setDie_mem]

@[simp] theorem State.sendLinks_mem (s : State) (i : Nat) : (s.sendLinks i).mem = s.mem := by
  unfold State.sendLinks
  grind [foldl_mem, State.again_mem]

theorem execDieCycle_wf {s : State} (h : s.MemWf) : OutcomeWf (execDieCycle s) := by
  unfold execDieCycle
  exact dieEvent_wf h (by grind [State.MemWf, State.dieCycle_wf, State.flushPushes_mem, State.sendLinks_mem])

/-! ## `Machine/MemEvents` -/

theorem execLandingDataArrival_wf {s : State} (h : s.MemWf) (die entry : Nat) (how : Arrival) :
    OutcomeWf (execLandingDataArrival die entry how s) := by
  unfold execLandingDataArrival
  exact event_wf _ h (by grind [State.MemWf, State.again_mem, State.countMiss_mem, State.fetchRemote_mem, State.l1Purge_wf,
    State.onDie_mem, State.readBytes_wf, State.readRemote_mem, State.resolveLoad_mem])

@[simp] theorem State.storeGone_mem (s : State) (i id : Nat) : (s.storeGone i id).mem = s.mem := rfl

theorem execWritePerformed_wf {s : State} (h : s.MemWf) (die : Nat) (p : StorePart) :
    OutcomeWf (execWritePerformed die p s) := by
  unfold execWritePerformed
  exact event_wf _ h (by grind [State.MemWf, State.again_mem, State.homeWriteAt_wf, State.onDie_mem, State.pendTrap_mem,
    State.resolveStore_wf, State.sendWrites_wf, State.storeGone_mem])

theorem execPatrolScrub_wf {s : State} (h : s.MemWf) (bad : List Nat) : OutcomeWf (execPatrolScrub bad s) := by
  unfold execPatrolScrub
  exact event_wf _ h (by grind [State.MemWf, foldl_wf, State.poisonLine_mem])

theorem execTlbInvalidate_wf {s : State} (h : s.MemWf) (hi : W64) : OutcomeWf (execTlbInvalidate hi s) :=
  event_wf _ h (h.of_mem (by split <;> simp))

theorem execTlbInvalidateComplete_wf {s : State} (h : s.MemWf) : OutcomeWf (execTlbInvalidateComplete s) := by
  unfold execTlbInvalidateComplete
  exact event_wf _ h (by grind [State.MemWf, foldl_wf, State.again_mem, State.onDie_mem])

@[simp] theorem State.onFmt_mem (s : State) (w : Nat) (f : Fmtw → Fmtw) : (s.onFmt w f).mem = s.mem := rfl

theorem execFmtwRetire_wf {s : State} (h : s.MemWf) (w : Nat) : OutcomeWf (execFmtwRetire w s) :=
  event_wf _ h (h.of_mem (by split <;> simp))

theorem execFmtwRetireComplete_wf {s : State} (h : s.MemWf) (w : Nat) : OutcomeWf (execFmtwRetireComplete w s) := by
  unfold execFmtwRetireComplete
  exact event_wf _ h (by grind [State.MemWf, foldl_wf, State.dropFmtLine_wf, State.onFmt_mem])

theorem execFmtwEnable_wf {s : State} (h : s.MemWf) (w : Nat) (v : W64) : OutcomeWf (execFmtwEnable w v s) := by
  unfold execFmtwEnable
  exact event_wf _ h (by grind [State.MemWf, State.later_mem, State.onFmt_mem])

theorem execFmtwEnableComplete_wf {s : State} (h : s.MemWf) (w : Nat) : OutcomeWf (execFmtwEnableComplete w s) := by
  unfold execFmtwEnableComplete
  exact event_wf _ h (by grind [State.MemWf, foldl_wf, State.dropFmtLine_wf, State.onFmt_mem])

/-! ## `Machine/Packets` -/

@[simp] theorem State.reply_mem (s : State) (i : Nat) (p : Packet) (tag : BitVec 16) (type : Byte) (payload : List Byte)
    (poison : Bool) : (s.reply i p tag type payload poison).mem = s.mem := by
  simp [State.reply]

theorem State.serve_wf {s : State} (h : s.MemWf) (i : Nat) (ch : BitVec 3) (p : Packet) (good : Bool) {f : State → State}
    (hf : ∀ t : State, t.MemWf → (f t).MemWf) : (s.serve i ch p good f).MemWf := by
  unfold State.serve
  grind [State.MemWf, State.accept_mem, State.countBad_mem]

theorem execMrd_wf {s : State} (h : s.MemWf) (die : Nat) (p : Packet) : OutcomeWf (execMrd die p s) := by
  unfold execMrd
  exact event_wf _ h (by grind [State.MemWf, State.reply_mem, State.serve_wf])

theorem execMwr_wf {s : State} (h : s.MemWf) (die : Nat) (p : Packet) : OutcomeWf (execMwr die p s) := by
  unfold execMwr
  exact event_wf _ h (by grind [State.MemWf, foldl_wf, State.homeWrite_wf, State.onDie_mem, State.poisonLine_mem,
    State.reply_mem, State.serve_wf])

theorem execMatom_wf {s : State} (h : s.MemWf) (die : Nat) (p : Packet) : OutcomeWf (execMatom die p s) := by
  unfold execMatom
  exact event_wf _ h (by grind [State.MemWf, State.countBad_mem, State.homeWrite_wf, State.reply_mem, State.serve_wf])

theorem execMsync_wf {s : State} (h : s.MemWf) (die : Nat) (p : Packet) : OutcomeWf (execMsync die p s) := by
  unfold execMsync
  exact event_wf _ h (by grind [State.MemWf, State.homeWrite_wf, State.reply_mem, State.serve_wf, State.wakeWord_mem])

theorem State.replied_wf {s : State} (h : s.MemWf) (i : Nat) (p : Packet) (good : Request → Bool) {f : Request → State → State}
    (hf : ∀ (r : Request) (t : State), t.MemWf → (f r t).MemWf) : (s.replied i p good f).MemWf := by
  unfold State.replied
  grind [State.MemWf, State.accept_mem, State.countBad_mem, State.countDup_mem, State.onDie_mem, State.sendWaiting_mem]

theorem State.fillIn_wf {s : State} (h : s.MemWf) (line : Nat) (bytes : List Byte) (poison : Bool) :
    (s.fillIn line bytes poison).MemWf := by
  unfold State.fillIn
  grind [State.MemWf, foldl_wf, State.l1Fill_mem, State.l1Room_wf, State.onDie_mem, State.poisonLine_mem]

@[simp] theorem State.loadIn_mem (s : State) (i id line : Nat) (bytes : List Byte) (poison : Bool) :
    (s.loadIn i id line bytes poison).mem = s.mem := by
  unfold State.loadIn
  grind [foldl_mem, State.onDie_mem]

@[simp] theorem State.performedFar_mem (s : State) (i n : Nat) (data : List Byte) (poison : Bool) :
    (s.performedFar i n data poison).mem = s.mem := by
  unfold State.performedFar
  grind [State.deliver_mem, State.dropCopies_mem, State.l1Refresh_mem, State.onCopyCmd_mem, State.onDie_mem]

theorem execMrdr_wf {s : State} (h : s.MemWf) (die : Nat) (p : Packet) : OutcomeWf (execMrdr die p s) := by
  unfold execMrdr
  exact event_wf _ h (by grind [State.MemWf, State.fillIn_wf, State.loadIn_mem, State.onDie_mem, State.performedFar_mem,
    State.replied_wf])

theorem execMatomr_wf {s : State} (h : s.MemWf) (die : Nat) (p : Packet) : OutcomeWf (execMatomr die p s) := by
  unfold execMatomr
  exact event_wf _ h (by grind [State.MemWf, State.performedFar_mem, State.replied_wf])

@[simp] theorem State.storeAcked_mem (s : State) (i id : Nat) : (s.storeAcked i id).mem = s.mem := by
  unfold State.storeAcked
  split <;> simp

@[simp] theorem State.spilledFar_mem (s : State) (rid node line : Nat) (poison : Bool) :
    (s.spilledFar rid node line poison).mem = s.mem := by
  unfold State.spilledFar
  split <;> simp

theorem execMwrr_wf {s : State} (h : s.MemWf) (die : Nat) (p : Packet) : OutcomeWf (execMwrr die p s) := by
  unfold execMwrr
  exact event_wf _ h (by grind [State.MemWf, State.performedFar_mem, State.replied_wf, State.spilledFar_mem,
    State.storeAcked_mem])

@[simp] theorem State.putSend_mem (s : State) (i : Nat) (e : SendEntry) : (s.putSend i e).mem = s.mem := rfl

theorem execEackSend_wf {s : State} (h : s.MemWf) (die peer cls : Nat) : OutcomeWf (execEackSend die peer cls s) := by
  unfold execEackSend
  exact event_wf _ h (by grind [State.MemWf, State.originate_mem, State.putRecv_mem])

theorem execEack_wf {s : State} (h : s.MemWf) (die : Nat) (p : Packet) : OutcomeWf (execEack die p s) := by
  unfold execEack
  exact event_wf _ h (by grind [State.MemWf, State.again_mem, State.countBad_mem, State.putSend_mem, State.unstall_mem])

@[simp] theorem State.copyUnreachable_mem (s : State) (i n : Nat) : (s.copyUnreachable i n).mem = s.mem := by
  unfold State.copyUnreachable
  grind [State.expireUnwritten_mem, State.onDie_mem]

theorem State.lose_wf {s : State} (h : s.MemWf) (i : Nat) (w : Waiter) : (s.lose i w).MemWf := by
  unfold State.lose
  grind [State.MemWf, foldl_wf, State.abort_mem, State.copyUnreachable_mem, State.onDie_mem, State.onReplay_mem,
    State.pendTrap_mem, State.resolveStore_wf, State.storeAcked_mem, State.storeGone_mem]

theorem State.unreachable_wf {s : State} (h : s.MemWf) (i : Nat) (e : SendEntry) : (s.unreachable i e).MemWf := by
  unfold State.unreachable
  grind [State.MemWf, foldl_wf, State.again_mem, State.lose_wf, State.onDie_mem, State.putSend_mem, State.sendWaiting_mem,
    State.unstall_mem]

theorem execE2eTimeout_wf {s : State} (h : s.MemWf) (die peer cls : Nat) : OutcomeWf (execE2eTimeout die peer cls s) := by
  unfold execE2eTimeout
  exact event_wf _ h (by grind [State.MemWf, foldl_wf, State.again_mem, State.forward_mem, State.putSend_mem,
    State.unreachable_wf])

theorem execSendEntryIdleFree_wf {s : State} (h : s.MemWf) (die peer cls : Nat) :
    OutcomeWf (execSendEntryIdleFree die peer cls s) := by
  unfold execSendEntryIdleFree
  exact event_wf _ h (by grind [State.MemWf, State.again_mem, State.onDie_mem, State.unstall_mem])

theorem execReceiveEntryIdleFree_wf {s : State} (h : s.MemWf) (die peer cls : Nat) :
    OutcomeWf (execReceiveEntryIdleFree die peer cls s) := by
  unfold execReceiveEntryIdleFree
  exact event_wf _ h (by grind [State.MemWf, State.again_mem, State.onDie_mem])

theorem execDrain_wf {s : State} (h : s.MemWf) (die : Nat) (ch : BitVec 3) (p : Packet) : OutcomeWf (execDrain die ch p s) := by
  unfold execDrain
  exact event_wf _ h (by grind [State.MemWf, State.countBad_mem, State.onLink_mem, State.originate_mem])

theorem execDrainack_wf {s : State} (h : s.MemWf) (die : Nat) (p : Packet) : OutcomeWf (execDrainack die p s) := by
  unfold execDrainack
  exact event_wf _ h (by grind [State.MemWf, State.countBad_mem, State.onLink_mem, State.resendHeld_mem,
    State.writeDetours_mem])

theorem execFtcSyncPeriod_wf {s : State} (h : s.MemWf) : OutcomeWf (execFtcSyncPeriod s) := by
  unfold execFtcSyncPeriod
  refine dieEvent_wf h ?_
  extract_lets i f t late t'
  have ht : t.MemWf := h.again
  have ht' : t'.MemWf := .ite ht.again ht
  refine .ite ht ?_
  split
  · exact ht'.of_mem (State.onDie_mem ..)
  · exact ht'.of_mem ((State.originate_mem ..).trans (State.onDie_mem ..))

theorem execFtcSampleTimeout_wf {s : State} (h : s.MemWf) : OutcomeWf (execFtcSampleTimeout s) := by
  unfold execFtcSampleTimeout
  exact dieEvent_wf h (by grind [State.MemWf, State.onDie_mem])

theorem execTsyncr_wf {s : State} (h : s.MemWf) (die : Nat) (p : Packet) (clean : Bool) :
    OutcomeWf (execTsyncr die p clean s) := by
  unfold execTsyncr
  exact event_wf _ h (by grind [State.MemWf, State.countBad_mem, State.onDie_mem])

/-! ## `Machine/Save` -/

theorem State.writeAreas_wf {s : State} (h : s.MemWf) (ctx va : Nat) (ws : List AreaWrite) :
    (s.writeAreas ctx va ws).MemWf id := by
  induction ws generalizing s with
  | nil => exact h
  | cons w r ih => grind [State.MemWf, State.writeAreas, State.devWrite_wf, Got.MemWf]

theorem State.loadPanels_wf {s : State} (h : s.MemWf) (ctx va : Nat) (c : Ctxt) (l : List Nat) :
    (s.loadPanels ctx va c l).MemWf Prod.fst := by
  have hrd : ∀ {s : State}, s.MemWf → ∀ ctx va n, (State.devRead s ctx va n).MemWf Prod.fst := State.devRead_wf
  delta State.loadPanels State.loadPanels._f
  -- the kernel would evaluate the read
  generalize State.devRead = rd at hrd ⊢
  as_aux_lemma =>
  induction l generalizing s c with
  | nil => exact h
  | cons n r ih =>
    have hd := hrd h ctx ((va + 0x4100000 + 0x80000 * n) % 2 ^ 72) 0x80000
    dsimp only
    split <;> simp only [*] at hd
    · exact hd
    · trivial
    · exact ih hd _

theorem State.readRows_wf {s : State} (h : s.MemWf) (ctx va : Nat) (rs : List Nat) : (s.readRows ctx va rs).MemWf Prod.fst := by
  delta State.readRows
  refine brecOn_ind (fun _ g => Got.MemWf Prod.fst g) (State.readRows._f s ctx va) ?_ rs
  intro l f ih
  unfold State.readRows._f
  -- the kernel would count the offset down
  generalize 0x100000 = o
  as_aux_lemma =>
  cases l with
  | nil => exact h
  | cons r rs =>
    have ih : f.1.MemWf Prod.fst := ih r rs rfl
    dsimp only
    split
    · exact h.of_mem (State.fetchRemote_mem ..)
    · trivial
    · split
      · split
        · trivial
        · exact h.of_mem (State.fetchRemote_mem ..)
      · split
        · next e => exact (ih.ok e :)
        · exact ih

theorem State.loadSlot_wf {s : State} (h : s.MemWf) (ctx va : Nat) (v : Saved) : (s.loadSlot ctx va v).MemWf Prod.fst := by
  unfold State.loadSlot
  dsimp only
  repeat' split
  all_goals grind [Got.MemWf, State.MemWf, State.devRead_wf, State.loadPanels_wf, State.readRows_wf]

@[simp] theorem State.loadRows_mem (s : State) (y : Nat) (rows : List RowImage) : (s.loadRows y rows).mem = s.mem := by
  unfold State.loadRows
  grind [foldl_mem, State.onDie_mem]

/-! ## `Machine/Tasks` -/

theorem State.setFused_wf {s : State} (h : s.MemWf) (y : Nat) (want : Bool) : (s.setFused y want).MemWf := by
  unfold State.setFused
  grind [State.MemWf, foldl_wf, State.l1Drop_mem, State.l1WriteBack_wf]

@[simp] theorem State.takeMode_mem (s : State) (y : Nat) : (s.takeMode y).1.mem = s.mem := by
  unfold State.takeMode
  grind [State.onDie_mem]

@[simp] theorem State.beginTask_mem (s : State) (y : Nat) : (s.beginTask y).mem = s.mem := by
  unfold State.beginTask
  grind [State.again_mem, State.l1DropWt_mem, State.onDie_mem, State.setDie_mem]

@[simp] theorem State.startTask_mem (s : State) (y : Nat) : (s.startTask y).mem = s.mem := by
  unfold State.startTask
  dsimp only
  split <;> simp

@[simp] theorem State.renewing_mem (s : State) (y lo : Nat) : (s.renewing y lo).mem = s.mem := by
  unfold State.renewing
  split <;> simp

theorem State.preloadRun_wf {s : State} (h : s.MemWf) (y : Nat) (own : Bool) (n : Nat) :
    (State.preloadRun y own n s).1.MemWf := by
  induction n generalizing s with
  | zero => exact h
  | succ n ih =>
    unfold State.preloadRun
    dsimp only
    repeat' split
    all_goals grind [State.MemWf, State.devRead_wf, State.onDie_mem, State.ringAdd_wf, Got.MemWf, State.renewing_mem,
      State.fetchRemote_mem]

theorem State.continueLoad_wf {s : State} (h : s.MemWf) (y : Nat) : (s.continueLoad y).MemWf := by
  unfold State.continueLoad
  grind [State.MemWf, State.again_mem, State.failContext_mem, State.onDie_mem, State.preloadRun_wf, State.startTask_mem]

theorem State.preloadOn_wf {s : State} (h : s.MemWf) (y : Nat) : (s.preloadOn y).MemWf := by
  unfold State.preloadOn
  grind [State.MemWf, State.again_mem, State.onDie_mem, State.preloadRun_wf]

theorem State.preloadFor_wf {s : State} (h : s.MemWf) (y : Nat) : (s.preloadFor y).MemWf := by
  unfold State.preloadFor
  grind [State.MemWf, State.onDie_mem, State.preloadOn_wf]

theorem execPreloadRenewal_wf {s : State} (h : s.MemWf) (die row : Nat) : OutcomeWf (execPreloadRenewal die row s) := by
  unfold execPreloadRenewal
  exact event_wf _ h (by grind [State.MemWf, State.again_mem, State.onDie_mem])

theorem execResidentRenewal_wf {s : State} (h : s.MemWf) (die row : Nat) : OutcomeWf (execResidentRenewal die row s) := by
  unfold execResidentRenewal
  exact event_wf _ h (by grind [State.MemWf, State.again_mem, State.onDie_mem])

theorem State.makeFull_wf {s : State} (h : s.MemWf) (y : Nat) (v : Saved) : (s.makeFull y v).MemWf id := by
  have hw : ∀ ctx va ws, (State.writeAreas s ctx va ws).MemWf id := State.writeAreas_wf h
  unfold State.makeFull
  -- the kernel would evaluate the writes
  generalize State.writeAreas = write at hw ⊢
  as_aux_lemma =>
  split
  · exact h
  · next c _ =>
    dsimp only
    split
    · next e => exact ((hw _ _ _).ok e :)
    · exact hw _ _ _

theorem State.savePanels_wf {s : State} (h : s.MemWf) (v : Saved) : (s.savePanels v).MemWf id := by
  unfold State.savePanels
  grind [State.MemWf, Got.MemWf, State.writeAreas_wf]

theorem State.evict_wf {s : State} (h : s.MemWf) (y : Nat) (banks : BitVec 16) (keep : Option Nat) :
    (s.evict y banks keep).MemWf id := by
  unfold State.evict
  refine Got.MemWf.foldl _ (fun g v hg => ?_) _ h
  split
  · next t =>
    have ht : Got.MemWf id (if v.task.banks &&& banks != 0 then t.makeFull y v else t.savePanels v) := by
      split
      · exact State.makeFull_wf hg _ _
      · exact State.savePanels_wf hg _
    split
    · exact State.MemWf.of_mem (s := t) hg (State.abort_mem ..)
    · exact ht
  · exact hg

theorem State.put_wf {s : State} (h : s.MemWf) (y : Nat) (t : Task) : (s.put y t).MemWf := by
  unfold State.put
  grind [State.MemWf, foldl_wf, State.continueLoad_wf, State.later_mem, State.onDie_mem, State.onReplay_mem, State.setFused_wf]

theorem State.give_wf {s : State} (h : s.MemWf) (ts : List (Nat × Task)) {f : State → State}
    (hf : ∀ t : State, t.MemWf → (f t).MemWf) : (s.give ts f).MemWf := by
  unfold State.give
  extract_lets room
  have hr : room.MemWf id := by
    refine Got.MemWf.foldl _ (fun g x hg => ?_) _ h
    grind [State.MemWf, Got.MemWf, State.evict_wf]
  clear_value room
  cases room with
  | wait t =>
    show State.MemWf ((ts.head?.map _).getD t)
    cases ts.head?
    · exact hr
    · exact State.MemWf.again hr
  | fault => exact h
  | ok t => exact .ite hr (foldl_wf _ (fun _ _ hs => State.put_wf hs _ _) _ _ (hf _ hr))

theorem State.startGang_wf {s : State} (h : s.MemWf) : s.startGang.MemWf := by
  unfold State.startGang
  dsimp only
  split
  · exact h
  · refine State.give_wf h _ fun t ht => ?_
    exact .foldl (fun _ _ hs => hs.of_mem (State.onDie_mem ..)) (ht.of_mem (State.onReplay_mem ..)) _

theorem execTaskDispatch_wf {s : State} (h : s.MemWf) : OutcomeWf (execTaskDispatch s) := by
  unfold execTaskDispatch
  exact dieEvent_wf h (by grind [State.MemWf, State.again_mem, State.continueLoad_wf, State.give_wf, State.listAgain_wf,
    State.openAll_wf, State.preloadFor_wf, State.startGang_wf])

theorem State.flushStores_wf {s : State} (h : s.MemWf) (y : Nat) : (s.flushStores y).MemWf := by
  unfold State.flushStores
  grind [State.MemWf, foldl_wf, State.homeWrite_wf, State.resolveStore_wf, State.sendWrites_wf]

theorem State.clearFailed_wf {s : State} (h : s.MemWf) (y : Nat) : (s.clearFailed y).MemWf := by
  unfold State.clearFailed
  grind [State.MemWf, foldl_wf, State.cancelRole_mem, State.flushStores_wf, State.onDie_mem]

@[simp] theorem State.releaseGangs_mem (s : State) : s.releaseGangs.mem = s.mem := by
  unfold State.releaseGangs
  grind [foldl_mem, State.onDie_mem]

theorem State.deadEnd_wf {s : State} (h : s.MemWf) (rid n : Nat) : (s.deadEnd rid n).MemWf := by
  unfold State.deadEnd
  grind [State.MemWf, State.kernelBoundary_wf, State.onReplay_mem]

theorem State.MemWf.settleAfter {t u : State} (h : t.MemWf) (rid : Nat) (e : u.mem = t.mem) :
    (u.releaseGangs.checkRetire rid).settle.MemWf :=
  State.settle_wf (h.of_mem (by rw [State.checkRetire_mem, State.releaseGangs_mem, e]))

theorem execTaskEnd_wf {s : State} (h : s.MemWf) : OutcomeWf (execTaskEnd s) := by
  unfold execTaskEnd
  refine dieEvent_wf h ?_
  dsimp only
  split
  · next dt cause _ _ =>
    split
    · exact h
    · refine .ite ((State.deadEnd_wf h dt.task.rid dt.task.node).settleAfter _ (by simp)) ?_
      split
      · exact h.settleAfter _ (by simp)
      · next fl _ _ =>
        refine .ite ?_ (h.settleAfter _ (by simp))
        have hc := State.completeNode_wf h dt.task.rid dt.task.node fl.node
        split
        · next e => exact State.MemWf.settleAfter (hc.ok e) _ (by simp)
        · next e => exact (hc.wait e).again
        · exact h.settleAfter _ (by simp)
    · have hf := State.clearFailed_wf h s.unit
      split
      · exact .ite (hf.settleAfter _ (by simp)) (.ite (hf.settleAfter _ (by simp)) (hf.settleAfter _ (by simp)))
      · exact hf.settleAfter _ (by simp)
  · exact h

@[simp] theorem State.preempt_mem (s : State) (y : Nat) : (s.preempt y).mem = s.mem := by
  unfold State.preempt
  dsimp only
  split <;> simp

theorem execBudgetOverrun_wf {s : State} (h : s.MemWf) : OutcomeWf (execBudgetOverrun s) := by
  unfold execBudgetOverrun
  exact dieEvent_wf h (by grind [State.MemWf, foldl_wf, State.again_mem, State.onDie_mem, State.onReplay_mem,
    State.preempt_mem, State.releaseGangs_mem])

theorem execPreemptionPoint_wf {s : State} (h : s.MemWf) : OutcomeWf (execPreemptionPoint s) := by
  unfold execPreemptionPoint
  exact dieEvent_wf h (by grind [State.MemWf, State.again_mem, State.later_mem, State.onDie_mem])

theorem State.leaveSaved_wf {s : State} (h : s.MemWf) (y : Nat) (dt : DieTask) (c : Context) : (s.leaveSaved y dt c).MemWf := by
  unfold State.leaveSaved
  grind [State.MemWf, State.abort_mem, State.again_mem, State.checkRetire_mem, State.dropSaved_mem, State.onDie_mem,
    State.onReplay_mem, State.releaseGangs_mem, State.settle_wf]

theorem execSaveComplete_wf {s : State} (h : s.MemWf) : OutcomeWf (execSaveComplete s) := by
  unfold execSaveComplete
  refine dieEvent_wf h ?_
  extract_lets y d s1 full head writes s2
  have h1 : s1.MemWf := .foldl (fun _ _ h => State.l1WriteBack_wf _ _ _ h) h _
  have h2 : s2.MemWf := h1.free _
  clear_value s2 writes head full s1
  as_aux_lemma =>
  split
  · next dt _ _ =>
    split
    · exact h
    · next c _ =>
      have hw := State.writeAreas_wf h2 dt.ctx (c.slotVa dt.slot) writes
      split
      · next e => exact (hw.wait e).again
      · exact .ite (State.leaveSaved_wf h2 _ _ _) (h2.of_mem (State.failContext_mem ..))
      · next e => exact State.leaveSaved_wf (hw.ok e) _ _ _
  · exact h

@[simp] theorem State.rouse_mem (s : State) (y : Nat) : (s.rouse y).mem = s.mem := by
  unfold State.rouse
  grind [foldl_mem, State.later_mem, State.rouseStream_mem]

theorem State.MemWf.againIf {s : State} (h : s.MemWf) {c : Prop} {_ : Decidable c} {u : Nat} {e : Instr} :
    (if c then s.again u e else s).MemWf :=
  .ite h.again h

theorem State.MemWf.againUnless {s : State} (h : s.MemWf) {c : Prop} {_ : Decidable c} {u : Nat} {e : Instr} :
    (if c then s else s.again u e).MemWf :=
  .ite h h.again

theorem State.MemWf.trapUnless {s : State} (h : s.MemWf) {c : Prop} {_ : Decidable c} {i : Nat} {t : Trap} :
    (if c then s else s.beginTrap i t).MemWf :=
  .ite h (State.beginTrap_wf h i t)

theorem State.MemWf.replayed {s : State} (h : s.MemWf) {ctx : Nat} {va : W72} {bs : List Byte} {y : Nat} {l : List LogEntry} :
    (((s.writeIf ctx va bs).replayLog y l).rouse y).MemWf :=
  (State.writeIf_wf h ctx va bs).of_mem (by rw [State.rouse_mem, State.replayLog_mem])

theorem execRestoreComplete_wf {s : State} (h : s.MemWf) : OutcomeWf (execRestoreComplete s) := by
  have hmode : ∀ s y, (State.takeMode s y).1.mem = s.mem := State.takeMode_mem
  have hload : ∀ {s : State}, s.MemWf → ∀ ctx va v, (State.loadSlot s ctx va v).MemWf Prod.fst := State.loadSlot_wf
  unfold execRestoreComplete
  refine dieEvent_wf h ?_
  -- the kernel would evaluate both
  generalize State.takeMode = mode at hmode ⊢
  generalize State.loadSlot = load at hload ⊢
  as_aux_lemma =>
  dsimp only
  split
  · exact h
  · next dt _ =>
    refine .ite ?_ ?_
    · refine h.settleAfter _ ?_
      rw [State.onDie_mem]
      split
      · exact State.dropSaved_mem ..
      · rfl
    · split
      · next v c _ _ =>
        have hm : (mode s s.unit).1.MemWf := h.of_mem (hmode ..)
        refine .ite hm.again ?_
        have hl := hload hm dt.ctx (c.slotVa dt.slot) v
        split
        · next e => exact (hl.wait e).again
        · exact hm.of_mem (State.failContext_mem ..)
        · next t img e =>
          have ht : t.MemWf := hl.ok e
          refine State.MemWf.trapUnless <| .againIf <| .again <| .againUnless <| .replayed <| ht.of_mem ?_
          rw [State.loadRows_mem, State.onDie_mem, State.l1DropWt_mem]
      · exact h

theorem execReplayTimeout_wf {s : State} (h : s.MemWf) (replay : Nat) : OutcomeWf (execReplayTimeout replay s) := by
  unfold execReplayTimeout
  exact event_wf _ h (by grind [State.MemWf, State.abort_mem, State.again_mem])

theorem execSpillDecrement_wf {s : State} (h : s.MemWf) (replay node : Nat) : OutcomeWf (execSpillDecrement replay node s) := by
  unfold execSpillDecrement
  exact event_wf _ h (by grind [State.MemWf, Got.MemWf, State.abort_mem, State.devRead_wf, State.fetchRemote_mem,
    State.homeWrite_wf, State.later_mem, State.nodeBytes_wf, State.nodeReady_wf, State.onReplay_mem, State.sendRequest_mem,
    State.settle_wf])

/-! ## `Machine/Queues` -/

@[simp] theorem State.queueNews_mem (s : State) (q : Nat) : (s.queueNews q).mem = s.mem := by
  unfold State.queueNews
  split <;> simp

theorem State.complete_wf {s : State} (h : s.MemWf) (q : Nat) (cid : BitVec 16) (flags : Byte) (status value : Nat) :
    (s.complete q cid flags status value).MemWf := by
  unfold State.complete
  grind [State.MemWf, State.homeWrite_wf, State.onQueue_mem, State.raise_mem]

@[simp] theorem State.release_mem (s : State) (q : Nat) : (s.release q).mem = s.mem := by
  simp [State.release]

theorem State.finish_wf {s : State} (h : s.MemWf) (q status value : Nat) : (s.finish q status value).MemWf := by
  unfold State.finish
  grind [State.MemWf, State.complete_wf, State.release_mem]

@[simp] theorem State.drawBytes_mem (s : State) (n : Nat) : (s.drawBytes n).2.mem = s.mem := rfl

theorem State.fails_wf {s : State} (h : s.MemWf) (q status : Nat) : (s.fails q status).MemWf :=
  State.finish_wf (h.of_mem (by simp)) ..

@[simp] theorem State.retry_mem (s : State) (q : Nat) (row : Instr) : (s.retry q row).mem = s.mem := by
  simp [State.retry]

@[simp] theorem State.block_mem (s : State) (q : Nat) : (s.block q).mem = s.mem := rfl

theorem State.takeEntry_wf {s : State} (h : s.MemWf) (q : Nat) : (s.takeEntry q).MemWf := by
  have ht (f : Queue → Queue) : (({ s with lastServed := q } : State).onQueue q f).MemWf := h
  -- the kernel would evaluate the entry: the body stands for the function before a case is taken
  obtain ⟨take, e⟩ : ∃ f, f = State.takeEntry := ⟨_, rfl⟩
  rw [← e]
  delta State.takeEntry at e
  subst e
  generalize State.entryAt = b
  as_aux_lemma =>
  dsimp only
  split
  · exact State.fails_wf (ht _) _ _
  · split
    · exact State.fails_wf (ht _) _ _
    · exact (ht _).of_mem (State.later_mem ..)

theorem State.queueSelect_wf {s : State} (h : s.MemWf) : s.queueSelect.MemWf := by
  unfold State.queueSelect
  grind [State.MemWf, foldl_wf, State.again_mem, State.takeEntry_wf]

@[simp] theorem State.beginExit_mem (s : State) : s.beginExit.mem = s.mem := by
  unfold State.beginExit
  split <;> simp

theorem execDoorbell_wf {s : State} (h : s.MemWf) (q : Nat) (v : BitVec 32) : OutcomeWf (execDoorbell q v s) := by
  unfold execDoorbell
  exact event_wf _ h (by grind [State.MemWf, State.beginExit_mem, State.onQueue_mem, State.queueNews_mem])

theorem execQctlWrite_wf {s : State} (h : s.MemWf) (q : Nat) (v : W64) : OutcomeWf (execQctlWrite q v s) := by
  unfold execQctlWrite
  exact event_wf _ h (by grind [State.MemWf, State.onQueue_mem, State.queueNews_mem])

theorem execQstatHaltedResume_wf {s : State} (h : s.MemWf) : OutcomeWf (execQstatHaltedResume s) :=
  queueEvent_wf h (h.of_mem (State.queueNews_mem ..))

theorem execSignal_wf {s : State} (h : s.MemWf) : OutcomeWf (execSignal s) := by
  unfold execSignal
  exact queueEvent_wf h (by grind [State.MemWf, Got.MemWf, State.devWrite_wf, State.finish_wf, State.retry_mem])

theorem State.syncRead_wf {s : State} (h : s.MemWf) (c : Command) : (s.syncRead c).MemWf Prod.fst := by
  unfold State.syncRead
  grind [State.MemWf, Got.MemWf, State.devRead_wf, State.dropCopies_mem]

theorem execWait_wf {s : State} (h : s.MemWf) : OutcomeWf (execWait s) := by
  unfold execWait
  exact queueEvent_wf h (by grind [State.MemWf, Got.MemWf, State.block_mem, State.dropCopies_mem, State.fails_wf,
    State.finish_wf, State.later_mem, State.onQueue_mem, State.retry_mem, State.syncRead_wf])

theorem execWaitTimeout_wf {s : State} (h : s.MemWf) : OutcomeWf (execWaitTimeout s) := by
  unfold execWaitTimeout
  exact queueEvent_wf h (by grind [State.MemWf, Got.MemWf, State.again_mem, State.fails_wf, State.finish_wf, State.syncRead_wf])

/-! ## `Machine/Launch` -/

theorem execCtxsetCreate_wf {s : State} (h : s.MemWf) : OutcomeWf (execCtxsetCreate s) := by
  unfold execCtxsetCreate
  exact queueEvent_wf h (by grind [State.MemWf, foldl_wf, State.finish_wf, State.onDie_mem])

theorem execCtxsetDestroy_wf {s : State} (h : s.MemWf) : OutcomeWf (execCtxsetDestroy s) := by
  unfold execCtxsetDestroy
  exact queueEvent_wf h (by grind [State.MemWf, foldl_wf, State.finish_wf, State.onDie_mem])

@[simp] theorem State.setGraph_mem (s : State) (g : GraphState) : (s.setGraph g).mem = s.mem := rfl

@[simp] theorem State.descFault_mem (s : State) (rid : Nat) : (s.descFault rid).mem = s.mem := by
  simp [State.descFault]

theorem State.keepGraph_wf {s : State} (h : s.MemWf) (g : GraphState) : (s.keepGraph g).MemWf := by
  unfold State.keepGraph
  grind [State.MemWf, Got.MemWf, State.devWrite_wf, State.drawBytes_mem, State.setGraph_mem]

theorem State.descRead_wf {s : State} (h : s.MemWf) (ctx va : Nat) : (s.descRead ctx va).MemWf Prod.fst := by
  unfold State.descRead
  grind [State.MemWf, Got.MemWf, State.devRead_wf]

theorem execLaunch_wf {s : State} (h : s.MemWf) : OutcomeWf (execLaunch s) := by
  unfold execLaunch
  exact queueEvent_wf h (by grind [State.MemWf, Got.MemWf, State.descRead_wf, State.fails_wf, State.later_mem, State.retry_mem])

theorem State.startCounts_wf {s : State} (h : s.MemWf) (ctx base n k : Nat) (l : List Nat) :
    (State.startCounts ctx base n k s l).MemWf Prod.fst := by
  induction n generalizing s k l with
  | zero => exact h
  | succ n ih => grind [State.MemWf, State.startCounts, State.devRead_wf, Got.MemWf]

theorem execReplayAccept_wf {s : State} (h : s.MemWf) : OutcomeWf (execReplayAccept s) := by
  unfold execReplayAccept
  refine queueEvent_wf h ?_
  split
  · exact h
  · next c _ =>
    dsimp only
    refine .ite (State.fails_wf h _ _) (.ite (State.fails_wf h _ _) ?_)
    have hd := State.descRead_wf h c.ctx.toNat (c.arg 8 8)
    split
    · next e => exact (hd.wait e).of_mem (State.retry_mem ..)
    · exact State.fails_wf h _ _
    · next t b g e =>
      have ht : t.MemWf := hd.ok e
      split
      · exact ht.of_mem (State.block_mem ..)
      · have hc := State.startCounts_wf ht c.ctx.toNat (descOf b).nodeBase (descOf b).nodes 0 []
        split
        · next e => exact (hc.wait e).of_mem (State.retry_mem ..)
        · exact State.fails_wf ht _ _
        · next u _ _ e =>
          have hu : u.MemWf := hc.ok e
          split
          · exact hu.of_mem (by rw [State.retry_mem, State.fetchRemote_mem])
          · refine State.settle_wf ?_
            grind [State.MemWf, foldl_wf, foldl_mem, State.finish_wf, State.onQueue_mem, State.descFault_mem, State.abort_mem,
              State.nodeReady_wf, State.later_mem, State.keepGraph_wf]

@[simp] theorem State.retryHeld_mem (s : State) : s.retryHeld.mem = s.mem := by
  unfold State.retryHeld
  grind [foldl_mem, State.again_mem]

theorem State.writeDone_wf {s : State} (h : s.MemWf) (r : Replay) : (s.writeDone r).MemWf id := by
  unfold State.writeDone
  grind [State.MemWf, Got.MemWf, State.fetchRemote_mem, State.homeWrite_wf, State.keepGraph_wf, State.onReplay_mem,
    State.sendWrites_wf]

theorem State.dropReplay_wf {s : State} (h : s.MemWf) (r : Replay) : (s.dropReplay r).MemWf := by
  unfold State.dropReplay
  grind [State.MemWf, State.finish_wf, State.retryHeld_mem, State.setGraph_mem, State.settle_wf]

theorem execReplayRetire_wf {s : State} (h : s.MemWf) (replay : Nat) : OutcomeWf (execReplayRetire replay s) := by
  unfold execReplayRetire
  exact event_wf _ h (by grind [State.MemWf, Got.MemWf, State.again_mem, State.descFault_mem, State.dropReplay_wf,
    State.fetchRemote_mem, State.writeDone_wf])

theorem State.patchesOf_wf {s : State} (h : s.MemWf) (ctx : Nat) (d : GraphDesc) (es : List (List Byte)) :
    (State.patchesOf ctx d es s).MemWf Prod.fst := by
  induction es generalizing s with
  | nil => exact h
  | cons p r ih => grind [State.MemWf, State.patchesOf, State.syncRead_wf, State.devRead_wf, Got.MemWf]

theorem State.applyPatch_wf {s : State} (h : s.MemWf) (d : GraphDesc) (g : GraphState) (ps : List (Nat × Nat)) :
    (s.applyPatch d g ps).MemWf Prod.fst := by
  unfold State.applyPatch
  grind [State.MemWf, Got.MemWf, State.devRead_wf, State.devWrite_wf, State.fetchRemote_mem, State.keepGraph_wf]

theorem execPatch_wf {s : State} (h : s.MemWf) : OutcomeWf (execPatch s) := by
  unfold execPatch
  refine queueEvent_wf h ?_
  split
  · exact h
  · next c _ =>
    have h1 := State.descRead_wf h c.ctx.toNat (c.arg 8 8)
    have h2 := State.devRead_wf h c.ctx.toNat (c.arg 16 8) (16 * c.arg 24 2)
    dsimp only
    repeat' split
    all_goals grind [Got.MemWf, State.MemWf, State.applyPatch_wf, State.block_mem,  State.fails_wf, State.finish_wf,
      State.patchesOf_wf, State.retry_mem]

/-! ## `Machine/HostCopy` -/

theorem execCopy_wf {s : State} (h : s.MemWf) : OutcomeWf (execCopy s) := by
  unfold execCopy
  exact queueEvent_wf h (by grind [State.MemWf, Got.MemWf, State.addCopy_mem, State.copyIsPool_wf, State.fails_wf,
    State.onQueue_mem, State.release_mem, State.retry_mem])

theorem State.hostChunk_wf {s : State} (h : s.MemWf) (c : HostCopy) : (s.hostChunk c).MemWf := by
  unfold State.hostChunk
  grind [State.MemWf, ChunkEnd.MemWf, State.fetchRemote_mem, State.homeWrite_wf, State.sendWrites_wf]

@[simp] theorem State.putCopy_mem (s : State) (c d : HostCopy) : (s.putCopy c d).mem = s.mem := rfl

@[simp] theorem State.dropCopy_mem (s : State) (c : HostCopy) : (s.dropCopy c).mem = s.mem := rfl

theorem State.endCopy_wf {s : State} (h : s.MemWf) (c : HostCopy) (cause : Option Cause) : (s.endCopy c cause).MemWf := by
  unfold State.endCopy
  dsimp only
  split
  · grind [State.MemWf, State.complete_wf, State.dropCopy_mem, State.finish_wf, State.onQueue_mem, State.queueNews_mem]
  · split
    · grind [State.MemWf, State.dropCopy_mem]
    · split
      · grind [State.MemWf, State.dropCopy_mem, State.kernelBoundary_wf, State.checkRetire_mem]
      · split
        · grind [Got.MemWf, State.MemWf, State.dropCopy_mem, State.completeNode_wf, State.settle_wf]
        · grind [State.MemWf, State.abort_mem, State.checkRetire_mem, State.dropCopy_mem, State.putCopy_mem]
        · grind [State.MemWf, State.dropCopy_mem]
  · grind [State.MemWf, State.dropCopy_mem]

theorem State.parkHost_wf {s : State} (h : s.MemWf) (c : HostCopy) (va : W72) (w : Nat) : (s.parkHost c va w).MemWf := by
  unfold State.parkHost
  grind [State.MemWf, State.putCopy_mem, State.ringAdd_wf]

theorem State.hostStep_wf {s : State} (h : s.MemWf) (pool : Bool) : (s.hostStep pool).MemWf := by
  unfold State.hostStep
  grind [State.MemWf, ChunkEnd.MemWf, State.again_mem, State.dropDead_mem, State.endCopy_wf, State.hostChunk_wf,
    State.parkHost_wf, State.putCopy_mem]

@[simp] theorem State.resumeDie_mem (s : State) (y ix : Nat) : (s.resumeDie y ix).mem = s.mem := by
  unfold State.resumeDie
  grind [State.again_mem, State.failContext_mem, State.onDie_mem, State.rouseStream_mem]

@[simp] theorem State.resumeRecord_mem (s : State) (ix : Nat) : (s.resumeRecord ix).mem = s.mem := by
  simp [State.resumeRecord, foldl_mem]

theorem execFqctlResume_wf {s : State} (h : s.MemWf) (index : BitVec 16) : OutcomeWf (execFqctlResume index s) :=
  event_wf _ h (h.of_mem (State.resumeRecord_mem ..))

/-! ## `Machine/LoadCode` -/

@[simp] theorem State.measure_mem (s : State) (type : Nat) (data digest : List Byte) :
    (s.measure type data digest).mem = s.mem := rfl

theorem State.checkSignature_wf {s : State} (h : s.MemWf) (g : Gxo) :
    (∀ t, s.checkSignature g = .ok t → t.MemWf) ∧ ∀ n t, s.checkSignature g = .error (n, t) → t.MemWf := by
  unfold State.checkSignature
  grind [State.MemWf, State.onTrust_mem]

theorem State.loadImage_wf {s : State} (h : s.MemWf) (q src wanted : Nat) (b : List Byte) :
    (s.loadImage q src wanted b).MemWf := by
  obtain ⟨hok, herr⟩ := State.checkSignature_wf h (gxoOf b)
  unfold State.loadImage
  refine .ite (State.fails_wf h _ _) ?_
  dsimp only
  split
  · next e => exact State.fails_wf (herr _ _ e) _ _
  · next t e =>
    have ht := hok t e
    grind [State.MemWf, foldl_wf, State.fails_wf, State.finish_wf, State.homeWrite_wf, State.measure_mem]

theorem execLoadco_wf {s : State} (h : s.MemWf) : OutcomeWf (execLoadco s) := by
  unfold execLoadco
  exact queueEvent_wf h (by grind [State.MemWf, State.fails_wf, State.loadImage_wf])

theorem execFreeco_wf {s : State} (h : s.MemWf) : OutcomeWf (execFreeco s) := by
  unfold execFreeco
  exact queueEvent_wf h (by grind [State.MemWf, State.finish_wf])

/-! ## `Machine/Power` -/

@[simp] theorem State.quiesce_mem (s : State) : s.quiesce.mem = s.mem := rfl

@[simp] theorem State.allDies_mem (s : State) (f : Die → Die) : (s.allDies f).mem = s.mem := by
  unfold State.allDies
  grind [foldl_mem, State.onDie_mem]

theorem State.enterPs3_wf {s : State} (h : s.MemWf) : s.enterPs3.MemWf := by
  unfold State.enterPs3 State.MemWf
  refine Memory.filter_wf ?_ _
  rw [State.onTrust_mem, State.allDies_mem, State.quiesce_mem]
  exact h

theorem execThermalTrip_wf {s : State} (h : s.MemWf) (die : Nat) (temp : BitVec 12) :
    OutcomeWf (execThermalTrip die temp s) := by
  unfold execThermalTrip
  exact event_wf _ h (by grind [State.MemWf, State.again_mem, State.enterPs3_wf, State.mgmtEvent_mem, State.onDie_mem,
    State.onTrust_mem])

theorem execSupplyEvent_wf {s : State} (h : s.MemWf) (rail : Nat) : OutcomeWf (execSupplyEvent rail s) := by
  unfold execSupplyEvent
  exact event_wf _ h (by grind [State.MemWf, State.enterPs3_wf, State.mgmtEvent_mem, State.onTrust_mem])

@[simp] theorem State.beginCold_mem (s : State) : s.beginCold.mem = s.mem := by
  simp [State.beginCold]

@[simp] theorem State.beginWarm_mem (s : State) (dbg : Nat) : (s.beginWarm dbg).mem = s.mem := by
  simp [State.beginWarm]

@[simp] theorem State.askCold_mem (s : State) : s.askCold.mem = s.mem := by
  unfold State.askCold
  split <;> simp

@[simp] theorem State.askWarm_mem (s : State) (cause : StartCause) : (s.askWarm cause).mem = s.mem := by
  unfold State.askWarm
  grind [State.beginWarm_mem, State.onTrust_mem]

theorem execPwrctlCold_wf {s : State} (h : s.MemWf) : OutcomeWf (execPwrctlCold s) :=
  event_wf _ h (h.of_mem (State.askCold_mem ..))

@[simp] theorem State.failStart_mem (s : State) (code : Nat) : (s.failStart code).mem = s.mem := by
  unfold State.failStart
  grind [State.allDies_mem, State.beginCold_mem, State.mgmtEvent_mem, State.onTrust_mem, State.quiesce_mem]

@[simp] theorem State.nextStep_mem (s : State) : s.nextStep.mem = s.mem := rfl

@[simp] theorem State.beginLog_mem (s : State) : s.beginLog.mem = s.mem := by
  unfold State.beginLog
  dsimp only
  split <;> simp

@[simp] theorem State.beginSync_mem (s : State) : s.beginSync.mem = s.mem := by
  simp [State.beginSync, foldl_mem]

@[simp] theorem State.endStart_mem (s : State) (r : StepResult) : (s.endStart r).mem = s.mem := by
  simp [State.endStart]

theorem State.startStep_wf {s : State} (h : s.MemWf) (r : StepResult) : (s.startStep r).MemWf := by
  unfold State.startStep
  grind [State.MemWf, State.beginLog_mem, State.beginSync_mem, State.endStart_mem, State.failStart_mem, State.nextStep_mem,
    State.onTrust_mem, Memory.wf, FMap.wf, FMap.filter_wf]

@[simp] theorem State.powerUnit_mem (s : State) (k : Nat) : (s.powerUnit k).mem = s.mem := by
  unfold State.powerUnit
  grind [foldl_mem, State.onDie_mem, State.train_mem]

@[simp] theorem State.powerUp_mem (s : State) : s.powerUp.mem = s.mem := by
  unfold State.powerUp
  grind [State.onTrust_mem, State.powerUnit_mem]

theorem State.enterPs2_wf {s : State} (h : s.MemWf) : s.enterPs2.MemWf := by
  unfold State.enterPs2
  grind [State.MemWf, foldl_wf, State.allDies_mem, State.announce_mem, State.kernelBoundary_wf, State.onLink_mem,
    State.onTrust_mem]

theorem State.setPs_wf {s : State} (h : s.MemWf) (n : Nat) {enter : State → State}
    (he : ∀ t : State, t.MemWf → (enter t).MemWf) : (s.setPs n enter).MemWf := by
  unfold State.setPs
  split
  · exact h
  · exact .ite (State.finish_wf h _ _ _) (he _ (State.finish_wf h _ _ _))

theorem execSetpsPs1_wf {s : State} (h : s.MemWf) : OutcomeWf (execSetpsPs1 s) := by
  unfold execSetpsPs1
  exact queueEvent_wf h (by grind [State.MemWf, State.onTrust_mem, State.setPs_wf])

theorem execSetpsPs2_wf {s : State} (h : s.MemWf) : OutcomeWf (execSetpsPs2 s) := by
  unfold execSetpsPs2
  exact queueEvent_wf h (by grind [State.MemWf, State.enterPs2_wf, State.setPs_wf])

theorem execSetpsPs3_wf {s : State} (h : s.MemWf) : OutcomeWf (execSetpsPs3 s) := by
  unfold execSetpsPs3
  exact queueEvent_wf h (by grind [State.MemWf, State.enterPs3_wf, State.setPs_wf])

theorem execPsExitComplete_wf {s : State} (h : s.MemWf) : OutcomeWf (execPsExitComplete s) := by
  unfold execPsExitComplete
  exact event_wf _ h (by grind [State.MemWf, State.again_mem, State.onTrust_mem])

theorem execRecctlGo_wf {s : State} (h : s.MemWf) (v : W64) : OutcomeWf (execRecctlGo v s) := by
  unfold execRecctlGo
  exact event_wf _ h (by grind [State.MemWf, State.beginCold_mem, State.onTrust_mem])

theorem execVector65IntervalEnd_wf {s : State} (h : s.MemWf) : OutcomeWf (execVector65IntervalEnd s) := by
  unfold execVector65IntervalEnd
  exact event_wf _ h (by grind [State.MemWf, State.again_mem, State.onTrust_mem, State.raise_mem])

/-! ## `Machine/Manage` -/

theorem execKeyreg_wf {s : State} (h : s.MemWf) : OutcomeWf (execKeyreg s) := by
  unfold execKeyreg
  exact queueEvent_wf h (by grind [State.MemWf, State.fails_wf, State.finish_wf, State.measure_mem, State.onTrust_mem])

theorem execKeylock_wf {s : State} (h : s.MemWf) : OutcomeWf (execKeylock s) := by
  unfold execKeylock
  exact queueEvent_wf h (by grind [State.MemWf, State.drawBytes_mem, State.finish_wf, State.measure_mem, State.onTrust_mem])

theorem execCodefloor_wf {s : State} (h : s.MemWf) : OutcomeWf (execCodefloor s) := by
  unfold execCodefloor
  exact queueEvent_wf h (by grind [State.MemWf, State.drawBytes_mem, State.fails_wf, State.finish_wf, State.measure_mem,
    State.onTrust_mem])

theorem execFwupdate_wf {s : State} (h : s.MemWf) : OutcomeWf (execFwupdate s) := by
  unfold execFwupdate
  exact queueEvent_wf h (by grind [State.MemWf, State.fails_wf, State.finish_wf, State.onTrust_mem])

theorem execSvncommit_wf {s : State} (h : s.MemWf) : OutcomeWf (execSvncommit s) := by
  unfold execSvncommit
  exact queueEvent_wf h (by grind [State.MemWf, State.fails_wf, State.finish_wf, State.onTrust_mem])

theorem execMgmtWarmstart_wf {s : State} (h : s.MemWf) : OutcomeWf (execMgmtWarmstart s) := by
  unfold execMgmtWarmstart
  exact queueEvent_wf h (by grind [State.MemWf, State.askWarm_mem, State.finish_wf])

theorem execMgmtColdstart_wf {s : State} (h : s.MemWf) : OutcomeWf (execMgmtColdstart s) := by
  unfold execMgmtColdstart
  exact queueEvent_wf h (by grind [State.MemWf, State.askCold_mem, State.finish_wf])

theorem execMgmtNonce_wf {s : State} (h : s.MemWf) : OutcomeWf (execMgmtNonce s) := by
  unfold execMgmtNonce
  exact queueEvent_wf h (by grind [State.MemWf, State.drawBytes_mem, State.finish_wf, State.onTrust_mem])

theorem State.withToken_wf {s : State} (h : s.MemWf) (kind : Nat) (listed : Bool) {act : State → List Byte → State}
    (ha : ∀ (t : State) b, t.MemWf → (act t b).MemWf) : (s.withToken kind listed act).MemWf := by
  have ht : (s.onTrust fun t => { t with nonce := none }).MemWf := h
  unfold State.withToken
  split
  · exact h
  · split
    · exact State.fails_wf h _ _
    · exact .ite (ha _ _ (State.finish_wf ht _ _ _)) (State.fails_wf ht _ _)

theorem execMgmtUnlock_wf {s : State} (h : s.MemWf) : OutcomeWf (execMgmtUnlock s) := by
  unfold execMgmtUnlock
  exact queueEvent_wf h (by grind [State.MemWf, State.askWarm_mem, State.onTrust_mem, State.withToken_wf])

theorem execMgmtLock_wf {s : State} (h : s.MemWf) : OutcomeWf (execMgmtLock s) := by
  unfold execMgmtLock
  exact queueEvent_wf h (by grind [State.MemWf, State.askWarm_mem, State.fails_wf, State.finish_wf, State.onTrust_mem])

theorem execMgmtFaenter_wf {s : State} (h : s.MemWf) : OutcomeWf (execMgmtFaenter s) := by
  unfold execMgmtFaenter
  exact queueEvent_wf h (by grind [State.MemWf, State.askCold_mem, State.onTrust_mem, State.withToken_wf])

theorem execAttest_wf {s : State} (h : s.MemWf) : OutcomeWf (execAttest s) := by
  unfold execAttest
  exact queueEvent_wf h (by grind [State.MemWf, State.fails_wf, State.finish_wf, State.homeWrite_wf])

/-! ## `Machine/DebugBlock` -/

@[simp] theorem State.askHalt_mem (s : State) (y reason : Nat) : (s.askHalt y reason).mem = s.mem := rfl

theorem execDebugHalt_wf {s : State} (h : s.MemWf) : OutcomeWf (execDebugHalt s) :=
  dieEvent_wf h (h.of_mem (by split <;> simp))

theorem State.unhalt_wf {s : State} (h : s.MemWf) (y : Nat) (stepping : Bool) : (s.unhalt y stepping).MemWf := by
  unfold State.unhalt
  grind [State.MemWf, State.again_mem, State.onDie_mem, State.replayLog_mem, State.writeIf_wf]

theorem execDebugResume_wf {s : State} (h : s.MemWf) : OutcomeWf (execDebugResume s) := by
  unfold execDebugResume
  exact dieEvent_wf h (by grind [State.MemWf, foldl_wf, State.unhalt_wf])

theorem execDebugStep_wf {s : State} (h : s.MemWf) : OutcomeWf (execDebugStep s) :=
  dieEvent_wf h (.ite (State.unhalt_wf h ..) h)

theorem execDbgdataAccess_wf {s : State} (h : s.MemWf) (die : Nat) (v : Option W64) :
    OutcomeWf (execDbgdataAccess die v s) := by
  unfold execDbgdataAccess
  exact event_wf _ h (by grind [State.MemWf, State.onDie_mem])

/-! ## `Machine/Registers` -/

theorem State.does_wf {s : State} (h : s.MemWf) {r : Host.Outcome State Fault Refusal} (hr : OutcomeWf r) :
    (s.does r).MemWf := by
  cases r with
  | next t => exact hr
  | fault | refused => exact h

theorem State.writeLink_wf {s : State} (h : s.MemWf) (i d r : Nat) (w : Written) : (s.writeLink i d r w).MemWf := by
  unfold State.writeLink
  grind [State.MemWf, State.does_wf, State.onLink_mem, State.wakeWaiting_mem, execDetourWrite_wf, execDigclr_wf,
    execLctlClrcnt_wf, execLctlEnable_wf, execLctlLsset_wf, execLctlRemap_wf, execLpolWrite_wf]

theorem State.writeFabric_wf {s : State} (h : s.MemWf) (i r : Nat) (w : Written) : (s.writeFabric i r w).MemWf := by
  unfold State.writeFabric
  grind [State.MemWf, State.does_wf, State.onDie_mem, execFstatClr_wf]

theorem State.writeDebug_wf {s : State} (h : s.MemWf) (i r : Nat) (w : Written) : (s.writeDebug i r w).MemWf := by
  unfold State.writeDebug
  grind [State.MemWf, State.does_wf, State.onDie_mem, execDbgdataAccess_wf, execDebugHalt_wf, execDebugResume_wf,
    execDebugStep_wf]

theorem State.writeQueue_wf {s : State} (h : s.MemWf) (q r : Nat) (w : Written) : (s.writeQueue q r w).MemWf := by
  unfold State.writeQueue
  grind [State.MemWf, State.does_wf, State.onQueue_mem, execQctlWrite_wf, execQstatHaltedResume_wf]

theorem State.writeFmtw_wf {s : State} (h : s.MemWf) (k r : Nat) (w : Written) : (s.writeFmtw k r w).MemWf := by
  unfold State.writeFmtw
  grind [State.MemWf, State.does_wf, State.onFmt_mem, execFmtwEnable_wf, execFmtwRetire_wf]

theorem State.writeHost_wf {s : State} (h : s.MemWf) (r : Nat) (w : Written) : (s.writeHost r w).MemWf := by
  unfold State.writeHost
  grind [State.MemWf, State.does_wf, State.onTrust_mem, State.ringFlush_wf, State.writeFmtw_wf, execFqctlResume_wf,
    execPwrctlCold_wf, execRecctlGo_wf, execTlbInvalidate_wf]

theorem State.writeReg_wf {s : State} (h : s.MemWf) (a : RegAt) (w : Written) : (s.writeReg a w).MemWf := by
  unfold State.writeReg
  grind [State.MemWf, State.writeDebug_wf, State.writeFabric_wf, State.writeHost_wf, State.writeLink_wf, State.writeQueue_wf]

theorem State.hostWrite_wf {s : State} (h : s.MemWf) (w : HostWrite) : (s.hostWrite w).MemWf := by
  unfold State.hostWrite
  grind [State.MemWf, foldl_wf, State.homeWrite_wf, State.onTrust_mem, State.writeReg_wf]

/-! ## `Machine/Time` -/

@[simp] theorem State.sweepAll_mem (s : State) : s.sweepAll.mem = s.mem := by
  unfold State.sweepAll
  grind [foldl_mem, State.onDie_mem]

@[simp] theorem State.wallCycle_mem (s : State) : s.wallCycle.mem = s.mem := by
  unfold State.wallCycle
  grind [foldl_mem, State.onDie_mem, State.sweepAll_mem]

@[simp] theorem State.nextTurn_mem (s : State) : s.nextTurn.mem = s.mem := by
  unfold State.nextTurn
  split <;> simp

/-! ## Dispatch and the step -/

theorem single_wf {s : State} (h : s.MemWf) (i : Instr) {r : Except Trap State} (hr : IssueWf r) : OutcomeWf (single s i r) :=
  perform_wf h _ _ hr

theorem exec_wf {s : State} (hs : s.MemWf) (i : Instr) : OutcomeWf (exec i s) := by
  have hr := runOp_wf hs i
  cases i
  case coldStart => exact event_wf _ hs (hs.of_mem (State.askCold_mem ..))
  case warmStart => exact event_wf _ hs (hs.of_mem (State.askWarm_mem ..))
  case startStepComplete => exact event_wf _ hs (State.startStep_wf hs ..)
  case supplyEvent rail => exact execSupplyEvent_wf hs rail
  case thermalTrip die temp => exact execThermalTrip_wf hs die temp
  case doorbell q v => exact execDoorbell_wf hs q v
  case qctlWrite q v => exact execQctlWrite_wf hs q v
  case registerWrite => exact event_wf _ hs (State.hostWrite_wf hs ..)
  case hostCopyComplete => exact event_wf _ hs (State.hostStep_wf hs ..)
  case fqctlResume index => exact execFqctlResume_wf hs index
  case recctlGo v => exact execRecctlGo_wf hs v
  case tlbInvalidate hi => exact execTlbInvalidate_wf hs hi
  case fmtwRetire w => exact execFmtwRetire_wf hs w
  case fmtwRetireComplete w => exact execFmtwRetireComplete_wf hs w
  case fmtwEnable w v => exact execFmtwEnable_wf hs w v
  case lctlEnable die dim en => exact execLctlEnable_wf hs die dim en
  case lctlRemap die dim => exact execLctlRemap_wf hs die dim
  case lctlClrcnt die dim => exact execLctlClrcnt_wf hs die dim
  case lctlLsset die dim ls => exact execLctlLsset_wf hs die dim ls
  case lpolWrite die dim v => exact execLpolWrite_wf hs die dim v
  case detourWrite die dim v => exact execDetourWrite_wf hs die dim v
  case digclr die dim => exact execDigclr_wf hs die dim
  case dbgdataAccess die v => exact execDbgdataAccess_wf hs die v
  case flitReceive => exact event_wf _ hs (hs.of_mem (State.flitReceive_mem ..))
  case aseqReport => exact event_wf _ hs (hs.of_mem (State.aseqReport_mem ..))
  case nak => exact event_wf _ hs (hs.of_mem (State.nak_mem ..))
  case mapprop => exact event_wf _ hs (hs.of_mem (State.mapprop_mem ..))
  case mapack => exact event_wf _ hs (hs.of_mem (State.remapAgreed_mem ..))
  case lsreq => exact event_wf _ hs (hs.of_mem (State.lsreq_mem ..))
  case lsack => exact event_wf _ hs (hs.of_mem (State.lsack_mem ..))
  case lsRequestHoldTimeout => exact event_wf _ hs (hs.of_mem (State.lsTimeout_mem ..))
  case laneFailing => exact event_wf _ hs (hs.of_mem (State.laneFailing_mem ..))
  case healthSample => exact event_wf _ hs (hs.of_mem (State.healthSample_mem ..))
  case linkTrainingComplete => exact event_wf _ hs (hs.of_mem (State.trained_mem ..))
  case remapRetrainComplete => exact event_wf _ hs (hs.of_mem (State.remapRetrainComplete_mem ..))
  case linkStateAnnouncement => exact event_wf _ hs (hs.of_mem (State.resendAll_mem ..))
  case drainResend die dim => exact execDrainResend_wf hs die dim
  case mrd die p => exact execMrd_wf hs die p
  case mwr die p => exact execMwr_wf hs die p
  case matom die p => exact execMatom_wf hs die p
  case msync die p => exact execMsync_wf hs die p
  case drain die ch p => exact execDrain_wf hs die ch p
  case drainack die p => exact execDrainack_wf hs die p
  case mrdr die p => exact execMrdr_wf hs die p
  case mwrr die p => exact execMwrr_wf hs die p
  case matomr die p => exact execMatomr_wf hs die p
  case rtok die p => exact execRtok_wf hs die p
  case push die ch p => exact execPush_wf hs die ch p
  case eack die p => exact execEack_wf hs die p
  case tsync => exact event_wf _ hs (hs.of_mem (by split <;> simp))
  case tsyncr die p clean => exact execTsyncr_wf hs die p clean
  case e2eTimeout die peer cls => exact execE2eTimeout_wf hs die peer cls
  case sendEntryIdleFree die peer cls => exact execSendEntryIdleFree_wf hs die peer cls
  case receiveEntryIdleFree die peer cls => exact execReceiveEntryIdleFree_wf hs die peer cls
  case bankClassRise => exact event_wf _ hs (hs.of_mem (State.onDie_mem ..))
  case bankClassFall => exact event_wf _ hs (hs.of_mem (State.onDie_mem ..))
  case gallerySweep => exact event_wf _ hs (hs.of_mem (State.onDie_mem ..))
  case patrolScrub bad => exact execPatrolScrub_wf hs bad
  case atriumEviction => exact event_wf _ hs (State.evictLine_wf _ _ hs)
  case landingDataArrival die entry how => exact execLandingDataArrival_wf hs die entry how
  case codeLineArrival die line => exact execCodeLineArrival_wf hs die line
  case coldPageFetchComplete => exact event_wf _ hs (.ite hs (State.endFetch_wf hs ..))
  case copyCommandComplete => exact event_wf _ hs (State.copyStep_wf hs ..)
  case exchangeComplete => exact event_wf _ hs (State.xchStep_wf hs ..)
  case tileLocksAcquired => exact event_wf _ hs (State.copyStep_wf hs ..)
  case engineFault die e => exact execEngineFault_wf hs die e
  case xwaitExpiry die stream => exact execXwaitExpiry_wf hs die stream
  case waitaTimeout die stream => exact execWaitaTimeout_wf hs die stream
  case spillDecrement replay node => exact execSpillDecrement_wf hs replay node
  case preloadRenewal die row => exact execPreloadRenewal_wf hs die row
  case replayRetire replay => exact execReplayRetire_wf hs replay
  case replayTimeout replay => exact execReplayTimeout_wf hs replay
  case residentRenewal die row => exact execResidentRenewal_wf hs die row
  case writePerformed die w => exact execWritePerformed_wf hs die w
  case flitTransmit => exact event_wf _ hs (hs.of_mem (State.flitTransmit_mem ..))
  case eackSend die peer cls => exact execEackSend_wf hs die peer cls
  case fmtwEnableComplete w => exact execFmtwEnableComplete_wf hs w
  case laserRampComplete die dim => exact execLaserRampComplete_wf hs die dim
  case cmdNop => exact queueEvent_wf hs (.ite (State.finish_wf hs ..) hs)
  case launch => exact execLaunch_wf hs
  case replayAccept => exact execReplayAccept_wf hs
  case signal => exact execSignal_wf hs
  case wait => exact execWait_wf hs
  case waitTimeout => exact execWaitTimeout_wf hs
  case loadco => exact execLoadco_wf hs
  case freeco => exact execFreeco_wf hs
  case patch => exact execPatch_wf hs
  case copy => exact execCopy_wf hs
  case attest => exact execAttest_wf hs
  case ctxsetCreate => exact execCtxsetCreate_wf hs
  case ctxsetDestroy => exact execCtxsetDestroy_wf hs
  case keyreg => exact execKeyreg_wf hs
  case keylock => exact execKeylock_wf hs
  case codefloor => exact execCodefloor_wf hs
  case fwupdate => exact execFwupdate_wf hs
  case svncommit => exact execSvncommit_wf hs
  case setpsPs1 => exact execSetpsPs1_wf hs
  case setpsPs2 => exact execSetpsPs2_wf hs
  case setpsPs3 => exact execSetpsPs3_wf hs
  case mgmtWarmstart => exact execMgmtWarmstart_wf hs
  case mgmtColdstart => exact execMgmtColdstart_wf hs
  case mgmtNonce => exact execMgmtNonce_wf hs
  case mgmtUnlock => exact execMgmtUnlock_wf hs
  case mgmtLock => exact execMgmtLock_wf hs
  case mgmtFaenter => exact execMgmtFaenter_wf hs
  case qstatHaltedResume => exact execQstatHaltedResume_wf hs
  case fstatClr => exact execFstatClr_wf hs
  case debugHalt => exact execDebugHalt_wf hs
  case debugResume => exact execDebugResume_wf hs
  case debugStep => exact execDebugStep_wf hs
  case haltCascadeNotice => exact dieEvent_wf hs (hs.of_mem (State.askHalt_mem ..))
  case ftcSyncPeriod => exact execFtcSyncPeriod_wf hs
  case ftcSampleTimeout => exact execFtcSampleTimeout_wf hs
  case matrixCommandComplete => exact execMatrixCommandComplete_wf hs
  case taskDispatch => exact execTaskDispatch_wf hs
  case taskEnd => exact execTaskEnd_wf hs
  case budgetOverrun => exact execBudgetOverrun_wf hs
  case preemptionPoint => exact execPreemptionPoint_wf hs
  case saveComplete => exact execSaveComplete_wf hs
  case restoreComplete => exact execRestoreComplete_wf hs
  case staggeredPowerUp => exact event_wf _ hs (hs.of_mem (State.powerUp_mem ..))
  case functionLevelReset => exact event_wf _ hs (hs.of_mem (State.askWarm_mem ..))
  case psExitComplete => exact execPsExitComplete_wf hs
  case queueSelect => exact event_wf _ hs (State.queueSelect_wf hs ..)
  case pwrctlCold => exact execPwrctlCold_wf hs
  case tlbInvalidateComplete => exact execTlbInvalidateComplete_wf hs
  case lightingSlot => exact event_wf _ hs (hs.of_mem (State.lightingSlot_mem ..))
  case policyWindow => exact execPolicyWindow_wf hs
  case dieCycle => exact execDieCycle_wf hs
  case startRetryAfterTrip => exact event_wf _ hs (hs.of_mem (by split <;> simp))
  case vector65IntervalEnd => exact execVector65IntervalEnd_wf hs
  all_goals exact single_wf hs _ hr

theorem exec_next (i : Instr) (s : State) : ∃ t, exec i s = .next t := by
  cases i <;> exact ⟨_, rfl⟩

theorem seen_next (f : State → State) {o : Host.Outcome State Fault Refusal} (h : ∃ t, o = .next t) :
    ∃ t, seen f o = .next t := by
  obtain ⟨t, rfl⟩ := h
  exact ⟨_, rfl⟩

theorem step_next (s : State) : ∃ t, step s = .next t := by
  unfold step
  split
  · exact seen_next _ (exec_next ..)
  · split <;> exact seen_next _ (exec_next ..)

theorem seen_wf {f : State → State} (hf : ∀ t : State, (f t).mem = t.mem) {o : Host.Outcome State Fault Refusal}
    (h : OutcomeWf o) : OutcomeWf (seen f o) := by
  cases o with
  | next t => exact State.MemWf.of_mem h ((hf _).trans t.watch_mem)
  | fault | refused => trivial

/-- The three kinds of step: an event of the tape, one of the agenda, a wall cycle of the die whose turn it is. -/
theorem step_wf {s : State} (h : s.MemWf) : OutcomeWf (step s) := by
  unfold step
  split
  · next e r _ => exact seen_wf (fun _ => rfl) (exec_wf (s := { s with tape := r, unit := e.unit }) h _)
  · split
    · next n e r _ _ => exact seen_wf (fun _ => rfl) (exec_wf (s := { s with agenda := r, round := n, unit := e.unit }) h _)
    · exact seen_wf State.nextTurn_mem (exec_wf (s := { s with unit := s.turn }) h _)

/-- Settles O57: every row answers a next state by its definition, and a step keeps the form because the row it runs does. -/
theorem everyStepKeepsMemoryCanonical : Obligations.EveryStepKeepsMemoryCanonical := by
  refine ⟨exec_next, step_next, fun s t h e => ?_⟩
  have ht : OutcomeWf (step s) := step_wf h
  rw [e] at ht
  exact ht

end Sys2Proof.Machine

/-! # Starts, power states and trips (05 R113 to R116, R121 to R124, 01 R17 to R25)

Folds over dies and links, each visited once; then what a start leaves, and the statement of what begins one. -/

namespace Sys2Proof.Machine

/-! ## Outcomes of rows -/

/-- An event that names nothing the package lacks leads to its state. -/
theorem event_next {i : Instr} (h : i.problem = none) (s t : State) : event i s t = .next t := by
  simp [event, h]

theorem queueEvent_next {s : State} (h : s.unit < 64) (t : State) : queueEvent s t = .next t := by
  simp [queueEvent, h]

/-! ## Folds that visit each element once -/

/-- A fold whose steps leave an observation alone but at `a`, over a list that visits `a` once. -/
theorem foldl_once {α β γ : Type} {g : β → α → β} {π : β → γ} {h : γ → γ} {a : α} (hs : ∀ b, π (g b a) = h (π b))
    (hk : ∀ b x, x ≠ a → π (g b x) = π b) {l : List α} (hl : l.Nodup) (ha : a ∈ l) (b : β) : π (l.foldl g b) = h (π b) := by
  obtain ⟨l₁, l₂, rfl⟩ := List.append_of_mem ha
  have keep : ∀ m : List α, a ∉ m → ∀ b, π (m.foldl g b) = π b := by
    intro m hm
    induction m with
    | nil => exact fun _ => rfl
    | cons x r ih =>
      intro b
      rw [List.foldl_cons, ih (List.not_mem_of_not_mem_cons hm), hk _ _ (List.ne_of_not_mem_cons hm).symm]
  simp only [List.nodup_append, List.nodup_cons] at hl
  obtain ⟨-, ⟨hn₂, -⟩, hdisj⟩ := hl
  have hn₁ : a ∉ l₁ := fun h₁ => hdisj a h₁ a List.mem_cons_self rfl
  rw [List.foldl_append, List.foldl_cons, keep l₂ hn₂, hs, keep l₁ hn₁]

/-! ## Every die changed -/

theorem State.die_congr {s t : State} (h : t.dies = s.dies) (i : Nat) : t.die i = s.die i := by
  simp only [State.die, h]

theorem State.die_allDies (s : State) (f : Die → Die) {i : Nat} (h : i < 16) : (s.allDies f).die i = f (s.die i) := by
  unfold State.allDies
  have hl := List.nodup_range (n := 16)
  have hi := List.mem_range.mpr h
  generalize List.range 16 = l at hl hi ⊢
  exact foldl_once (g := fun s i => s.onDie i f) (π := fun s => s.die i) (h := f) (fun s => s.die_onDie_same i f)
    (fun s _ hx => s.die_onDie_ne f hx.symm) hl hi s

/-- What no change of a die touches stays. -/
theorem State.allDies_keep {γ : Type} (π : State → γ) (f : Die → Die) (h : ∀ (s : State) i, π (s.onDie i f) = π s) (s : State) :
    π (s.allDies f) = π s := by
  unfold State.allDies
  generalize List.range 16 = l
  exact foldl_keep (fun s i => s.onDie i f) π h l s

@[simp] theorem State.allDies_trust (s : State) (f : Die → Die) : (s.allDies f).trust = s.trust :=
  State.allDies_keep State.trust f (fun _ _ => rfl) s

@[simp] theorem State.allDies_replays (s : State) (f : Die → Die) : (s.allDies f).replays = s.replays :=
  State.allDies_keep State.replays f (fun _ _ => rfl) s

@[simp] theorem State.quiesce_trust (s : State) : s.quiesce.trust = s.trust := rfl
@[simp] theorem State.quiesce_replays (s : State) : s.quiesce.replays = [] := rfl
@[simp] theorem State.quiesce_die (s : State) (i : Nat) : s.quiesce.die i = s.die i := rfl

/-! ## What a start leaves (05 R113) -/

theorem State.beginCold_trust (s : State) : s.beginCold.trust =
    { s.trust with
      ps := 0, start := 1, step := 1, cold := true, stagger := some 0, psExit := false, trip := false, recLen := 0
      recErr := false, dbgNext := none, baseTemp := [], portDark := false, v65At := s.trust.v65At.map fun _ => 0 } := by
  simp [State.beginCold]

theorem State.beginCold_replays (s : State) : s.beginCold.replays = [] := by
  simp [State.beginCold]

theorem State.beginCold_die (s : State) {i : Nat} (h : i < 16) : s.beginCold.die i = {} := by
  have hd : s.beginCold.dies = (s.quiesce.allDies fun _ => {}).dies := by simp only [State.beginCold, State.onTrust_dies]
  rw [State.die_congr hd, State.die_allDies _ _ h]

theorem State.beginWarm_trust (s : State) (dbg : Nat) : (s.beginWarm dbg).trust =
    { s.trust with
      start := 2, step := 1, cold := false, stagger := some 0, psExit := false, dbgNext := some dbg
      v65At := s.trust.v65At.map fun _ => 0 } := by
  simp [State.beginWarm]

theorem State.beginWarm_die (s : State) (dbg : Nat) {i : Nat} (h : i < 16) : (s.beginWarm dbg).die i = (s.die i).warm := by
  have hd : (s.beginWarm dbg).dies = (s.quiesce.allDies Die.warm).dies := by simp only [State.beginWarm, State.onTrust_dies]
  rw [State.die_congr hd, State.die_allDies _ _ h, State.quiesce_die]

/-- Beside the management core: memory stays, and nothing that ran is left. -/
theorem State.beginWarm_stopped (s : State) (dbg : Nat) : (s.beginWarm dbg).mem = s.mem ∧ (s.beginWarm dbg).wc = 0 ∧
    (s.beginWarm dbg).replays = [] ∧ ∀ i, i < 16 → ((s.beginWarm dbg).die i).c = {} ∧ ((s.beginWarm dbg).die i).gallery = [] ∧
      ((s.beginWarm dbg).die i).powered = false := by
  refine ⟨s.beginWarm_mem dbg, rfl, by simp [State.beginWarm], fun i hi => ?_⟩
  rw [s.beginWarm_die dbg hi]
  exact ⟨rfl, rfl, rfl⟩

/-! ## Starts asked for -/

theorem State.askCold_hot {s : State} (h : s.trust.trip ∧ s.hot) : s.askCold = s := by
  simp [State.askCold, h]

theorem State.askCold_begins {s : State} (h : s.trust.trip = false ∨ s.hot = false) : s.askCold = s.beginCold := by
  rcases h with h | h <;> simp [State.askCold, h]

theorem State.askWarm_ignored {s : State} (cause : StartCause) (h : s.trust.start ≠ 0 ∨ s.trust.ps ≠ 0) :
    s.askWarm cause = s := by
  simp only [State.askWarm, h, if_true]

section
variable {s : State} (hstart : s.trust.start = 0) (hps : s.trust.ps = 0)
include hstart hps

theorem State.askWarm_keeps_debug {cause : StartCause} (hu : cause ≠ .unlock) (hl : cause ≠ .lock) (hf : cause ≠ .flr) :
    s.askWarm cause = (s.onTrust fun t => { t with scopeNext := t.scope }).beginWarm s.trust.dbg := by
  cases cause <;> simp_all [State.askWarm]

theorem State.askWarm_flr :
    s.askWarm .flr = (s.onTrust fun t => { t with scopeNext := t.scope }).beginWarm (if s.trust.dbg = 1 then 0 else s.trust.dbg) := by
  simp [State.askWarm, hstart, hps]

theorem State.askWarm_transition {cause : StartCause} (hc : cause = .unlock ∨ cause = .lock) {x : Nat}
    (hx : s.trust.dbgNext = some x) : s.askWarm cause = s.beginWarm x := by
  rcases hc with rfl | rfl <;> simp [State.askWarm, hstart, hps, hx]

end

/-- UNLOCK and LOCK name the debug state; without one there is nothing to begin. -/
theorem State.askWarm_no_transition {s : State} {cause : StartCause} (hc : cause = .unlock ∨ cause = .lock)
    (hx : s.trust.dbgNext = none) : s.askWarm cause = s := by
  rcases hc with rfl | rfl <;> simp [State.askWarm, hx]

theorem exec_coldStart (cause : StartCause) (s : State) : exec (.coldStart cause) s = .next s.askCold :=
  event_next rfl s s.askCold

theorem exec_pwrctlCold (s : State) : exec .pwrctlCold s = .next s.askCold := event_next rfl s s.askCold

theorem exec_startRetryAfterTrip (s : State) :
    exec .startRetryAfterTrip s = .next (if s.trust.trip then s.askCold else s) := event_next rfl s _

theorem exec_warmStart (cause : StartCause) (s : State) : exec (.warmStart cause) s = .next (s.askWarm cause) :=
  event_next rfl s _

theorem exec_functionLevelReset (s : State) : exec .functionLevelReset s = .next (s.askWarm .flr) := event_next rfl s _

/-! ## Recovery (05 R116) -/

/-- The image the host has put in the buffer, of the length it gives. -/
def State.sentImage (s : State) (len : BitVec 26) : List Byte :=
  (List.range len.toNat).map fun k => s.trust.recImage.get 0 k

theorem Trust.mem_addEntry (t : Trust) (e : CacheEntry) : e ∈ (t.addEntry e).cache := by
  simp only [Trust.addEntry]
  generalize t.cache.filter _ = l
  rw [List.drop_append_of_le_length (by simp)]
  simp

/-- RECCTL is written before GO is looked at: LEN, and ERR, which a one clears. -/
def State.writeRecctl (s : State) (v : W64) : State :=
  s.onTrust fun t => { t with recLen := v.extractLsb' 0 26, recErr := t.recErr && !v.getLsbD 30 }

/-- Recovery takes an image, and the start begins with it. -/
def State.takeImage (s : State) (image : List Byte) : State :=
  (s.onTrust fun t =>
    { t with flash := image, failcnt := 0, cache := t.cache.filter fun e => !e.firmware }.addEntry
      { firmware := true, hash := Config.shake256 image, svn := Config.firmwareSvn image, key := Config.fuse 1 }).beginCold

section
variable (v : W64) {s : State}

theorem exec_recctlGo_no_go (h : v.getLsbD 31 = false ∨ s.trust.start ≠ 3) :
    exec (.recctlGo v) s = .next (s.writeRecctl v) := by
  have hc : (!v.getLsbD 31) = true ∨ s.trust.start ≠ 3 := h.imp_left fun h => by rw [h]; rfl
  exact (event_next rfl s _).trans (congrArg _ (if_pos hc))

variable (hgo : v.getLsbD 31 = true) (hrec : s.trust.start = 3)
include hgo hrec

/-- GO in recovery looks at the image. -/
theorem exec_recctlGo_go : exec (.recctlGo v) s = .next (
    let image := s.sentImage (v.extractLsb' 0 26)
    if 2 ^ 25 < (v.extractLsb' 0 26).toNat ∨ !Config.firmwareSigned image ∨ Config.firmwareSvn image < s.trust.fuseSvn then
      (s.writeRecctl v).onTrust fun t => { t with recErr := true }
    else (s.writeRecctl v).takeImage image) := by
  have hc : ¬ ((!v.getLsbD 31) = true ∨ s.trust.start ≠ 3) := by simp [hgo, hrec]
  exact (event_next rfl s _).trans (congrArg _ (if_neg hc))

theorem exec_recctlGo_refused (h : 2 ^ 25 < (v.extractLsb' 0 26).toNat ∨
      Config.firmwareSigned (s.sentImage (v.extractLsb' 0 26)) = false ∨
      Config.firmwareSvn (s.sentImage (v.extractLsb' 0 26)) < s.trust.fuseSvn) :
    exec (.recctlGo v) s = .next { s with trust := { s.trust with recLen := v.extractLsb' 0 26, recErr := true } } := by
  rw [exec_recctlGo_go v hgo hrec]
  exact congrArg _ (if_pos (h.imp_right (Or.imp_left fun h => by rw [h]; rfl)))

theorem exec_recctlGo_taken (hlen : (v.extractLsb' 0 26).toNat ≤ 2 ^ 25)
    (hsig : Config.firmwareSigned (s.sentImage (v.extractLsb' 0 26)) = true)
    (hsvn : s.trust.fuseSvn ≤ Config.firmwareSvn (s.sentImage (v.extractLsb' 0 26))) :
    exec (.recctlGo v) s = .next ((s.writeRecctl v).takeImage (s.sentImage (v.extractLsb' 0 26))) := by
  rw [exec_recctlGo_go v hgo hrec]
  refine congrArg _ (if_neg ?_)
  rintro (h | h | h)
  · exact absurd h (Nat.not_lt.mpr hlen)
  · exact absurd h (by rw [hsig]; decide)
  · exact absurd h (Nat.not_lt.mpr hsvn)

end

theorem State.takeImage_begins (s : State) (image : List Byte) :
    (s.takeImage image).trust.start = 1 ∧ (s.takeImage image).trust.step = 1 ∧ (s.takeImage image).trust.cold ∧
      (s.takeImage image).trust.flash = image ∧ (s.takeImage image).trust.failcnt = 0 ∧ (s.takeImage image).mem = s.mem ∧
      ∃ e ∈ (s.takeImage image).trust.cache, e.firmware ∧ e.hash = Config.shake256 image := by
  unfold State.takeImage
  rw [State.beginCold_trust, State.beginCold_mem]
  exact ⟨rfl, rfl, rfl, rfl, rfl, rfl, _, Trust.mem_addEntry _ _, rfl, rfl⟩

/-! ## O45 -/

/-- Settles O45: each row asks for its start by one of `askCold`, `askWarm` and `takeImage`, whose cases are the statement's. -/
theorem startsBegin : Obligations.StartsBegin := by
  unfold Obligations.StartsBegin
  refine ⟨fun i s hi => ?_, fun s h => by simp [exec_startRetryAfterTrip, h], fun cause s => ?_, fun i s hi => ?_, fun v s => ?_⟩
  · have he : exec i s = .next s.askCold := by
      rcases hi with ⟨cause, rfl⟩ | rfl | ⟨rfl, ht⟩
      · exact exec_coldStart cause s
      · exact exec_pwrctlCold s
      · rw [exec_startRetryAfterTrip, if_pos ht]
    refine ⟨fun h => by rw [he, State.askCold_hot h], fun h => ⟨s.beginCold, by rw [he, State.askCold_begins h], ?_⟩⟩
    exact ⟨s.beginCold_trust, s.beginCold_mem, rfl, rfl, rfl, rfl, rfl, s.beginCold_replays, rfl, fun _ => s.beginCold_die⟩
  · rw [exec_warmStart]
    refine ⟨fun h => by rw [State.askWarm_ignored cause h], fun h0 h1 hu hl hf => ?_, fun hc hx => ?_, fun x h0 h1 hc hx => ?_⟩
    · exact ⟨_, congrArg _ (State.askWarm_keeps_debug h0 h1 hu hl hf), State.beginWarm_trust _ _, State.beginWarm_stopped _ _⟩
    · rw [State.askWarm_no_transition hc hx]
    · exact ⟨_, congrArg _ (State.askWarm_transition h0 h1 hc hx), State.beginWarm_trust _ _, State.beginWarm_stopped _ _⟩
  · have he : exec i s = .next (s.askWarm .flr) := by
      rcases hi with rfl | rfl
      · exact exec_functionLevelReset s
      · exact exec_warmStart .flr s
    rw [he]
    refine ⟨fun h => by rw [State.askWarm_ignored .flr h], fun h0 h1 => ?_⟩
    exact ⟨_, congrArg _ (State.askWarm_flr h0 h1), State.beginWarm_trust _ _, State.beginWarm_stopped _ _⟩
  · intro image err
    refine ⟨exec_recctlGo_no_go v, fun hgo hrec => ⟨exec_recctlGo_refused v hgo hrec, fun hlen hsig hsvn => ?_⟩⟩
    exact ⟨_, exec_recctlGo_taken v hgo hrec hlen hsig hsvn, State.takeImage_begins _ _⟩

end Sys2Proof.Machine

/-! # What traffic leaves alone

Packets, link-control flits and write-backs change neither the management core nor whether a link is enabled and in which
state it is. One lemma `_service` for each function a kernel boundary or a completion reaches, in the order of the model. -/

namespace Sys2Proof.Machine

/-- The management core, and of each link its state and ENABLE. -/
def State.service (s : State) : Trust × (Nat → Nat → LinkState × Bool) :=
  (s.trust, fun i d => ((s.link i d).state, (s.link i d).enable))

theorem State.service_trust {s t : State} (h : t.service = s.service) : t.trust = s.trust := congrArg Prod.fst h

theorem State.service_link {s t : State} (h : t.service = s.service) (i d : Nat) :
    (t.link i d).state = (s.link i d).state ∧ (t.link i d).enable = (s.link i d).enable :=
  Prod.mk.inj (congrFun (congrFun (congrArg Prod.snd h) i) d)

theorem State.service_of_links {s t : State} (ht : t.trust = s.trust) (h : ∀ i d, t.link i d = s.link i d) :
    t.service = s.service := by
  simp only [State.service, ht, h]

theorem State.service_of_dies {s t : State} (ht : t.trust = s.trust) (hd : t.dies = s.dies) : t.service = s.service :=
  State.service_of_links ht fun i d => by simp only [State.link, State.die_congr hd]

/-! ## Links of a die -/

theorem Die.link_onLink_same (n : Die) (d : Nat) (f : Link → Link) : (n.onLink d f).link d = f (n.link d) := by
  simp [Die.link, Die.onLink]

theorem Die.link_onLink_ne (n : Die) {d e : Nat} (f : Link → Link) (h : e ≠ d) : (n.onLink d f).link e = n.link e := by
  simp [Die.link, Die.onLink, FMap.get_set_ne _ _ _ h]

theorem State.link_onLink_same (s : State) (i d : Nat) (f : Link → Link) : (s.onLink i d f).link i d = f (s.link i d) := by
  simp [State.link, State.onLink, Die.link_onLink_same]

theorem State.link_onLink_dim_ne (s : State) (i : Nat) {d e : Nat} (f : Link → Link) (h : e ≠ d) :
    (s.onLink i d f).link i e = s.link i e := by
  simp [State.link, State.onLink, Die.link_onLink_ne _ f h]

theorem State.link_onLink_die_ne (s : State) {i j : Nat} (d e : Nat) (f : Link → Link) (h : j ≠ i) :
    (s.onLink i d f).link j e = s.link j e := by
  simp only [State.link, State.onLink, State.die_onDie_ne s _ h]

/-- A change of a link leaves the rest of every die alone. -/
theorem State.onLink_die_keep {γ : Type} (π : Die → γ) (hπ : ∀ (n : Die) ls, π { n with links := ls } = π n) (s : State)
    (i j d : Nat) (f : Link → Link) : π ((s.onLink i d f).die j) = π (s.die j) := by
  by_cases h : j = i
  · subst h
    rw [State.onLink, State.die_onDie_same]
    exact hπ _ _
  · rw [State.onLink, State.die_onDie_ne s _ h]

theorem FMap.get?_map {α β : Type} (m : FMap α) (f : α → β) (i : Nat) :
    FMap.get? (m.map fun x => (x.1, f x.2)) i = (FMap.get? m i).map f := by
  induction m with
  | nil => rfl
  | cons x r ih =>
    obtain ⟨k, w⟩ := x
    by_cases h : k = i <;> simp [FMap.get?, h, ih]

/-! ## Changes that no link's service sees -/

theorem State.onLink_service (s : State) (i d : Nat) {f : Link → Link}
    (h : ∀ l, (f l).state = l.state ∧ (f l).enable = l.enable) : (s.onLink i d f).service = s.service := by
  refine Prod.ext rfl (funext fun j => funext fun e => ?_)
  change ((_ : Link).state, (_ : Link).enable) = _
  by_cases hj : j = i
  · subst hj
    by_cases he : e = d
    · subst he
      rw [State.link_onLink_same, (h _).1, (h _).2]
      rfl
    · rw [State.link_onLink_dim_ne s j f he]
      rfl
  · rw [State.link_onLink_die_ne s d e f hj]
    rfl

theorem State.onDie_service (s : State) (i : Nat) {f : Die → Die} (h : ∀ n, (f n).links = n.links) :
    (s.onDie i f).service = s.service := by
  refine State.service_of_links rfl fun j d => ?_
  by_cases hj : j = i
  · subst hj
    simp only [State.link, State.die_onDie_same, Die.link, h]
  · simp only [State.link, State.die_onDie_ne s f hj]

/-- Every listed die changed, but no link. -/
theorem State.mapDies_service (s : State) {f : Die → Die} (h : ∀ n, (f n).links = n.links) :
    ({ s with dies := s.dies.map fun x => (x.1, f x.2) } : State).service = s.service := by
  refine State.service_of_links rfl fun i d => ?_
  simp only [State.link, State.die, FMap.get, FMap.get?_map]
  cases FMap.get? s.dies i <;> simp [Die.link, h]

theorem foldl_service {α : Type} (g : State → α → State) (h : ∀ s a, (g s a).service = s.service) (l : List α) (s : State) :
    (l.foldl g s).service = s.service :=
  foldl_keep g State.service h l s

@[simp] theorem State.later_service (s : State) (u : Nat) (e : Instr) : (s.later u e).service = s.service := rfl

@[simp] theorem State.again_service (s : State) (u : Nat) (e : Instr) : (s.again u e).service = s.service := by
  unfold State.again
  split <;> rfl

/-! ## Packets on links -/

@[simp] theorem State.digest_service (s : State) (i peer cls : Nat) (tx : Bool) (p : List Byte) :
    (s.digest i peer cls tx p).service = s.service := by
  unfold State.digest
  split
  · rfl
  · exact s.onLink_service _ _ fun l => by cases tx <;> exact ⟨rfl, rfl⟩

@[simp] theorem State.requestLs_service (s : State) (i d ls : Nat) : (s.requestLs i d ls).service = s.service := by
  unfold State.requestLs
  dsimp only
  rw [State.again_service]
  split <;> exact s.onLink_service _ _ fun _ => ⟨rfl, rfl⟩

@[simp] theorem State.wakeFull_service (s : State) (i d : Nat) : (s.wakeFull i d).service = s.service := by
  unfold State.wakeFull
  dsimp only
  split <;> simp

@[simp] theorem State.enqueueOn_service (s : State) (i d : Nat) (o : OutPkt) : (s.enqueueOn i d o).service = s.service := by
  rw [State.enqueueOn, State.wakeFull_service]
  exact s.onLink_service _ _ fun _ => ⟨rfl, rfl⟩

@[simp] theorem State.detourDrop_service (s : State) (i : Nat) : (s.detourDrop i).service = s.service :=
  s.onDie_service _ fun _ => rfl

@[simp] theorem State.spoil_service (s : State) (i d : Nat) : (s.spoil i d).service = s.service :=
  s.onDie_service _ fun _ => rfl

@[simp] theorem State.spoilTimed_service (s : State) (i d : Nat) (type : Byte) :
    (s.spoilTimed i d type).service = s.service := by
  unfold State.spoilTimed
  grind [State.spoil_service]

@[simp] theorem State.place_service (s : State) (i d : Nat) (o : OutPkt) : (s.place i d o).service = s.service := by
  have send (l : List OutPkt) (e : Nat) (f : OutPkt → OutPkt) (s : State) :
      (l.foldl (fun s o => s.enqueueOn i e (f o)) s).service = s.service :=
    foldl_service _ (fun s o => State.enqueueOn_service s i e (f o)) l s
  have keeps (s : State) {f : Link → Link} (h : ∀ l, (f l).state = l.state ∧ (f l).enable = l.enable) :
      (s.onLink i d f).service = s.service := s.onLink_service i d h
  unfold State.place
  dsimp only
  split
  · exact keeps _ fun _ => ⟨rfl, rfl⟩
  · split
    · exact (send _ _ id _).trans (keeps _ fun _ => ⟨rfl, rfl⟩)
    · split
      · exact s.detourDrop_service i
      · split
        · refine (send _ _ (intoDetour _ d) _).trans ((keeps _ ?_).trans (State.spoilTimed_service s i d o.pkt.type))
          exact fun _ => ⟨rfl, rfl⟩
        · exact keeps _ fun _ => ⟨rfl, rfl⟩

@[simp] theorem State.detourQueue_service (s : State) (i d : Nat) : (s.detourQueue i d).service = s.service :=
  (foldl_service _ (fun s o => State.place_service s i d o) _ _).trans (s.onLink_service _ _ fun _ => ⟨rfl, rfl⟩)

@[simp] theorem State.wakeOff_service (s : State) (i d ls : Nat) : (s.wakeOff i d ls).service = s.service := by
  unfold State.wakeOff
  split <;> simp

@[simp] theorem State.needed_service (s : State) (i d : Nat) : (s.needed i d).service = s.service := by
  unfold State.needed
  dsimp only
  split <;> simp

@[simp] theorem State.placeOn_service (s : State) (i d : Nat) (o : OutPkt) : (s.placeOn i d o).service = s.service := by
  rw [State.placeOn, State.place_service, State.needed_service]

@[simp] theorem State.forward_service (s : State) (i : Nat) (o : OutPkt) : (s.forward i o).service = s.service := by
  unfold State.forward
  grind [State.detourDrop_service, State.enqueueOn_service, State.needed_service, State.placeOn_service]

@[simp] theorem State.originate_service (s : State) (i : Nat) (ch : BitVec 3) (p : Packet) :
    (s.originate i ch p).service = s.service := by
  have fab (f : Fabric → Fabric) : (s.onDie i fun n => n.onFab f).service = s.service := s.onDie_service i fun _ => rfl
  unfold State.originate
  dsimp only
  split
  · exact s.forward_service _ _
  · split
    · exact fab _
    · rw [State.again_service, State.forward_service, State.digest_service]
      exact fab _

@[simp] theorem State.sendRequest_service (s : State) (i pa : Nat) (w : Waiter) (type : Byte) (p : List Byte)
    (rid : Option Nat) (poison : Bool) : (s.sendRequest i pa w type p rid poison).service = s.service := by
  have fab (f : Fabric → Fabric) : (s.onDie i fun n => n.onFab f).service = s.service := s.onDie_service i fun _ => rfl
  unfold State.sendRequest
  dsimp only
  split
  · exact fab _
  · exact (State.originate_service ..).trans (fab _)

/-! ## Writes at the homes -/

/-- A byte is written into the copy of a remote line, a window's line, the pool or the stored bytes. -/
theorem State.homeByteWrite_spec (s : State) (pa : Nat) (b : Byte) :
    ∃ remote fmtLines pool mem, s.homeByteWrite pa b = { s with remote, fmtLines, pool, mem } := by
  unfold State.homeByteWrite
  split
  · split <;> exact ⟨_, _, _, _, rfl⟩
  · split
    · exact ⟨_, _, _, _, rfl⟩
    · split <;> exact ⟨_, _, _, _, rfl⟩

@[simp] theorem State.homeWrite_dies (s : State) (ws : List (Nat × Byte)) : (s.homeWrite ws).dies = s.dies := by
  unfold State.homeWrite
  refine foldl_keep (fun s (w : Nat × Byte) => s.homeByteWrite w.1 w.2) State.dies (fun s w => ?_) ws s
  obtain ⟨_, _, _, _, e⟩ := s.homeByteWrite_spec w.1 w.2
  rw [e]

@[simp] theorem State.homeWrite_trust (s : State) (ws : List (Nat × Byte)) : (s.homeWrite ws).trust = s.trust := by
  unfold State.homeWrite
  refine foldl_keep (fun s (w : Nat × Byte) => s.homeByteWrite w.1 w.2) State.trust (fun s w => ?_) ws s
  obtain ⟨_, _, _, _, e⟩ := s.homeByteWrite_spec w.1 w.2
  rw [e]

@[simp] theorem State.homeWrite_service (s : State) (ws : List (Nat × Byte)) : (s.homeWrite ws).service = s.service :=
  State.service_of_dies (s.homeWrite_trust ws) (s.homeWrite_dies ws)

@[simp] theorem State.sendWrites_service (s : State) (i : Nat) (w : Waiter) (ws : List (Nat × Byte)) (flags group : Nat)
    (bad : Nat → Bool) : (s.sendWrites i w ws flags group bad).service = s.service := by
  unfold State.sendWrites
  dsimp only
  have void := (s.homeWrite ws).mapDies_service (f := fun n => n.voidFills (distinct (ws.map fun x => lineOf x.1)).contains)
    fun _ => rfl
  exact (foldl_service _ (fun s l => by rw [State.sendRequest_service]) _ _).trans (void.trans (s.homeWrite_service ws))

@[simp] theorem State.l1WriteBack_service (s : State) (d : Nat) (p : Nat → Bool) : (s.l1WriteBack d p).service = s.service := by
  unfold State.l1WriteBack
  dsimp only
  refine (State.onDie_service _ _ ?_).trans ?_
  · exact fun _ => rfl
  · split <;> simp

@[simp] theorem State.l1Drop_service (s : State) (d : Nat) (p : Nat → L1Byte → Bool) : (s.l1Drop d p).service = s.service :=
  s.onDie_service _ fun _ => rfl

@[simp] theorem State.kernelBoundary_service (s : State) : s.kernelBoundary.service = s.service := by
  unfold State.kernelBoundary
  generalize List.range 16 = l
  exact foldl_service _ (fun s d => by rw [State.l1Drop_service, State.l1WriteBack_service]) l s

/-! ## Completions -/

@[simp] theorem State.again_dies (s : State) (u : Nat) (e : Instr) : (s.again u e).dies = s.dies := by
  unfold State.again
  split <;> rfl

@[simp] theorem State.again_trust (s : State) (u : Nat) (e : Instr) : (s.again u e).trust = s.trust := by
  unfold State.again
  split <;> rfl

@[simp] theorem State.queueNews_dies (s : State) (q : Nat) : (s.queueNews q).dies = s.dies := by
  unfold State.queueNews
  split <;> simp

@[simp] theorem State.queueNews_trust (s : State) (q : Nat) : (s.queueNews q).trust = s.trust := by
  unfold State.queueNews
  split <;> simp

@[simp] theorem State.complete_dies (s : State) (q : Nat) (cid : BitVec 16) (flags : Byte) (status value : Nat) :
    (s.complete q cid flags status value).dies = s.dies := by
  unfold State.complete
  dsimp only
  split <;> simp

@[simp] theorem State.complete_trust (s : State) (q : Nat) (cid : BitVec 16) (flags : Byte) (status value : Nat) :
    (s.complete q cid flags status value).trust = s.trust := by
  unfold State.complete
  dsimp only
  split <;> simp

@[simp] theorem State.finish_dies (s : State) (q status value : Nat) : (s.finish q status value).dies = s.dies := by
  unfold State.finish
  split <;> simp [State.release]

@[simp] theorem State.finish_trust (s : State) (q status value : Nat) : (s.finish q status value).trust = s.trust := by
  unfold State.finish
  split <;> simp [State.release]

end Sys2Proof.Machine

/-! # Power states, trips and staggered power-up (05 R121 to R124, 01 R17 to R25, 04 R83) -/

namespace Sys2Proof.Machine

/-! ## Events of the machine's own, and management events -/

theorem State.again_package (s : State) (u : Nat) (e : Instr) : s.again u e = { s with agenda := (s.again u e).agenda } := by
  unfold State.again
  split <;> rfl

theorem State.mem_again (s : State) (u : Nat) (e : Instr) : { unit := u, instr := e } ∈ (s.again u e).agenda := by
  unfold State.again
  split
  · next h => simpa using h
  · simp [State.later]

/-- A management event changes vector 65 and its interval alone. -/
theorem State.mgmtEvent_spec (s : State) : ∃ msix agenda v65At v65Pending,
    s.mgmtEvent = { s with msix, agenda, trust := { s.trust with v65At, v65Pending } } := by
  unfold State.mgmtEvent
  split
  · exact ⟨_, _, _, _, rfl⟩
  · split <;> exact ⟨_, _, _, _, rfl⟩

theorem State.raise_counts (s : State) (v : Nat) : (s.raise v).msix.get 0 v = s.msix.get 0 v + 1 := by
  simp

theorem State.mgmtEvent_dark {s : State} (h : s.trust.portDark) : s.mgmtEvent = s := if_pos h

theorem State.mgmtEvent_pending {s : State} (h : s.trust.portDark = false) (hv : s.trust.v65At.isSome) :
    s.mgmtEvent = s.onTrust fun t => { t with v65Pending := true } := by
  obtain ⟨a, ha⟩ := Option.isSome_iff_exists.mp hv
  simp [State.mgmtEvent, h, ha]

theorem State.mgmtEvent_raised {s : State} (h : s.trust.portDark = false) (hv : s.trust.v65At = none) :
    s.mgmtEvent = ((s.raise 65).onTrust fun t => { t with v65At := some s.wc }).later 0 .vector65IntervalEnd := by
  simp [State.mgmtEvent, h, hv]

section
variable {s : State}

theorem exec_vector65IntervalEnd_closed (h : s.trust.v65At = none) : exec .vector65IntervalEnd s = .next s := by
  refine (event_next rfl s _).trans ?_
  simp only [h]

variable {at_ : Nat} (h : s.trust.v65At = some at_)
include h

theorem exec_vector65IntervalEnd_early (hw : s.wc < at_ + 20000) :
    exec .vector65IntervalEnd s = .next (s.again 0 .vector65IntervalEnd) := by
  refine (event_next rfl s _).trans ?_
  simp only [h, if_pos hw]

variable (hw : at_ + 20000 ≤ s.wc)
include hw

theorem exec_vector65IntervalEnd_idle (hp : s.trust.v65Pending = false ∨ s.trust.portDark) :
    exec .vector65IntervalEnd s = .next { s with trust := { s.trust with v65At := none, v65Pending := false } } := by
  refine (event_next rfl s _).trans ?_
  have hc : ¬ (s.trust.v65Pending && !s.trust.portDark) = true := by rcases hp with hp | hp <;> simp [hp]
  simp only [h, if_neg (Nat.not_lt.mpr hw), if_neg hc]
  rfl

theorem exec_vector65IntervalEnd_raised (hp : s.trust.v65Pending) (hd : s.trust.portDark = false) :
    exec .vector65IntervalEnd s = .next
      (((s.raise 65).onTrust fun t => { t with v65At := some s.wc, v65Pending := false }).again 0 .vector65IntervalEnd) := by
  refine (event_next rfl s _).trans ?_
  have hc : (s.trust.v65Pending && !s.trust.portDark) = true := by simp [hp, hd]
  simp only [h, if_neg (Nat.not_lt.mpr hw), if_pos hc]

end

/-! ## PS3 -/

theorem State.enterPs3_trust (s : State) : s.enterPs3.trust =
    { s.trust with ps := 3, start := 4, step := 0, stagger := none, psExit := false } := by
  simp [State.enterPs3]

theorem State.enterPs3_mem (s : State) : s.enterPs3.mem = s.mem.filter fun c => decide (2 * 2 ^ 52 ≤ c.1) := by
  simp only [State.enterPs3, State.onTrust_mem, State.allDies_mem, State.quiesce_mem]

theorem State.enterPs3_pool (s : State) : s.enterPs3.pool = [] := by
  simp only [State.enterPs3]

theorem State.enterPs3_replays (s : State) : s.enterPs3.replays = [] := by
  simp [State.enterPs3]

theorem State.enterPs3_die (s : State) {i : Nat} (h : i < 16) : s.enterPs3.die i = (s.die i).dark := by
  have hd : s.enterPs3.dies = (s.quiesce.allDies Die.dark).dies := by simp only [State.enterPs3, State.onTrust_dies]
  rw [State.die_congr hd, State.die_allDies _ _ h, State.quiesce_die]

/-- Power is removed and the host is told: beside vector 65 this is PS3. -/
theorem State.enterPs3_mgmtEvent (s : State) : ∃ v65At v65Pending,
    s.enterPs3.mgmtEvent.trust =
      { s.trust with ps := 3, start := 4, step := 0, stagger := none, psExit := false, v65At, v65Pending } ∧
    s.enterPs3.mgmtEvent.replays = [] ∧ s.enterPs3.mgmtEvent.mem = (s.mem.filter fun c => decide (2 * 2 ^ 52 ≤ c.1)) ∧
    s.enterPs3.mgmtEvent.pool = [] ∧
    ∀ i, i < 16 → (s.enterPs3.mgmtEvent.die i).powered = false ∧ (s.enterPs3.mgmtEvent.die i).c = {} := by
  obtain ⟨_, _, a, p, e⟩ := s.enterPs3.mgmtEvent_spec
  have hd : s.enterPs3.mgmtEvent.dies = s.enterPs3.dies := by rw [e]
  refine ⟨a, p, ?_, ?_, ?_, ?_, fun i hi => ?_⟩
  · rw [e, State.enterPs3_trust]
  · rw [e, State.enterPs3_replays]
  · rw [e, State.enterPs3_mem]
  · rw [e, State.enterPs3_pool]
  · rw [State.die_congr hd, State.enterPs3_die s hi]
    exact ⟨rfl, rfl⟩

/-! ## Trips and supply events -/

/-- A unit's junction temperature is read. -/
def State.sense (s : State) (die : Nat) (temp : BitVec 12) : State :=
  if die < 16 then s.onDie die fun d => { d with temp } else s.onTrust fun t => { t with baseTemp := t.baseTemp.set die temp }

theorem State.sense_trust (s : State) (die : Nat) (temp : BitVec 12) :
    (s.sense die temp).trust = { s.trust with baseTemp := (s.sense die temp).trust.baseTemp } := by
  unfold State.sense
  split <;> rfl

theorem State.sense_mem (s : State) (die : Nat) (temp : BitVec 12) : (s.sense die temp).mem = s.mem := by
  unfold State.sense
  split <;> rfl

theorem State.sense_junction_same (s : State) (die : Nat) (temp : BitVec 12) :
    (s.sense die temp).junction die = temp.toInt := by
  by_cases h : die < 16 <;> simp [State.sense, State.junction, h]

theorem State.sense_junction_ne (s : State) {die u : Nat} (temp : BitVec 12) (h : u ≠ die) :
    (s.sense die temp).junction u = s.junction u := by
  by_cases hd : die < 16
  · rw [State.sense, if_pos hd, State.junction, State.die_onDie_ne s _ h, State.onDie_trust, State.junction]
  · rw [State.sense, if_neg hd, State.junction, State.die_congr (State.onTrust_dies ..), State.onTrust_trust,
      FMap.get_set_ne _ _ _ h, State.junction]

theorem State.junction_congr {s t : State} (hd : t.dies = s.dies) (ht : t.trust = s.trust) (u : Nat) :
    t.junction u = s.junction u := by
  simp only [State.junction, State.die_congr hd, ht]

/-- What the package does once it has cooled after a trip: it retries the start. -/
def State.retryCool (s : State) : State := if s.trust.trip && !s.hot then s.again 0 .startRetryAfterTrip else s

theorem State.retryCool_keeps (s : State) : s.retryCool.dies = s.dies ∧ s.retryCool.trust = s.trust ∧ s.retryCool.mem = s.mem := by
  unfold State.retryCool
  split
  · exact ⟨State.again_dies .., State.again_trust .., State.again_mem ..⟩
  · exact ⟨rfl, rfl, rfl⟩

theorem thermalTrip_problem {die : Nat} (h : die < 20) (temp : BitVec 12) : (Instr.thermalTrip die temp).problem = none := by
  simp [Instr.problem, firstBad, h]

theorem exec_thermalTrip_cool {die : Nat} (h : die < 20) {temp : BitVec 12} (ht : temp.toInt < 880) (s : State) :
    exec (.thermalTrip die temp) s = .next (s.sense die temp).retryCool :=
  (event_next (thermalTrip_problem h temp) s _).trans (congrArg _ (if_pos ht))

theorem exec_thermalTrip_trips {die : Nat} (h : die < 20) {temp : BitVec 12} (ht : 880 ≤ temp.toInt) (s : State) :
    exec (.thermalTrip die temp) s = .next
      ((s.sense die temp).onTrust fun t => { t with eventLog := t.eventLog ++ [(die, temp)], trip := true }).enterPs3.mgmtEvent :=
  (event_next (thermalTrip_problem h temp) s _).trans (congrArg _ (if_neg (Int.not_lt.mpr ht)))

theorem exec_supplyEvent {rail : Nat} (h : rail < 13) (s : State) :
    exec (.supplyEvent rail) s = .next (s.onTrust fun t => { t with portDark := t.portDark || rail == 8 }).enterPs3.mgmtEvent :=
  event_next (by simp [Instr.problem, firstBad, h]) s _

/-! ## SETPS -/

section
variable {s : State} {c : Command} (hc : (s.queue s.unit).cmd = some c) (hop : c.op = 8)
include hc hop

theorem State.command?_mgmt : s.command? s.unit 8 = some c := by
  simp [State.command?, hc, hop]

theorem State.setPs_inUse {n : Nat} (enter : State → State) (hn : n < 3) (hu : s.psInUse s.unit) :
    s.setPs n enter = s.finish s.unit 0x19 s.trust.ps := by
  simp only [State.setPs, State.command?_mgmt hc hop, hn, hu, and_self, if_true]

theorem State.setPs_enters {n : Nat} (enter : State → State) (h : ¬ (n < 3 ∧ s.psInUse s.unit)) :
    s.setPs n enter = enter (s.finish s.unit 0 n) := by
  simp only [State.setPs, State.command?_mgmt hc hop, if_neg h]

end

theorem exec_setpsPs1 {s : State} (h : s.unit < 64) :
    exec .setpsPs1 s = .next (s.setPs 1 fun s => s.onTrust fun t => { t with ps := 1 }) := queueEvent_next h _

theorem exec_setpsPs2 {s : State} (h : s.unit < 64) : exec .setpsPs2 s = .next (s.setPs 2 State.enterPs2) :=
  queueEvent_next h _

theorem exec_setpsPs3 {s : State} (h : s.unit < 64) : exec .setpsPs3 s = .next (s.setPs 3 State.enterPs3) :=
  queueEvent_next h _

/-! ## PS2 -/

/-- A link as PS2 leaves it (05 Table 5.7). -/
def Link.inPs2 (d : Nat) (l : Link) : Link :=
  { l.quiet with state := if l.state = .dead then .dead else if d < 7 ∨ !l.enable then .down else .off
                 ls := if d < 7 ∨ !l.enable then l.ls else 3 }

/-- The links of die i go to their states of PS2. -/
def State.linksToPs2 (s : State) (i : Nat) : State :=
  ([4, 5, 6, 7, 8, 9, 10, 11, 12, 13] : List Nat).foldl (fun s d => (s.onLink i d (Link.inPs2 d)).announce i d) s

/-- The L1s are flushed and the dies have lost power. -/
def State.unpowered (s : State) : State :=
  { s.kernelBoundary.allDies Die.unpower with fused := [] }.onTrust fun t => { t with ps := 2, stagger := none }

theorem State.enterPs2_eq (s : State) : s.enterPs2 = (List.range 16).foldl State.linksToPs2 s.unpowered := by
  unfold State.enterPs2
  generalize List.range 16 = l
  rfl

theorem State.link_announce (s : State) (i d j e : Nat) : (s.announce i d).link j e = s.link j e := rfl

theorem State.linksToPs2_link_same (s : State) (i : Nat) {d : Nat} (h : 4 ≤ d ∧ d < 14) :
    (s.linksToPs2 i).link i d = (s.link i d).inPs2 d := by
  have hm : d ∈ ([4, 5, 6, 7, 8, 9, 10, 11, 12, 13] : List Nat) := by simp; omega
  refine foldl_once (π := fun s : State => s.link i d) (h := Link.inPs2 d) (fun s => ?_) (fun s x hx => ?_) (by decide) hm s
  · rw [State.link_announce, State.link_onLink_same]
  · rw [State.link_announce, State.link_onLink_dim_ne s i _ hx.symm]

/-- What no link of die i touches as it goes to its state of PS2 stays. -/
theorem State.linksToPs2_keep {γ : Type} (π : State → γ) {i : Nat}
    (h : ∀ (s : State) d, π ((s.onLink i d (Link.inPs2 d)).announce i d) = π s) (s : State) : π (s.linksToPs2 i) = π s := by
  unfold State.linksToPs2
  generalize ([4, 5, 6, 7, 8, 9, 10, 11, 12, 13] : List Nat) = l
  exact foldl_keep (fun (s : State) d => (s.onLink i d (Link.inPs2 d)).announce i d) π h l s

theorem State.linksToPs2_trust (s : State) (i : Nat) : (s.linksToPs2 i).trust = s.trust :=
  State.linksToPs2_keep State.trust (fun _ _ => rfl) s

theorem State.linksToPs2_link_ne (s : State) {i j : Nat} (d : Nat) (h : j ≠ i) : (s.linksToPs2 i).link j d = s.link j d :=
  State.linksToPs2_keep (fun s => s.link j d)
    (fun s e => by rw [State.link_announce, State.link_onLink_die_ne s e d _ h]) s

/-- Of a die only its links change. -/
theorem State.linksToPs2_die_keep {γ : Type} (π : Die → γ) (hπ : ∀ (n : Die) ls, π { n with links := ls } = π n) (s : State)
    (i j : Nat) : π ((s.linksToPs2 i).die j) = π (s.die j) :=
  State.linksToPs2_keep (fun s => π (s.die j)) (fun s d => s.onLink_die_keep π hπ i j d (Link.inPs2 d)) s

theorem State.enterPs2_link (s : State) {i d : Nat} (hi : i < 16) (hd : 4 ≤ d ∧ d < 14) :
    s.enterPs2.link i d = (s.unpowered.link i d).inPs2 d := by
  have hl := List.nodup_range (n := 16)
  have hm := List.mem_range.mpr hi
  rw [State.enterPs2_eq]
  generalize List.range 16 = l at hl hm ⊢
  exact foldl_once (π := fun s : State => s.link i d) (h := Link.inPs2 d) (fun s => s.linksToPs2_link_same i hd)
    (fun s x hx => s.linksToPs2_link_ne d hx.symm) hl hm s.unpowered

theorem State.enterPs2_trust (s : State) : s.enterPs2.trust = { s.trust with ps := 2, stagger := none } := by
  rw [State.enterPs2_eq]
  generalize List.range 16 = l
  rw [foldl_keep State.linksToPs2 State.trust State.linksToPs2_trust, State.unpowered, State.onTrust_trust,
    State.allDies_trust, State.service_trust s.kernelBoundary_service]

theorem State.unpowered_die (s : State) {i : Nat} (h : i < 16) : s.unpowered.die i = (s.kernelBoundary.die i).unpower := by
  have hd : s.unpowered.dies = (s.kernelBoundary.allDies Die.unpower).dies := by
    simp only [State.unpowered, State.onTrust_dies]
  rw [State.die_congr hd, State.die_allDies _ _ h]

theorem State.enterPs2_die_keep {γ : Type} (π : Die → γ) (hπ : ∀ (n : Die) ls, π { n with links := ls } = π n) (s : State)
    {i : Nat} (h : i < 16) : π (s.enterPs2.die i) = π (s.kernelBoundary.die i).unpower := by
  rw [State.enterPs2_eq, ← s.unpowered_die h]
  generalize List.range 16 = l
  exact foldl_keep State.linksToPs2 (fun s : State => π (s.die i)) (fun s j => s.linksToPs2_die_keep π hπ j i) l s.unpowered

theorem Die.link_unpower (n : Die) (d : Nat) : n.unpower.link d = n.link d := rfl

/-- The flush before leaves each link in its state. -/
theorem State.unpowered_link (s : State) {i : Nat} (hi : i < 16) (d : Nat) :
    (s.unpowered.link i d).state = (s.link i d).state ∧ (s.unpowered.link i d).enable = (s.link i d).enable := by
  have hl : s.unpowered.link i d = s.kernelBoundary.link i d := by
    simp only [State.link, s.unpowered_die hi, Die.link_unpower]
  rw [hl]
  exact State.service_link s.kernelBoundary_service i d

theorem Link.inPs2_board {l : Link} {d : Nat} (hl : l.state ≠ .dead) (hd : d < 7) : (l.inPs2 d).state = .down := by
  simp [Link.inPs2, hl, hd]

theorem Link.inPs2_disabled {l : Link} (d : Nat) (hl : l.state ≠ .dead) (he : l.enable = false) : (l.inPs2 d).state = .down := by
  simp [Link.inPs2, hl, he]

theorem Link.inPs2_optical {l : Link} {d : Nat} (hl : l.state ≠ .dead) (hd : 7 ≤ d) (he : l.enable) :
    (l.inPs2 d).state = .off ∧ (l.inPs2 d).ls = 3 := by
  have : ¬ d < 7 := Nat.not_lt.mpr hd
  simp [Link.inPs2, hl, he, this]

/-- Links of a package in PS2, by their states before. -/
theorem State.enterPs2_links (s : State) {i d : Nat} (hi : i < 16) (hl : (s.link i d).state ≠ .dead) :
    (4 ≤ d ∧ d < 7 → (s.enterPs2.link i d).state = .down) ∧
    (7 ≤ d ∧ d < 14 → (s.link i d).enable → (s.enterPs2.link i d).state = .off ∧ (s.enterPs2.link i d).ls = 3) ∧
    (7 ≤ d ∧ d < 14 → (s.link i d).enable = false → (s.enterPs2.link i d).state = .down) := by
  obtain ⟨hst, hen⟩ := s.unpowered_link hi d
  rw [← hst] at hl
  rw [← hen]
  refine ⟨fun hd => ?_, fun hd he => ?_, fun hd he => ?_⟩
  · rw [s.enterPs2_link hi ⟨hd.1, by omega⟩]
    exact Link.inPs2_board hl hd.2
  · rw [s.enterPs2_link hi ⟨by omega, hd.2⟩]
    exact Link.inPs2_optical hl hd.1 he
  · rw [s.enterPs2_link hi ⟨by omega, hd.2⟩]
    exact Link.inPs2_disabled d hl he

/-! ## Leaving PS1 and PS2 -/

section
variable {s : State}

theorem exec_psExitComplete_unasked (h : s.trust.psExit = false) : exec .psExitComplete s = .next s :=
  (event_next rfl s _).trans (congrArg _ (if_pos (by rw [h]; rfl)))

variable (h : s.trust.psExit = true)
include h

theorem exec_psExitComplete_asked : exec .psExitComplete s = .next
    (if s.trust.ps = 2 ∧ (s.trust.stagger.getD staggerEnd ≤ staggerBoard ∨ s.training 0 7) then s
    else (s.onTrust fun t => { t with ps := 0, psExit := false }).again 0 .queueSelect) :=
  (event_next rfl s _).trans (congrArg _ (if_neg (by rw [h]; decide)))

theorem exec_psExitComplete_waits (hp : s.trust.ps = 2)
    (hl : s.trust.stagger.getD staggerEnd ≤ staggerBoard ∨ s.training 0 7) : exec .psExitComplete s = .next s :=
  (exec_psExitComplete_asked h).trans (congrArg _ (if_pos ⟨hp, hl⟩))

theorem exec_psExitComplete_exits
    (hl : s.trust.ps ≠ 2 ∨ staggerBoard < s.trust.stagger.getD staggerEnd ∧ s.training 0 7 = false) :
    exec .psExitComplete s = .next ((s.onTrust fun t => { t with ps := 0, psExit := false }).again 0 .queueSelect) := by
  refine (exec_psExitComplete_asked h).trans (congrArg _ (if_neg ?_))
  rintro ⟨hp, hw | hw⟩
  · exact hl.elim (fun h => h hp) fun h => absurd hw (Nat.not_le.mpr h.1)
  · exact hl.elim (fun h => h hp) fun h => by simp [h.2] at hw

end

/-! ## Staggered power-up -/

/-- A fold of steps that change the dies and the agenda alone. -/
theorem foldl_package {α : Type} {g : State → α → State}
    (h : ∀ s a, ∃ dies agenda, g s a = { s with dies, agenda }) (l : List α) (s : State) :
    ∃ dies agenda, l.foldl g s = { s with dies, agenda } := by
  induction l generalizing s with
  | nil => exact ⟨_, _, rfl⟩
  | cons a r ih =>
    obtain ⟨_, _, e⟩ := h s a
    obtain ⟨ds, ag, e'⟩ := ih (g s a)
    exact ⟨ds, ag, by rw [List.foldl_cons, e', e]⟩

theorem State.train_package (s : State) (i d : Nat) (keep : Bool) :
    ∃ dies agenda, s.train i d keep = { s with dies, agenda } := by
  unfold State.train
  dsimp only
  split <;> exact ⟨_, _, rfl⟩

/-- A unit's power-up changes the dies, and announces the links that train. -/
theorem State.powerUnit_package (s : State) (k : Nat) : ∃ dies agenda, s.powerUnit k = { s with dies, agenda } := by
  unfold State.powerUnit
  dsimp only
  split
  · exact ⟨_, _, rfl⟩
  · split
    · generalize List.range 16 = l
      exact foldl_package (fun s i => foldl_package (fun s d => s.train_package i d _) _ s) l s
    · split
      · exact s.train_package _ _ _
      · exact ⟨_, _, rfl⟩

/-- The step of a start from which unit k may power up. -/
def stepOfUnit (k : Nat) : Nat := if k < staggerBoard then 1 else if k = staggerBoard then 7 else 8

/-- The start in progress has not reached the step of unit k. -/
abbrev State.unitWaits (s : State) (k : Nat) : Prop :=
  (s.trust.start = 1 ∨ s.trust.start = 2) ∧ s.trust.step < stepOfUnit k

/-- The stagger asks for a later moment (01 Table 1.4). -/
abbrev State.unitEarly (s : State) (k : Nat) : Prop := k ≠ 0 ∧ s.wc < s.trust.staggerAt + 2000 * unitAt k

/-- Unit k lights lasers outside a start. -/
abbrev State.unitTakesSlot (s : State) (k : Nat) : Prop := s.trust.start ≠ 1 ∧ s.trust.start ≠ 2 ∧ s.unitLights k

/-- Unit k begins; what lights lasers takes the lighting slot. -/
def State.beginUnit (s : State) (k : Nat) : State :=
  (State.powerUnit (if s.unitTakesSlot k then { s with lastLight := some (s.ftc 0) } else s) k).onTrust fun t =>
    { t with stagger := if k + 1 = staggerEnd then none else some (k + 1), staggerAt := s.wc - 2000 * unitAt k }

theorem State.powerUp_eq {s : State} {k : Nat} (h : s.trust.stagger = some k) : s.powerUp =
    if s.unitWaits k then s else if s.unitEarly k then s
    else if s.unitTakesSlot k ∧ s.slotOpen = false then s else s.beginUnit k := by
  have hlights : (!(s.trust.start == 1 || s.trust.start == 2) && s.unitLights k) = decide (s.unitTakesSlot k) := by
    rw [Bool.eq_iff_iff]
    simp [State.unitTakesSlot, and_assoc]
  have hwaits : ((s.trust.start == 1 || s.trust.start == 2) && decide (s.trust.step <
      if k < staggerBoard then 1 else if k = staggerBoard then 7 else 8)) = decide (s.unitWaits k) := by
    rw [Bool.eq_iff_iff, decide_eq_true_eq]
    simp only [State.unitWaits, stepOfUnit, Bool.and_eq_true, Bool.or_eq_true, beq_iff_eq, decide_eq_true_eq]
  have hwc : (if s.unitTakesSlot k then { s with lastLight := some (s.ftc 0) } else s).wc = s.wc := by
    split <;> rfl
  unfold State.powerUp State.beginUnit
  simp only [h, hlights, hwaits, hwc, Bool.and_eq_true, decide_eq_true_eq, Bool.not_eq_true']

theorem State.powerUp_stays {s : State} {k : Nat} (h : s.trust.stagger = some k)
    (hs : s.unitWaits k ∨ s.unitEarly k ∨ s.unitTakesSlot k ∧ s.slotOpen = false) : s.powerUp = s := by
  rw [State.powerUp_eq h]
  split
  · rfl
  · next hw =>
    split
    · rfl
    · next he => exact if_pos ((hs.resolve_left hw).resolve_left he)

theorem State.powerUp_begins {s : State} {k : Nat} (h : s.trust.stagger = some k) (hw : ¬ s.unitWaits k)
    (he : ¬ s.unitEarly k) (hl : ¬ (s.unitTakesSlot k ∧ s.slotOpen = false)) : s.powerUp = s.beginUnit k := by
  rw [State.powerUp_eq h, if_neg hw, if_neg he, if_neg hl]

theorem State.beginUnit_trust (s : State) (k : Nat) : (s.beginUnit k).trust =
    { s.trust with stagger := if k + 1 = staggerEnd then none else some (k + 1), staggerAt := s.wc - 2000 * unitAt k } := by
  obtain ⟨_, _, e⟩ := State.powerUnit_package (if s.unitTakesSlot k then { s with lastLight := some (s.ftc 0) } else s) k
  rw [State.beginUnit, e]
  split <;> rfl

theorem State.beginUnit_mem (s : State) (k : Nat) : (s.beginUnit k).mem = s.mem := by
  rw [State.beginUnit, State.onTrust_mem, State.powerUnit_mem]
  split <;> rfl

theorem State.beginUnit_lastLight (s : State) (k : Nat) :
    (s.beginUnit k).lastLight = if s.unitTakesSlot k then some (s.ftc 0) else s.lastLight := by
  obtain ⟨_, _, e⟩ := State.powerUnit_package (if s.unitTakesSlot k then { s with lastLight := some (s.ftc 0) } else s) k
  rw [State.beginUnit, e]
  split <;> rfl

/-- A unit of a die: the die itself, or one of its column groups. -/
def Die.powerUnit (k : Nat) (d : Die) : Die :=
  if k % 9 = 0 then { d with powered := true, groups := 0 } else { d with groups := min (k % 9) (if d.half then 4 else 8) }

theorem State.beginUnit_dies {s : State} {k : Nat} (h : k < staggerBoard) :
    (s.beginUnit k).dies = (s.onDie (k / 9) (Die.powerUnit k)).dies := by
  rw [State.beginUnit, State.onTrust_dies, State.powerUnit, if_pos h]
  split <;> rfl

theorem exec_staggeredPowerUp (s : State) : exec .staggeredPowerUp s = .next s.powerUp := event_next rfl s _

theorem exec_staggeredPowerUp_none {s : State} (h : s.trust.stagger = none) : exec .staggeredPowerUp s = .next s := by
  simp only [exec_staggeredPowerUp, State.powerUp, h]

/-! ## O47 -/

/-- Settles O47: each row's cases above, one clause of the statement after the other. -/
theorem powerStatesAndTrips : Obligations.PowerStatesAndTrips := by
  unfold Obligations.PowerStatesAndTrips
  refine ⟨fun c s hu hc hop hp => ?_, fun c s hu hc hop hp => ?_, fun c s hu hc hop hp => ?_, fun c s hu hc hop hp => ?_,
    fun c s hu hc hop => ?_, fun s => ?_, fun die temp s hd ht => ?_, fun die temp s hd ht => ?_, fun rail s hr => ?_, fun k s => ?_,
    fun s => ?_, fun s => ?_⟩
  · rw [exec_setpsPs1 hu, State.setPs_inUse hc hop _ (by decide) hp]
  · rw [exec_setpsPs2 hu, State.setPs_inUse hc hop _ (by decide) hp]
  · have hn : ¬ (1 < 3 ∧ s.psInUse s.unit = true) := by simp [hp]
    refine ⟨_, (exec_setpsPs1 hu).trans (congrArg _ (State.setPs_enters hc hop _ hn)), _, rfl, ?_⟩
    rw [State.onTrust, State.finish_trust]
  · have hn : ¬ (2 < 3 ∧ s.psInUse s.unit = true) := by simp [hp]
    have hlink (i d : Nat) : (s.finish s.unit 0 2).link i d = s.link i d := by
      simp only [State.link, State.die_congr (s.finish_dies s.unit 0 2)]
    refine ⟨_, (exec_setpsPs2 hu).trans (congrArg _ (State.setPs_enters hc hop _ hn)), ?_, fun i hi => ⟨?_, ?_, ?_, fun d hl => ?_⟩⟩
    · rw [State.enterPs2_trust, State.finish_trust]
    · exact State.enterPs2_die_keep Die.powered (fun _ _ => rfl) _ hi
    · exact State.enterPs2_die_keep Die.c (fun _ _ => rfl) _ hi
    · exact State.enterPs2_die_keep Die.gallery (fun _ _ => rfl) _ hi
    · rw [← hlink] at hl ⊢
      exact State.enterPs2_links _ hi hl
  · have hn : ¬ (3 < 3 ∧ s.psInUse s.unit = true) := by simp
    refine ⟨_, (exec_setpsPs3 hu).trans (congrArg _ (State.setPs_enters hc hop _ hn)), ?_, State.enterPs3_mem _,
      State.enterPs3_pool _, State.enterPs3_replays _, fun i hi => ?_⟩
    · rw [State.enterPs3_trust, State.finish_trust]
    · rw [State.enterPs3_die _ hi, State.die_congr (s.finish_dies s.unit 0 3)]
  · refine ⟨exec_psExitComplete_unasked, exec_psExitComplete_waits, fun h hl =>
      ⟨_, exec_psExitComplete_exits h hl, ?_, State.mem_again _ _ _⟩⟩
    exact State.again_package _ _ _
  · obtain ⟨_, _, htrust, hreplays, hmem, hpool, hdies⟩ := State.enterPs3_mgmtEvent
      ((s.sense die temp).onTrust fun t => { t with eventLog := t.eventLog ++ [(die, temp)], trip := true })
    have hs := s.sense_trust die temp
    refine ⟨_, exec_thermalTrip_trips hd ht s, congrArg Trust.ps htrust, congrArg Trust.start htrust, congrArg Trust.trip htrust,
      ?_, hreplays, ?_, ?_, hpool, hdies⟩
    · rw [htrust, State.onTrust_trust, hs]
    · rw [hmem, State.onTrust_mem, State.sense_mem]
    · rw [htrust, State.onTrust_trust, hs]
  · obtain ⟨hdies, htrust, hmem⟩ := (s.sense die temp).retryCool_keeps
    refine ⟨_, exec_thermalTrip_cool hd ht s, ?_, ?_, ?_, fun u _ hne => ?_⟩
    · rw [htrust]
      exact s.sense_trust die temp
    · rw [hmem, State.sense_mem]
    · rw [State.junction_congr hdies htrust, State.sense_junction_same]
    · rw [State.junction_congr hdies htrust, State.sense_junction_ne s temp hne]
  · obtain ⟨_, _, htrust, hreplays, hmem, hpool, hdies⟩ := State.enterPs3_mgmtEvent
      (s.onTrust fun t => { t with portDark := t.portDark || rail == 8 })
    exact ⟨_, exec_supplyEvent hr s, congrArg Trust.ps htrust, congrArg Trust.start htrust, hreplays, hmem,
      congrArg Trust.portDark htrust, hpool, hdies⟩
  · intro need waits
    refine ⟨exec_staggeredPowerUp_none, fun hk hw => ?_, fun hk h => ?_, fun hk hw he hl =>
      ⟨_, (exec_staggeredPowerUp s).trans (congrArg _ (State.powerUp_begins hk hw he hl)), s.beginUnit_mem k,
        s.beginUnit_trust k, fun h => ?_, fun h => ?_, fun hb hm => ?_, fun hb hm => ?_, fun hb i hi => ?_⟩⟩
    · rw [exec_staggeredPowerUp, State.powerUp_stays hk (.inl hw)]
    · rw [exec_staggeredPowerUp, State.powerUp_stays hk (.inr h)]
    · rw [State.beginUnit_lastLight, if_pos h]
    · rw [State.beginUnit_lastLight, if_neg h]
    · rw [State.die_congr (State.beginUnit_dies hb), State.die_onDie_same, Die.powerUnit, if_pos hm]
    · rw [State.die_congr (State.beginUnit_dies hb), State.die_onDie_same, Die.powerUnit, if_neg hm]
    · rw [State.die_congr (State.beginUnit_dies hb), State.die_onDie_ne s _ hi]
  · refine ⟨exec_vector65IntervalEnd_closed, fun at_ h => ⟨exec_vector65IntervalEnd_early h, exec_vector65IntervalEnd_idle h,
      fun hw hp hd => ⟨_, exec_vector65IntervalEnd_raised h hw hp hd, ?_, ?_, State.mem_again _ _ _, ?_⟩⟩⟩
    · rw [State.again_package]
      exact s.raise_counts 65
    · rw [State.again_trust]
      rfl
    · rw [State.again_mem]
      rfl
  · refine ⟨State.mgmtEvent_dark, fun hd hv => ?_, fun hd hv => ?_⟩
    · rw [State.mgmtEvent_pending hd hv]
      exact ⟨rfl, rfl⟩
    · rw [State.mgmtEvent_raised hd hv]
      exact ⟨s.raise_counts 65, rfl⟩

end Sys2Proof.Machine

/-! # The ends of the fabric (03 R62 to R66, R70, R78 to R80)

Packets on their way change no end-to-end entry: one lemma `_ends` for each function that sends a packet on, and one lemma
`_noreaches` for each that a peer found unreachable reaches. Then entries, acknowledgements and timeouts, drains, and time. -/

namespace Sys2Proof.Machine

/-! ## What a packet on its way leaves alone -/

/-- A die's fabric but for what packets on their way change: the drop count and the time sample. -/
def Fabric.ends (f : Fabric) : Fabric := { f with detdrop := 0, sample := none }

/-- The end-to-end part of every die's fabric. -/
def State.ends (s : State) (i : Nat) : Fabric := (s.die i).fab.ends

theorem State.ends_congr {s t : State} (h : ∀ i, (t.die i).fab.ends = (s.die i).fab.ends) : t.ends = s.ends := funext h

/-- Where the ends agree, so does every observation of a die's fabric that ignores the drop count and the sample. -/
theorem State.fab_of_ends {γ : Type} {s t : State} (h : t.ends = s.ends) (π : Fabric → γ) (hπ : ∀ f : Fabric, π f.ends = π f)
    (i : Nat) : π (t.die i).fab = π (s.die i).fab := by
  rw [← hπ, ← hπ (s.die i).fab]
  exact congrArg π (congrFun h i)

/-- An observation of a die's fabric that a change of one die leaves alone, it leaves alone on every die. -/
theorem State.onDie_fab_keep {γ : Type} (π : Fabric → γ) (s : State) (i : Nat) {f : Die → Die} (h : ∀ n, π (f n).fab = π n.fab)
    (j : Nat) : π ((s.onDie i f).die j).fab = π (s.die j).fab := by
  by_cases hj : j = i
  · subst hj
    rw [State.die_onDie_same, h]
  · rw [State.die_onDie_ne s f hj]

theorem State.onDie_ends (s : State) (i : Nat) {f : Die → Die} (h : ∀ n, (f n).fab.ends = n.fab.ends) :
    (s.onDie i f).ends = s.ends :=
  State.ends_congr (s.onDie_fab_keep Fabric.ends i h)

@[simp] theorem State.onLink_ends (s : State) (i d : Nat) (f : Link → Link) : (s.onLink i d f).ends = s.ends :=
  s.onDie_ends i fun _ => rfl

@[simp] theorem State.again_ends (s : State) (u : Nat) (e : Instr) : (s.again u e).ends = s.ends :=
  State.ends_congr fun i => by rw [State.die_congr (s.again_dies u e)]

theorem foldl_ends {α : Type} (g : State → α → State) (h : ∀ s a, (g s a).ends = s.ends) (l : List α) (s : State) :
    (l.foldl g s).ends = s.ends :=
  foldl_keep g State.ends h l s

@[simp] theorem State.digest_ends (s : State) (i peer cls : Nat) (tx : Bool) (p : List Byte) :
    (s.digest i peer cls tx p).ends = s.ends := by
  unfold State.digest
  split
  · rfl
  · exact s.onLink_ends ..

@[simp] theorem State.requestLs_ends (s : State) (i d ls : Nat) : (s.requestLs i d ls).ends = s.ends := by
  unfold State.requestLs
  dsimp only
  split <;> simp

@[simp] theorem State.wakeFull_ends (s : State) (i d : Nat) : (s.wakeFull i d).ends = s.ends := by
  unfold State.wakeFull
  dsimp only
  split <;> simp

@[simp] theorem State.enqueueOn_ends (s : State) (i d : Nat) (o : OutPkt) : (s.enqueueOn i d o).ends = s.ends := by
  simp [State.enqueueOn]

@[simp] theorem State.detourDrop_ends (s : State) (i : Nat) : (s.detourDrop i).ends = s.ends := s.onDie_ends i fun _ => rfl

@[simp] theorem State.spoil_ends (s : State) (i d : Nat) : (s.spoil i d).ends = s.ends :=
  s.onDie_ends i fun n => by
    dsimp only [Die.onFab]
    split <;> rfl

@[simp] theorem State.spoilTimed_ends (s : State) (i d : Nat) (type : Byte) : (s.spoilTimed i d type).ends = s.ends := by
  unfold State.spoilTimed
  split
  · exact s.spoil_ends i d
  · split
    · exact s.spoil_ends _ d
    · rfl

/-- Packets queued on a link one after another. -/
theorem State.enqueueAll_ends (s : State) (i d : Nat) (f : OutPkt → OutPkt) (l : List OutPkt) :
    (l.foldl (fun s o => s.enqueueOn i d (f o)) s).ends = s.ends :=
  foldl_ends _ (fun s o => s.enqueueOn_ends i d (f o)) l s

@[simp] theorem State.place_ends (s : State) (i d : Nat) (o : OutPkt) : (s.place i d o).ends = s.ends := by
  unfold State.place
  dsimp only
  split
  · exact s.onLink_ends i d _
  · split
    · exact (State.enqueueAll_ends _ i d id _).trans (s.onLink_ends i d _)
    · split
      · exact s.detourDrop_ends i
      · split
        · exact (State.enqueueAll_ends _ i _ (intoDetour _ d) _).trans
            ((State.onLink_ends _ i d _).trans (s.spoilTimed_ends i d o.pkt.type))
        · exact s.onLink_ends i d _

@[simp] theorem State.detourQueue_ends (s : State) (i d : Nat) : (s.detourQueue i d).ends = s.ends :=
  (foldl_ends _ (fun s o => s.place_ends i d o) _ _).trans (s.onLink_ends i d _)

@[simp] theorem State.wakeOff_ends (s : State) (i d ls : Nat) : (s.wakeOff i d ls).ends = s.ends := by
  unfold State.wakeOff
  split <;> simp

@[simp] theorem State.needed_ends (s : State) (i d : Nat) : (s.needed i d).ends = s.ends := by
  unfold State.needed
  dsimp only
  split <;> simp

@[simp] theorem State.placeOn_ends (s : State) (i d : Nat) (o : OutPkt) : (s.placeOn i d o).ends = s.ends := by
  rw [State.placeOn, State.place_ends, State.needed_ends]

@[simp] theorem State.forward_ends (s : State) (i : Nat) (o : OutPkt) : (s.forward i o).ends = s.ends := by
  have forced (b : Bool) (d : Nat) (q : OutPkt) :
      (if b then s.enqueueOn i d q else (s.needed i d).detourDrop i).ends = s.ends := by
    split <;> simp
  unfold State.forward
  dsimp only
  split
  · exact forced _ _ _
  · split
    · exact forced _ _ _
    · split
      · rfl
      · split <;> simp

/-! ## The count of unreachable peers -/

/-- FSTAT.NOREACH of every die. -/
def State.noreaches (s : State) (i : Nat) : Nat := (s.die i).fab.noreach

theorem State.noreaches_of_ends {s t : State} (h : t.ends = s.ends) : t.noreaches = s.noreaches :=
  funext (State.fab_of_ends h Fabric.noreach fun _ => rfl)

theorem State.noreaches_of_dies {s t : State} (h : t.dies = s.dies) : t.noreaches = s.noreaches :=
  funext fun i => by rw [State.noreaches, State.die_congr h, State.noreaches]

theorem State.onDie_noreaches (s : State) (i : Nat) {f : Die → Die} (h : ∀ n, (f n).fab.noreach = n.fab.noreach) :
    (s.onDie i f).noreaches = s.noreaches :=
  funext (s.onDie_fab_keep Fabric.noreach i h)

/-- Every listed die changed, but not what its fabric counts. -/
theorem State.mapDies_noreaches (s : State) {f : Die → Die} (h : ∀ n, (f n).fab.noreach = n.fab.noreach) :
    ({ s with dies := s.dies.map fun x => (x.1, f x.2) } : State).noreaches = s.noreaches := by
  funext i
  simp only [State.noreaches, State.die, FMap.get, FMap.get?_map]
  cases FMap.get? s.dies i <;> simp [h]

theorem foldl_noreaches {α : Type} (g : State → α → State) (h : ∀ s a, (g s a).noreaches = s.noreaches) (l : List α)
    (s : State) : (l.foldl g s).noreaches = s.noreaches :=
  foldl_keep g State.noreaches h l s

@[simp] theorem State.again_noreaches (s : State) (u : Nat) (e : Instr) : (s.again u e).noreaches = s.noreaches :=
  State.noreaches_of_dies (s.again_dies u e)

@[simp] theorem State.originate_noreaches (s : State) (i : Nat) (ch : BitVec 3) (p : Packet) :
    (s.originate i ch p).noreaches = s.noreaches := by
  unfold State.originate
  dsimp only
  split
  · exact State.noreaches_of_ends (s.forward_ends i _)
  · split
    · exact s.onDie_noreaches i fun _ => rfl
    · rw [State.again_noreaches, State.noreaches_of_ends (State.forward_ends ..), State.noreaches_of_ends (State.digest_ends ..)]
      exact s.onDie_noreaches i fun _ => rfl

@[simp] theorem State.sendRequest_noreaches (s : State) (i pa : Nat) (w : Waiter) (type : Byte) (p : List Byte)
    (rid : Option Nat) (poison : Bool) : (s.sendRequest i pa w type p rid poison).noreaches = s.noreaches := by
  unfold State.sendRequest
  dsimp only
  split
  · exact s.onDie_noreaches i fun _ => rfl
  · exact (State.originate_noreaches ..).trans (s.onDie_noreaches i fun _ => rfl)

@[simp] theorem State.sendWaiting_noreaches (s : State) (i : Nat) : (s.sendWaiting i).noreaches = s.noreaches := by
  unfold State.sendWaiting
  refine (foldl_noreaches _ (fun s r => ?_) _ _).trans (s.onDie_noreaches i fun _ => rfl)
  split <;> simp

@[simp] theorem State.unstall_noreaches (s : State) (i : Nat) : (s.unstall i).noreaches = s.noreaches := by
  unfold State.unstall
  exact (foldl_noreaches (fun s (o : OutPkt) => s.originate i o.ch o.pkt) (fun s o => s.originate_noreaches i o.ch o.pkt) _ _).trans
     (s.onDie_noreaches i fun _ => rfl)

/-! ## An abort -/

theorem Die.dropPreload_fab (d : Die) : d.dropPreload.fab = d.fab := by
  unfold Die.dropPreload
  split
  · rfl
  · dsimp only
    split <;> rfl

theorem Die.expireUnwritten_fab (d : Die) (e : Tile) (written : List Nat) : (d.expireUnwritten e written).fab = d.fab :=
  foldl_keep (fun (d : Die) r => d.expireRows r 1) Die.fab (fun _ _ => rfl) _ d

theorem State.checkRetire_noreaches (s : State) (rid : Nat) : (s.checkRetire rid).noreaches = s.noreaches := by
  unfold State.checkRetire
  split
  · rfl
  · split
    · split <;> rfl
    · rfl

theorem State.dropDead_noreaches (s : State) : s.dropDead.noreaches = s.noreaches :=
  (foldl_noreaches _ State.checkRetire_noreaches _ _).trans rfl

theorem State.wake_noreaches (s : State) : s.wake.noreaches = s.noreaches := rfl

theorem State.onReplay_noreaches (s : State) (rid : Nat) (f : Replay → Replay) : (s.onReplay rid f).noreaches = s.noreaches := rfl

theorem State.dropSaved_noreaches (s : State) (id : Nat) : (s.dropSaved id).noreaches = s.noreaches := by
  have unpinned (x : Saved) : (if x.task.pinned then
      s.onDie x.die fun d => d.onFab fun f => { f with resv := f.resv.filter fun r => !(r.own && r.key == x.task.xkey) }
      else s).noreaches = s.noreaches := by
    split
    · exact s.onDie_noreaches _ fun _ => rfl
    · rfl
  unfold State.dropSaved
  split
  · rfl
  · exact (State.noreaches_of_dies (by rfl)).trans (unpinned _)

@[simp] theorem State.abort_noreaches (s : State) (rid : Nat) (x : Abort) : (s.abort rid x).noreaches = s.noreaches := by
  have gang (s : State) (y : Nat) (g : Option (Nat × Nat)) :
      (s.onDie y fun d => if g.any (·.1 == rid) ∧ d.task.isNone then { d with gang := none } else d).noreaches = s.noreaches :=
    s.onDie_noreaches y fun n => by split <;> rfl
  unfold State.abort
  split
  · rfl
  · split
    · rfl
    · dsimp only
      rw [State.wake_noreaches, State.checkRetire_noreaches, State.dropDead_noreaches, foldl_noreaches _ fun s y => ?_,
        State.onReplay_noreaches, foldl_noreaches _ State.dropSaved_noreaches]
      split
      · rw [gang]
        split
        · exact s.onDie_noreaches y fun n => by rw [Die.dropPreload_fab]
        · rfl
      · exact gang s y _

/-! ## What awaited the peer faults (R65) -/

theorem State.pendTrap_noreaches (s : State) (i : Nat) (t : Trap) : (s.pendTrap i t).noreaches = s.noreaches :=
  s.onDie_noreaches i fun _ => rfl

theorem State.storeGone_noreaches (s : State) (i id : Nat) : (s.storeGone i id).noreaches = s.noreaches :=
  s.onDie_noreaches i fun _ => rfl

theorem State.storeAcked_noreaches (s : State) (i id : Nat) : (s.storeAcked i id).noreaches = s.noreaches := by
  unfold State.storeAcked
  split
  · rfl
  · exact s.storeGone_noreaches i id

theorem State.expireUnwritten_noreaches (s : State) (i : Nat) (e : Tile) (written : List Nat) :
    (s.expireUnwritten i e written).noreaches = s.noreaches :=
  s.onDie_noreaches i fun n => by rw [Die.expireUnwritten_fab]

theorem State.engineFails_noreaches (s : State) (i : Nat) (e : Engine) (k : Cmd) (x : Fail) :
    (s.onDie i fun d => d.engineFails e k x).noreaches = s.noreaches :=
  s.onDie_noreaches i fun _ => rfl

theorem State.copyUnreachable_noreaches (s : State) (i n : Nat) : (s.copyUnreachable i n).noreaches = s.noreaches := by
  unfold State.copyUnreachable
  split
  · rfl
  · dsimp only
    rw [State.engineFails_noreaches]
    split
    · exact s.expireUnwritten_noreaches ..
    · split
      · exact s.expireUnwritten_noreaches ..
      · rfl
    · split
      · exact s.expireUnwritten_noreaches ..
      · rfl
    · rfl

@[simp] theorem State.lose_noreaches (s : State) (i : Nat) (w : Waiter) : (s.lose i w).noreaches = s.noreaches := by
  unfold State.lose
  cases w with
  | fill line =>
    have unfilled := s.mapDies_noreaches (f := fun d => { d with prefs := d.prefs.erase line }) fun _ => rfl
    dsimp only
    refine (foldl_noreaches _ (fun s n => ?_) _ _).trans ((foldl_noreaches _ (fun s x => ?_) _ _).trans
      ((foldl_noreaches _ (fun s l => ?_) _ _).trans ?_))
    · split
      · exact s.copyUnreachable_noreaches i n
      · rfl
    · split
      · rw [State.pendTrap_noreaches, State.storeGone_noreaches]
      · rfl
    · split
      · exact s.onDie_noreaches i fun _ => rfl
      · rfl
    · split
      · exact (State.noreaches_of_dies rfl).trans unfilled
      · exact unfilled
  | load id => exact s.onDie_noreaches i fun _ => rfl
  | record => exact s.onDie_noreaches i fun _ => rfl
  | store id =>
    dsimp only
    split
    · rw [State.pendTrap_noreaches, State.storeAcked_noreaches]
    · refine foldl_noreaches _ (fun s n => ?_) _ s
      split
      · split
        · exact s.copyUnreachable_noreaches i n
        · rfl
      · rfl
  | atomic n => exact s.copyUnreachable_noreaches i n
  | tile n => exact s.copyUnreachable_noreaches i n
  | host pool => rfl
  | done rid => rfl
  | spill rid node => exact s.abort_noreaches rid _
  | gone writes => rfl

@[simp] theorem State.lose_mem (s : State) (i : Nat) (w : Waiter) : (s.lose i w).mem = s.mem := by
  unfold State.lose
  grind [foldl_mem, State.abort_mem, State.copyUnreachable_mem, State.onDie_mem, State.onReplay_mem, State.pendTrap_mem,
    State.storeAcked_mem, State.storeGone_mem]

end Sys2Proof.Machine

/-! # End-to-end delivery (03 R62 to R66) -/

namespace Sys2Proof.Machine

/-! ## Entries of a node, by peer and class -/

theorem find?_filter_not {α : Type} (p : α → Bool) (l : List α) : (l.filter fun x => !p x).find? p = none :=
  List.find?_eq_none.mpr fun x hx => by simpa using (List.mem_filter.mp hx).2

theorem find?_filter_not_append {α : Type} {p : α → Bool} (l : List α) {e : α} (h : p e) :
    ((l.filter fun x => !p x) ++ [e]).find? p = some e := by
  rw [List.find?_append, find?_filter_not, Option.none_or, List.find?_cons_of_pos h]

theorem find?_map_replace {α : Type} {p : α → Bool} {l : List α} {e x : α} (he : p e) (h : l.find? p = some x) :
    (l.map fun y => if p y then e else y).find? p = some e := by
  induction l with
  | nil => cases h
  | cons y r ih =>
    by_cases hy : p y = true
    · simp [hy, he]
    · rw [List.find?_cons_of_neg hy] at h
      simp [hy, ih h]

section
variable {s t : State} {i peer cls : Nat}

theorem State.sendEntry?_key {e : SendEntry} (h : s.sendEntry? i peer cls = some e) : e.peer = peer ∧ e.cls = cls := by
  simpa using List.find?_some h

theorem State.recvEntry?_key {e : RecvEntry} (h : s.recvEntry? i peer cls = some e) : e.peer = peer ∧ e.cls = cls := by
  simpa using List.find?_some h

theorem State.sendEntry?_of_ends (h : t.ends = s.ends) (i peer cls : Nat) : t.sendEntry? i peer cls = s.sendEntry? i peer cls := by
  have hs : (t.die i).fab.sends = (s.die i).fab.sends := State.fab_of_ends h Fabric.sends (fun _ => rfl) i
  rw [State.sendEntry?, hs, State.sendEntry?]

theorem State.recvEntry?_of_ends (h : t.ends = s.ends) (i peer cls : Nat) : t.recvEntry? i peer cls = s.recvEntry? i peer cls := by
  have hs : (t.die i).fab.recvs = (s.die i).fab.recvs := State.fab_of_ends h Fabric.recvs (fun _ => rfl) i
  rw [State.recvEntry?, hs, State.recvEntry?]

/-- A send entry put in its place is found there. -/
theorem State.sendEntry?_putSend {e x : SendEntry} (hp : e.peer = peer) (hc : e.cls = cls) (h : s.sendEntry? i peer cls = some x) :
    (s.putSend i e).sendEntry? i peer cls = some e := by
  have hr := find?_map_replace (p := fun y : SendEntry => y.peer == peer && y.cls == cls) (e := e) (by simp [hp, hc]) h
  simpa [State.sendEntry?, State.putSend, Die.onFab, hp, hc] using hr

/-- A receive entry put in its place is found there. -/
theorem State.recvEntry?_putRecv {e : RecvEntry} (hp : e.peer = peer) (hc : e.cls = cls) :
    (s.putRecv i e).recvEntry? i peer cls = some e := by
  have hr := find?_filter_not_append (p := fun y : RecvEntry => y.peer == peer && y.cls == cls) (s.die i).fab.recvs (e := e)
    (by simp [hp, hc])
  simpa [State.recvEntry?, State.putRecv, Die.onFab, hp, hc] using hr

theorem State.stalled_putSend (s : State) (i : Nat) (e : SendEntry) : ((s.putSend i e).die i).fab.stalled = (s.die i).fab.stalled := by
  simp [State.putSend, Die.onFab]

/-- Where no packet is stalled, none goes again. -/
theorem State.sendEntry?_unstall (h : (s.die i).fab.stalled = []) (peer cls : Nat) :
    (s.unstall i).sendEntry? i peer cls = s.sendEntry? i peer cls := by
  simp [State.unstall, State.sendEntry?, Die.onFab, h]

end

/-! ## A packet takes its number (R62) -/

/-- A packet as it goes out with its entry's next number. -/
def SendEntry.outgoing (e : SendEntry) (src : BitVec 14) (ch : BitVec 3) (p : Packet) : OutPkt :=
  { ch, pkt := { p with src, epoch := e.epoch, eseq := BitVec.ofNat 32 e.next, syn := false } }

/-- An entry after a packet has been sent on it, which it keeps. -/
def SendEntry.sent (e : SendEntry) (o : OutPkt) (now : Nat) : SendEntry :=
  { e with next := e.next + 1, unacked := e.unacked ++ [o], timer := if e.unacked = [] then now else e.timer, idle := now }

theorem State.sendEntry?_originate {s : State} {i : Nat} {ch : BitVec 3} {p : Packet} {e : SendEntry} (hq : sequenced p.type)
    (he : s.sendEntry? i p.dst.toNat (classOf ch) = some e) (hn : (s.die i).fab.unackedCount < 2048)
    (hs : (s.die i).fab.stalled = []) :
    (s.originate i ch p).sendEntry? i p.dst.toNat (classOf ch) =
      some (e.sent (e.outgoing (BitVec.ofNat 14 (s.nid i)) ch p) (s.ftc i)) := by
  obtain ⟨hpeer, hcls⟩ := State.sendEntry?_key he
  have hroom : ¬ 2048 ≤ (s.die i).fab.unackedCount := by omega
  unfold State.sendEntry? at he
  unfold State.originate
  simp only [hq, Bool.not_true, Bool.false_eq_true, if_false, he, hs, hroom, Option.isNone_some, List.any_nil, Bool.false_and,
    decide_false, Bool.or_self, Option.getD_some, Bool.and_false]
  rw [State.sendEntry?_of_ends (State.again_ends ..), State.sendEntry?_of_ends (State.forward_ends ..),
    State.sendEntry?_of_ends (State.digest_ends ..)]
  simp only [State.sendEntry?, State.die_onDie_same, Die.onFab]
  rw [find?_filter_not_append _ (by simp [hpeer, hcls])]
  simp only [SendEntry.sent, SendEntry.outgoing, List.isEmpty_iff]

/-! ## A sequenced packet arrives (R63) -/

/-- The entry then has its EACK scheduled, whether it had before or not. -/
theorem State.recvEntry?_scheduleEack {i peer cls : Nat} {e : RecvEntry} (hp : e.peer = peer) (hc : e.cls = cls) (s : State) :
    ((s.putRecv i e).scheduleEack i peer cls).recvEntry? i peer cls = some { e with eack := true } := by
  subst hp hc
  have hfound : (s.putRecv i e).recvEntry? i e.peer e.cls = some e := State.recvEntry?_putRecv rfl rfl
  have hany : ((s.putRecv i e).die i).fab.recvs.any (fun x => x.peer == e.peer && x.cls == e.cls && x.eack) = e.eack := by
    have hothers : ((s.die i).fab.recvs.filter fun x => !(x.peer == e.peer && x.cls == e.cls)).any
        (fun x => x.peer == e.peer && x.cls == e.cls && x.eack) = false :=
      List.any_eq_false.mpr fun x hx => by
        have hx := (List.mem_filter.mp hx).2
        rw [Bool.not_eq_true'] at hx
        rw [hx, Bool.false_and]
        decide
    simp only [State.putRecv, State.die_onDie_same, Die.onFab, List.any_append, hothers, Bool.false_or]
    simp
  unfold State.scheduleEack
  rw [hany]
  split
  · next h => rw [hfound, ← h]
  · have hkey (x : RecvEntry) : ((fun y : RecvEntry => y.peer == e.peer && y.cls == e.cls) ∘ fun y =>
        if y.peer = e.peer ∧ y.cls = e.cls then { y with eack := true } else y) x = (x.peer == e.peer && x.cls == e.cls) := by
      dsimp only [Function.comp]
      split <;> rfl
    unfold State.recvEntry? at hfound ⊢
    rw [State.die_congr (State.later_dies ..)]
    simp only [State.die_onDie_same, Die.onFab, List.find?_map, funext hkey, hfound, Option.map_some, and_self,
      if_true]

theorem State.scheduleEack_dups (s : State) (i peer cls j : Nat) :
    ((s.scheduleEack i peer cls).die j).fab.dups = (s.die j).fab.dups := by
  unfold State.scheduleEack
  split
  · rfl
  · rw [State.die_congr (State.later_dies ..), s.onDie_fab_keep Fabric.dups i (fun _ => by rfl) j]

theorem State.accept_unknown {s : State} {i : Nat} (ch : BitVec 3) {p : Packet}
    (h : s.recvEntry? i p.src.toNat (classOf ch) = none) (hp : p.syn = false) : s.accept i ch p = (s.countBad i, false) := by
  unfold State.recvEntry? at h
  simp [State.accept, h, hp]

section
variable {s : State} {i : Nat} {ch : BitVec 3} {p : Packet} {e : RecvEntry}
  (he : s.recvEntry? i p.src.toNat (classOf ch) = some e) (hp : p.epoch = e.epoch) (hc : classOf ch ≠ 1)
include he hp hc

/-- In the ordered classes the next number is taken, an older one is a duplicate, and a later one is dropped. -/
theorem State.accept_ordered : s.accept i ch p =
    let s1 := s.again i (.receiveEntryIdleFree i p.src.toNat (classOf ch))
    if p.eseq.toNat = e.expect then
      (((s1.putRecv i { e with idle := s.ftc i, expect := e.expect + 1 }).scheduleEack i p.src.toNat (classOf ch)).digest i
        p.src.toNat (classOf ch) false p.payload, true)
    else if p.eseq.toNat < e.expect then
      (((s1.putRecv i { e with idle := s.ftc i }).countDup i).scheduleEack i p.src.toNat (classOf ch), false)
    else (s1.putRecv i { e with idle := s.ftc i }, false) := by
  unfold State.recvEntry? at he
  simp [State.accept, he, hp, hc]

theorem State.accept_next (h : p.eseq.toNat = e.expect) : (s.accept i ch p).2 = true ∧
    (s.accept i ch p).1.recvEntry? i p.src.toNat (classOf ch) =
      some { e with idle := s.ftc i, expect := e.expect + 1, eack := true } := by
  obtain ⟨hpeer, hcls⟩ := State.recvEntry?_key he
  rw [State.accept_ordered he hp hc]
  dsimp only
  rw [if_pos h]
  refine ⟨rfl, ?_⟩
  rw [State.recvEntry?_of_ends (State.digest_ends ..)]
  exact State.recvEntry?_scheduleEack (e := { e with idle := s.ftc i, expect := e.expect + 1 }) hpeer hcls _

theorem State.accept_older (h : p.eseq.toNat < e.expect) : (s.accept i ch p).2 = false ∧
    ((s.accept i ch p).1.die i).fab.dups = min ((s.die i).fab.dups + 1) 65535 := by
  rw [State.accept_ordered he hp hc]
  dsimp only
  rw [if_neg (Nat.ne_of_lt h), if_pos h]
  refine ⟨rfl, ?_⟩
  rw [State.scheduleEack_dups, State.countDup, State.die_onDie_same]
  simp [Die.onFab, State.putRecv, State.die_congr (s.again_dies ..), satAdd]

theorem State.accept_later (h : e.expect < p.eseq.toNat) : (s.accept i ch p).2 = false ∧
    (s.accept i ch p).1.recvEntry? i p.src.toNat (classOf ch) = some { e with idle := s.ftc i } := by
  obtain ⟨hpeer, hcls⟩ := State.recvEntry?_key he
  rw [State.accept_ordered he hp hc]
  dsimp only
  rw [if_neg (Nat.ne_of_gt h), if_neg (Nat.not_lt_of_gt h)]
  exact ⟨rfl, State.recvEntry?_putRecv hpeer hcls⟩

end

/-! ## An EACK arrives (R63, R64) -/

/-- Whether an EACK acknowledges a packet: by its base, and in the replies by a bit. -/
def acknowledges (p : Packet) (o : OutPkt) : Bool :=
  decide (o.pkt.eseq.toNat < field p.payload 1 4) ||
    (field p.payload 0 1 == 1 && decide (o.pkt.eseq.toNat < field p.payload 1 4 + 64) &&
      (field p.payload 5 8).testBit (o.pkt.eseq.toNat - field p.payload 1 4))

/-- Whether it acknowledges the oldest packet of an entry. -/
def SendEntry.moves (e : SendEntry) (p : Packet) : Bool := e.unacked.head?.any (acknowledges p)

/-- The entry after it. -/
def SendEntry.acked (e : SendEntry) (p : Packet) (now : Nat) : SendEntry :=
  { e with
    unacked := e.unacked.filter fun o => !acknowledges p o, idle := now, timeouts := if e.moves p then 0 else e.timeouts
    timer := if e.moves p || field p.payload 13 1 == 1 then now else e.timer
    busy := field p.payload 13 1 == 1 || (e.busy && !e.moves p) }

theorem exec_eack {die : Nat} {p : Packet} {e : SendEntry} {s : State} (hi : (.eack die p : Instr).problem = none)
    (hlen : p.payload.length = 14) (hcls : field p.payload 0 1 ≤ 3) (hbusy : field p.payload 13 1 ≤ 1)
    (hbits : field p.payload 0 1 ≠ 1 → field p.payload 5 8 = 0)
    (he : s.sendEntry? die p.src.toNat (field p.payload 0 1) = some e) (hep : e.epoch = p.epoch) :
    exec (.eack die p) s = .next (
      let t := (s.putSend die (e.acked p (s.ftc die))).unstall die
      if (e.acked p (s.ftc die)).unacked.isEmpty then t.again die (.sendEntryIdleFree die e.peer (field p.payload 0 1)) else t) := by
  have hgood : ¬ (p.payload.length ≠ 14 ∨ 3 < field p.payload 0 1 ∨ 1 < field p.payload 13 1 ∨
      field p.payload 0 1 ≠ 1 ∧ field p.payload 5 8 ≠ 0) := by
    rintro (h | h | h | ⟨h, hb⟩)
    · exact h hlen
    · omega
    · omega
    · exact hb (hbits h)
  refine (event_next hi s _).trans ?_
  simp only [if_neg hgood, he, if_neg (Decidable.not_not.mpr hep)]
  obtain ⟨peer, cls, epoch, next, unacked, timer, timeouts, busy, idle⟩ := e
  cases unacked <;> rfl

theorem State.sendEntry?_eack {die cls : Nat} {p : Packet} {e : SendEntry} {s : State}
    (he : s.sendEntry? die p.src.toNat cls = some e) (hs : (s.die die).fab.stalled = []) (now : Nat) :
    ((s.putSend die (e.acked p now)).unstall die).sendEntry? die p.src.toNat cls = some (e.acked p now) := by
  obtain ⟨hpeer, hcls⟩ := State.sendEntry?_key he
  rw [State.sendEntry?_unstall ((s.stalled_putSend die _).trans hs)]
  exact State.sendEntry?_putSend hpeer hcls he

/-! ## An EACK is sent (R63, R64) -/

theorem toLE_length (n w : Nat) : (toLE n w).length = n := by
  induction n generalizing w with
  | zero => rfl
  | succ n ih => rw [toLE, List.length_cons, ih]

theorem field_toLE (n w : Nat) : field (toLE n w) 0 n = w % 256 ^ n := by
  rw [field, List.drop_zero, List.take_of_length_le (Nat.le_of_eq (toLE_length n w)), ofLE_toLE]

/-- A field within the bytes before. -/
theorem field_append_left {a b : List Byte} {lo n : Nat} (h : lo + n ≤ a.length) : field (a ++ b) lo n = field a lo n := by
  rw [field, field, List.drop_append_of_le_length (by omega), List.take_append_of_le_length (by rw [List.length_drop]; omega)]

/-- A field within the bytes behind. -/
theorem field_append_right {a b : List Byte} {lo n : Nat} (h : a.length ≤ lo) : field (a ++ b) lo n = field b (lo - a.length) n := by
  rw [field, field, List.drop_append, List.drop_eq_nil_of_le h, List.nil_append]

/-- The bits of a sum of powers of two. -/
theorem testBit_sum_pow (f : Nat → Bool) (n k : Nat) :
    ((List.range n).map fun j => if f j then 2 ^ j else 0).sum.testBit k = (decide (k < n) && f k) := by
  induction n generalizing k with
  | zero => simp
  | succ n ih =>
    have hlt := Nat.lt_pow_two_of_testBit _ fun j (hj : n ≤ j) => by rw [ih, decide_eq_false (by omega), Bool.false_and]
    rw [List.range_succ, List.map_append, List.sum_append, List.map_singleton, List.sum_singleton]
    by_cases hf : f n = true
    · rw [if_pos hf, Nat.add_comm, ← Nat.mul_one (2 ^ n), Nat.two_pow_add_eq_or_of_lt hlt, Nat.mul_one, Nat.testBit_or,
        Nat.testBit_two_pow, ih]
      rcases Nat.lt_trichotomy k n with h | rfl | h
      · simp [h, Nat.lt_succ_of_lt h, Nat.ne_of_gt h]
      · simp [hf]
      · simp [Nat.ne_of_lt h, Nat.not_lt_of_gt h, show ¬ k < n + 1 by omega]
    · rw [if_neg hf, Nat.add_zero, ih]
      by_cases h : k = n
      · simp [h, hf]
      · simp [show k < n + 1 ↔ k < n by omega]

/-- The replies that have arrived of the 64 from the expected one on, as an EACK's bits. -/
def RecvEntry.eackBits (e : RecvEntry) : Nat :=
  ((List.range 64).map fun k => if e.arrived.contains (e.expect + k) then 2 ^ k else 0).sum

/-- The EACK of a receive entry. -/
def RecvEntry.eackPacket (e : RecvEntry) (peer cls : Nat) : Packet :=
  { dst := BitVec.ofNat 14 peer, type := 0x14, epoch := e.epoch
    payload := toLE 1 cls ++ toLE 4 e.expect ++ toLE 8 (if cls = 1 then e.eackBits else 0) ++ toLE 1 (b2n e.busy) }

theorem exec_eackSend {die peer cls : Nat} {e : RecvEntry} {s : State} (hi : (.eackSend die peer cls : Instr).problem = none)
    (he : s.recvEntry? die peer cls = some e) (heack : e.eack) : exec (.eackSend die peer cls) s =
      .next ((s.putRecv die { e with eack := false, busy := false }).originate die 2 (e.eackPacket peer cls)) := by
  refine (event_next hi s _).trans ?_
  simp only [he, heack, Bool.not_true, Bool.false_eq_true, if_false]
  rfl

theorem RecvEntry.eackPacket_fields (e : RecvEntry) (peer cls : Nat) :
    field (e.eackPacket peer cls).payload 0 1 = cls % 256 ∧ field (e.eackPacket peer cls).payload 1 4 = e.expect % 2 ^ 32 ∧
      field (e.eackPacket peer cls).payload 13 1 = (if e.busy then 1 else 0) ∧
      field (e.eackPacket peer cls).payload 5 8 = (if cls = 1 then e.eackBits else 0) % 2 ^ 64 := by
  refine ⟨?_, ?_, ?_, ?_⟩
  all_goals simp only [RecvEntry.eackPacket]
  · rw [field_append_left (by simp [toLE_length]), field_append_left (by simp [toLE_length]),
      field_append_left (by simp [toLE_length]), field_toLE, Nat.pow_one]
  · rw [field_append_left (by simp [toLE_length]), field_append_left (by simp [toLE_length]),
      field_append_right (by simp [toLE_length]), toLE_length]
    exact field_toLE 4 e.expect
  · rw [field_append_right (by simp [toLE_length])]
    simp only [List.length_append, toLE_length, Nat.reduceAdd, Nat.reduceSub]
    rw [field_toLE]
    cases e.busy <;> rfl
  · rw [field_append_left (by simp [toLE_length]), field_append_right (by simp [toLE_length])]
    simp only [List.length_append, toLE_length, Nat.reduceAdd, Nat.reduceSub]
    exact field_toLE 8 _

theorem RecvEntry.eackPacket_testBit (e : RecvEntry) (peer cls : Nat) {k : Nat} (hk : k < 64) :
    (field (e.eackPacket peer cls).payload 5 8).testBit k = (cls == 1 && e.arrived.contains (e.expect + k)) := by
  obtain ⟨-, -, -, h⟩ := e.eackPacket_fields peer cls
  rw [h, Nat.testBit_mod_two_pow, decide_eq_true hk, Bool.true_and]
  by_cases hc : cls = 1
  · rw [if_pos hc, RecvEntry.eackBits, testBit_sum_pow (fun j => e.arrived.contains (e.expect + j)), decide_eq_true hk]
    simp [hc]
  · simp [hc]

/-! ## A timeout (R65) -/

theorem State.unreachable_mem (s : State) (i : Nat) (e : SendEntry) : (s.unreachable i e).mem = s.mem := by
  unfold State.unreachable
  dsimp only
  rw [State.again_mem, State.unstall_mem, State.sendWaiting_mem, foldl_mem _ fun s w => s.lose_mem i w]
  rfl

/-- NOREACH counts the peer and, saturated, stays at 255. -/
theorem State.unreachable_noreach (s : State) (i : Nat) (e : SendEntry) :
    ((s.unreachable i e).die i).fab.noreach = min ((s.die i).fab.noreach + 1) 255 := by
  change (s.unreachable i e).noreaches i = _
  unfold State.unreachable
  dsimp only
  rw [State.again_noreaches, State.unstall_noreaches, State.sendWaiting_noreaches,
    foldl_noreaches _ fun s w => s.lose_noreaches i w]
  simp [State.noreaches, State.die, State.onDie, State.setDie, State.putSend, Die.onC, Die.onFab, satAdd]

/-- A timeout that is due and counts: the last finds the peer unreachable, one before sends every packet again. -/
theorem exec_e2eTimeout_due {die peer cls : Nat} {e : SendEntry} {s : State} (hi : (.e2eTimeout die peer cls : Instr).problem = none)
    (he : s.sendEntry? die peer cls = some e) (hu : e.unacked ≠ []) (hb : e.busy = false)
    (ht : e.timer + 1000 * max 1 (s.die die).fab.e2eto.toNat ≤ s.ftc die) : exec (.e2eTimeout die peer cls) s = .next (
      if max 1 (s.die die).fab.e2erty.toNat ≤ e.timeouts + 1 then s.unreachable die e
      else ((e.unacked.foldl (fun s o => s.forward die { o with pkt := { o.pkt with retx := true } })
        (s.putSend die { e with timeouts := e.timeouts + 1, busy := false, timer := s.ftc die })).again die
          (.e2eTimeout die peer cls))) := by
  refine (event_next hi s _).trans ?_
  simp only [he, List.isEmpty_iff, hu, if_false, if_neg (Nat.not_lt.mpr ht), hb, Bool.false_eq_true]

/-! ## Entries without use (R62) -/

theorem exec_sendEntryIdleFree {die peer cls : Nat} {e : SendEntry} {s : State}
    (hi : (.sendEntryIdleFree die peer cls : Instr).problem = none) (he : s.sendEntry? die peer cls = some e)
    (hu : e.unacked = []) : exec (.sendEntryIdleFree die peer cls) s = .next (
      if s.ftc die < e.idle + 1000000 then s.again die (.sendEntryIdleFree die peer cls)
      else (s.onDie die fun d => d.onFab fun f =>
        { f with sends := f.sends.filter fun x => !(x.peer == peer && x.cls == cls) }).unstall die) := by
  refine (event_next hi s _).trans ?_
  simp only [he, hu, List.isEmpty_nil, Bool.not_true, Bool.false_eq_true, if_false]

theorem exec_receiveEntryIdleFree {die peer cls : Nat} {e : RecvEntry} {s : State}
    (hi : (.receiveEntryIdleFree die peer cls : Instr).problem = none) (he : s.recvEntry? die peer cls = some e) :
    exec (.receiveEntryIdleFree die peer cls) s = .next (
      if s.ftc die < e.idle + 2000000 then s.again die (.receiveEntryIdleFree die peer cls)
      else s.onDie die fun d => d.onFab fun f =>
        { f with recvs := f.recvs.filter fun x => !(x.peer == peer && x.cls == cls) }) := by
  refine (event_next hi s _).trans ?_
  simp only [he]

theorem State.sendEntry?_freed {s : State} {i : Nat} (h : (s.die i).fab.stalled = []) (peer cls : Nat) :
    ((s.onDie i fun d => d.onFab fun f =>
      { f with sends := f.sends.filter fun x => !(x.peer == peer && x.cls == cls) }).unstall i).sendEntry? i peer cls = none := by
  rw [State.sendEntry?_unstall (by simpa [Die.onFab] using h)]
  simp only [State.sendEntry?, State.die_onDie_same, Die.onFab]
  exact find?_filter_not _ _

theorem State.recvEntry?_freed (s : State) (i peer cls : Nat) :
    (s.onDie i fun d => d.onFab fun f =>
      { f with recvs := f.recvs.filter fun x => !(x.peer == peer && x.cls == cls) }).recvEntry? i peer cls = none := by
  simp only [State.recvEntry?, State.die_onDie_same, Die.onFab]
  exact find?_filter_not _ _

/-! ## O35 -/

/-- Settles O35: entries are found where they are put, and what sends a packet on leaves them alone. -/
theorem endToEndDelivery : Obligations.EndToEndDelivery := by
  unfold Obligations.EndToEndDelivery
  refine ⟨fun i ch p e s hq he hn hs => ?_, fun i ch p e s he hp hc => ⟨fun h => ?_, State.accept_older he hp hc,
    State.accept_later he hp hc⟩, fun i ch p s => State.accept_unknown ch, ?_, fun die peer cls e s hi he hk => ?_,
    fun die peer cls e s hi he hu hb ht => ?_, fun die peer cls e s hi he hu hs => ?_, fun die peer cls e s hi he => ?_⟩
  · exact ⟨_, State.sendEntry?_originate hq he hn hs, rfl, rfl, BitVec.toNat_ofNat .., rfl, BitVec.toNat_ofNat ..⟩
  · obtain ⟨hok, hentry⟩ := State.accept_next he hp hc h
    exact ⟨hok, _, hentry, rfl, rfl⟩
  · intro die p e s hi b cls base acked hlen hcls hbusy hbits he hep hs
    have hacks : acked = acknowledges p := by
      funext o
      rw [Bool.eq_iff_iff]
      simp only [acked, acknowledges, cls, base, b, decide_eq_true_eq, Bool.or_eq_true, Bool.and_eq_true, beq_iff_eq, and_assoc]
    have hentry := State.sendEntry?_eack he hs (s.ftc die)
    refine ⟨_, exec_eack hi hlen hcls hbusy hbits he hep, ?_, e.acked p (s.ftc die), ?_, by rw [hacks]; rfl, rfl, rfl, ?_⟩
    · dsimp only
      split <;> simp
    · dsimp only
      split
      · exact (State.sendEntry?_of_ends (State.again_ends ..) _ _ _).trans hentry
      · exact hentry
    · rintro ⟨o, r, hu, ho⟩
      have hm : e.moves p = true := by simpa [SendEntry.moves, hu, hacks] using ho
      simp [SendEntry.acked, hm]
  · obtain ⟨hcls, hbase, hbusy, -⟩ := e.eackPacket_fields peer cls
    exact ⟨_, exec_eackSend hi he hk, rfl, rfl, rfl, hcls, hbase, hbusy, fun k hk => e.eackPacket_testBit peer cls hk⟩
  · have hx := exec_e2eTimeout_due hi he hu hb ht
    refine ⟨fun h => hx.trans (congrArg _ (if_neg (Nat.not_le.mpr h))), fun h => ⟨_, hx.trans (congrArg _ (if_pos h)),
      fun _ => s.unreachable_mem die e, s.unreachable_noreach die e⟩⟩
  · refine ⟨_, exec_sendEntryIdleFree hi he hu, ?_⟩
    by_cases h : s.ftc die < e.idle + 1000000
    · rw [if_pos h, if_neg (Nat.not_le.mpr h), State.sendEntry?_of_ends (s.again_ends ..), he]
    · rw [if_neg h, if_pos (Nat.not_lt.mp h), State.sendEntry?_freed hs]
  · refine ⟨_, exec_receiveEntryIdleFree hi he, ?_⟩
    by_cases h : s.ftc die < e.idle + 2000000
    · rw [if_pos h, if_neg (Nat.not_le.mpr h), State.recvEntry?_of_ends (s.again_ends ..), he]
    · rw [if_neg h, if_pos (Nat.not_lt.mp h), State.recvEntry?_freed]

end Sys2Proof.Machine

/-! # Drains and fabric time (03 R70, R78 to R80) -/

namespace Sys2Proof.Machine

theorem dieEvent_next {s : State} (h : s.unit < 16) (t : State) : dieEvent s t = .next t := by
  simp [dieEvent, h]

/-! ## Drains (R70) -/

/-- The classes whose DRAIN markers have come over a link, once one of this class has. -/
def Link.drainsWith (l : Link) (cls : Nat) : List Nat := if cls ∈ l.drains then l.drains else l.drains ++ [cls]

section
variable {die d : Nat} {p : Packet} {s : State} (hd : neighbourDim (s.nid die) p.src.toNat = some d)
include hd

theorem exec_drain {ch : BitVec 3} (hi : (.drain die ch p : Instr).problem = none) : exec (.drain die ch p) s = .next (
    if ((s.link die d).drainsWith (classOf ch)).length < 3 then
      s.onLink die d fun l => { l with drains := (s.link die d).drainsWith (classOf ch) }
    else (s.onLink die d fun l => { l with drains := [] }).originate die 2 { dst := p.src, type := 0x15 }) := by
  refine (event_next hi s _).trans ?_
  simp only [hd, List.contains_iff_mem]
  rfl

theorem exec_drainack (hi : (.drainack die p : Instr).problem = none) (hl : (s.link die d).draining) :
    exec (.drainack die p) s = .next (((s.onLink die d fun l =>
      { l with draining := false, dactive := l.dactive && l.state != .active, detourWrites := [] }).resendHeld die d).writeDetours
        die d (s.link die d).detourWrites) := by
  refine (event_next hi s _).trans ?_
  simp only [hd, hl, Bool.not_true, Bool.false_eq_true, if_false]

end

/-- Where nothing drains, the packets held for a link go, and none is left. -/
theorem State.resendHeld_spec {s : State} {i d : Nat} (h : (s.link i d).draining = false) : ∃ s1 : State,
    s.resendHeld i d = (s.link i d).held.foldl (fun s o => s.placeOn i d o) s1 ∧ s1 = { s with dies := s1.dies } ∧
      s1.link i d = { s.link i d with held := [] } := by
  unfold State.resendHeld
  rcases hh : (s.link i d).held with - | ⟨o, r⟩
  · refine ⟨s, by simp [hh], rfl, ?_⟩
    rw [← hh]
  · refine ⟨s.onLink i d fun l => { l with held := [] }, by simp [hh, h], rfl, State.link_onLink_same ..⟩

/-! ## Time stamps (R79) -/

theorem Fabric.length_stamp (f : Fabric) : f.stamp.length = 10 := by
  simp [Fabric.stamp, toLE_length]

/-- A stamp begins with the FTC. -/
theorem Fabric.field_stamp (f : Fabric) : field f.stamp 0 8 = f.ftc.toNat := by
  rw [Fabric.stamp, field_append_left (by simp [toLE_length]), field_toLE]
  exact Nat.mod_eq_of_lt f.ftc.isLt

/-! ## TSYNC -/

theorem exec_tsync {die : Nat} {p : Packet} {s : State} (hi : (.tsync die p : Instr).problem = none) (hp : p.payload.length = 10) :
    exec (.tsync die p) s = .next (s.originate die 2
      { dst := p.src, type := 0x17, payload := (s.die die).fab.stamp ++ (s.die die).fab.stamp }) := by
  refine (event_next hi s _).trans ?_
  simp only [hp, ne_eq, not_true_eq_false, if_false]

/-- A node as its TSYNC leaves over dimension b: the sample begins, and one that never came ends the run of valid ones. -/
def State.beginSample (s : State) (i b : Nat) : State :=
  (s.again i .ftcSyncPeriod).onDie i fun d => d.onFab fun f =>
    { f with parent := BitVec.ofNat 4 b, sample := some (f.picos, (s.link i b).remapping.isSome), syncAt := f.ftc.toNat
             good := if f.sample.isSome then 0 else f.good }

section
variable {s : State} (hu : s.unit < 16) (hm : s.nid s.unit ≠ s.master)
include hu hm

theorem exec_ftcSyncPeriod {b : Nat} (hdue : (s.die s.unit).fab.syncAt + 100000 ≤ s.ftc s.unit)
    (hvalid : s.ftc s.unit ≤ (s.die s.unit).fab.lastSample + 10000000) (hb : s.parentDim s.unit = some b) :
    exec .ftcSyncPeriod s = .next ((s.beginSample s.unit b).originate s.unit 2
      { dst := BitVec.ofNat 14 (s.nid s.unit ^^^ 2 ^ b), type := 0x16, payload := (s.die s.unit).fab.stamp }) := by
  have hgo : ¬ (s.nid s.unit = s.master ∨ s.ftc s.unit < (s.die s.unit).fab.syncAt + 100000) := by
    rintro (h | h)
    · exact hm h
    · omega
  refine (dieEvent_next hu _).trans ?_
  simp only [if_neg hgo, if_neg (Nat.not_lt.mpr hvalid), hb]
  rfl

theorem exec_ftcSampleTimeout (h : (s.die s.unit).fab.lastSample + 10000000 < s.ftc s.unit) :
    exec .ftcSampleTimeout s =
      .next (s.onDie s.unit fun d => d.onFab fun f => { f with unsync := true, good := 0 }) := by
  have hgo : ¬ (s.nid s.unit = s.master ∨ s.ftc s.unit ≤ (s.die s.unit).fab.lastSample + 10000000) := by
    rintro (h' | h')
    · exact hm h'
    · omega
  exact (dieEvent_next hu _).trans (congrArg _ (if_neg hgo))

end

theorem State.beginSample_agenda (s : State) (i b : Nat) :
    { unit := i, instr := .ftcSyncPeriod } ∈ (s.beginSample i b).agenda := s.mem_again i _

theorem State.beginSample_fab (s : State) (i b : Nat) : ((s.beginSample i b).die i).fab =
    { (s.die i).fab with
      parent := BitVec.ofNat 4 b, sample := some ((s.die i).fab.picos, (s.link i b).remapping.isSome), syncAt := s.ftc i
      good := if (s.die i).fab.sample.isSome then 0 else (s.die i).fab.good } := by
  rw [State.beginSample, State.die_onDie_same, State.die_congr (s.again_dies ..)]
  rfl

/-! ## An offset is taken (R80) -/

/-- What every offset changes, whatever its size. -/
theorem Fabric.adjust_counts (f : Fabric) (o : Int) : (f.adjust o).sample = f.sample ∧
    (f.adjust o).lastSample = (if 1000000 < o then (f.picos + o.toNat) / 1000 else f.ftc.toNat) ∧
    (f.adjust o).offset = BitVec.ofInt 32 o ∧ (f.adjust o).good = f.good + 1 ∧
    (f.adjust o).unsync = (f.unsync && decide (f.good = 0)) := by
  unfold Fabric.adjust
  dsimp only
  split
  · exact ⟨rfl, rfl, rfl, rfl, rfl⟩
  · split <;> exact ⟨rfl, rfl, rfl, rfl, rfl⟩

/-- More than a microsecond ahead, the counter steps by the offset. -/
theorem Fabric.adjust_steps {f : Fabric} {o : Int} (h : 1000000 < o) (hlt : f.picos + o.toNat < 2 ^ 64 * 1000) :
    ((f.adjust o).picos : Int) = f.picos + o := by
  have hpicos : (f.adjust o).picos = (BitVec.ofNat 64 ((f.picos + o.toNat) / 1000)).toNat * 1000 + (f.picos + o.toNat) % 1000 := by
    rw [Fabric.adjust, if_pos h]
    rfl
  have hfits : (f.picos + o.toNat) / 1000 < 2 ^ 64 := by omega
  rw [hpicos, BitVec.toNat_ofNat, Nat.mod_eq_of_lt hfits]
  omega

/-- More than a microsecond behind, it holds. -/
theorem Fabric.adjust_holds (f : Fabric) {o : Int} (h : o < -1000000) :
    (f.adjust o).hold = (-o).toNat ∧ (f.adjust o).ftc = f.ftc := by
  rw [Fabric.adjust, if_neg (by omega), if_pos h]
  exact ⟨rfl, rfl⟩

theorem Fabric.adjust_slews (f : Fabric) {o : Int} (hlo : -1000000 ≤ o) (hhi : o ≤ 1000000) :
    (f.adjust o).slewUp = o.toNat ∧ (f.adjust o).slewDown = (-o).toNat ∧ (f.adjust o).ftc = f.ftc := by
  rw [Fabric.adjust, if_neg (by omega), if_neg (by omega)]
  exact ⟨rfl, rfl, rfl⟩

/-! ## TSYNCR -/

/-- The offset an answer gives a node whose TSYNC left at t1 (R79). -/
def Fabric.offsetOf (f : Fabric) (t1 : Nat) (b : List Byte) : Int :=
  ((stampPs b 0 - t1 : Int) - (f.picos - stampPs b 10)) / 2

/-- Whether a packet of the sample was replayed, detoured or delayed. -/
def dirtySample (clean spoiled : Bool) (p : Packet) : Bool := !clean || spoiled || p.retx || p.ddim != 0 || p.edim != 0

theorem dirtySample_iff {clean spoiled : Bool} {p : Packet} :
    dirtySample clean spoiled p ↔ clean = false ∨ spoiled ∨ p.retx ∨ p.ddim ≠ 0 ∨ p.edim ≠ 0 := by
  simp [dirtySample, or_assoc]

/-- Change a die's fabric once its sample has ended. -/
def State.endSample (s : State) (i : Nat) (f : Fabric → Fabric) : State :=
  (s.onDie i fun d => d.onFab fun f => { f with sample := none }).onDie i fun d => d.onFab f

theorem State.endSample_package (s : State) (i : Nat) (f : Fabric → Fabric) :
    s.endSample i f = { s with dies := (s.endSample i f).dies } := rfl

theorem State.endSample_fab (s : State) (i : Nat) (f : Fabric → Fabric) :
    ((s.endSample i f).die i).fab = f { (s.die i).fab with sample := none } := by
  rw [State.endSample, State.die_onDie_same, State.die_onDie_same]
  rfl

section
variable {die : Nat} {p : Packet} {clean : Bool} {s : State} (hi : (.tsyncr die p clean : Instr).problem = none)
include hi

/-- No sample is under way. -/
theorem exec_tsyncr_unasked (h : (s.die die).fab.sample = none) : exec (.tsyncr die p clean) s = .next s := by
  refine (event_next hi s _).trans ?_
  simp only [h]

theorem exec_tsyncr_sampling {t1 : Nat} {spoiled : Bool} (h : (s.die die).fab.sample = some (t1, spoiled)) :
    exec (.tsyncr die p clean) s = .next (
      if p.payload.length ≠ 20 then s.countBad die
      else if p.src.toNat ≠ s.nid die ^^^ 2 ^ (s.die die).fab.parent.toNat then s
      else if dirtySample clean spoiled p then s.endSample die fun f => { f with good := 0 }
      else s.endSample die fun f => f.adjust ((s.die die).fab.offsetOf t1 p.payload)) := by
  refine (event_next hi s _).trans ?_
  simp only [h]
  rfl

variable {t1 : Nat} {spoiled : Bool} (h : (s.die die).fab.sample = some (t1, spoiled)) (hlen : p.payload.length = 20)
  (hsrc : p.src.toNat = s.nid die ^^^ 2 ^ (s.die die).fab.parent.toNat)
include h hlen hsrc

theorem exec_tsyncr_clean (hclean : dirtySample clean spoiled p = false) : exec (.tsyncr die p clean) s =
    .next (s.endSample die fun f => f.adjust ((s.die die).fab.offsetOf t1 p.payload)) := by
  rw [exec_tsyncr_sampling hi h, if_neg (Decidable.not_not.mpr hlen), if_neg (Decidable.not_not.mpr hsrc), if_neg (by simp [hclean])]

theorem exec_tsyncr_dirty (hdirty : dirtySample clean spoiled p) : exec (.tsyncr die p clean) s =
    .next (s.endSample die fun f => { f with good := 0 }) := by
  rw [exec_tsyncr_sampling hi h, if_neg (Decidable.not_not.mpr hlen), if_neg (Decidable.not_not.mpr hsrc), if_pos hdirty]

end

/-- An answer that is not clean moves no clock; where it is the parent's, it ends the sample and the run of valid ones. -/
theorem exec_tsyncr_unclean {die : Nat} {p : Packet} {clean : Bool} {s : State} (hi : (.tsyncr die p clean : Instr).problem = none)
    (hdirty : ∀ x, (s.die die).fab.sample = some x → dirtySample clean x.2 p) :
    ∃ t : State, exec (.tsyncr die p clean) s = .next t ∧ t.mem = s.mem ∧ (t.die die).fab.ftc = (s.die die).fab.ftc ∧
      (t.die die).fab.hold = (s.die die).fab.hold ∧ (t.die die).fab.lastSample = (s.die die).fab.lastSample ∧
      ((s.die die).fab.sample.isSome → p.payload.length = 20 →
        p.src.toNat = s.nid die ^^^ 2 ^ (s.die die).fab.parent.toNat →
        (t.die die).fab.good = 0 ∧ (t.die die).fab.sample = none) := by
  rcases h : (s.die die).fab.sample with - | ⟨t1, spoiled⟩
  · exact ⟨s, exec_tsyncr_unasked hi h, rfl, rfl, rfl, rfl, fun hs => by cases hs⟩
  by_cases hlen : p.payload.length = 20
  · by_cases hsrc : p.src.toNat = s.nid die ^^^ 2 ^ (s.die die).fab.parent.toNat
    · refine ⟨_, exec_tsyncr_dirty hi h hlen hsrc (hdirty _ h), rfl, ?_⟩
      rw [State.endSample_fab]
      exact ⟨rfl, rfl, rfl, fun _ _ _ => ⟨rfl, rfl⟩⟩
    · have he := exec_tsyncr_sampling (clean := clean) hi h
      rw [if_neg (Decidable.not_not.mpr hlen), if_pos hsrc] at he
      exact ⟨s, he, rfl, rfl, rfl, rfl, fun _ _ hs => absurd hs hsrc⟩
  · have he := exec_tsyncr_sampling (clean := clean) hi h
    rw [if_pos hlen] at he
    refine ⟨_, he, rfl, ?_⟩
    rw [State.countBad, State.die_onDie_same]
    exact ⟨rfl, rfl, rfl, fun _ hl => absurd hl hlen⟩

/-! ## O36 -/

/-- Settles O36: each row's equation above gives its next state, and `Fabric.adjust` the three ways an offset is taken. -/
theorem drainsAndFabricTime : Obligations.DrainsAndFabricTime := by
  unfold Obligations.DrainsAndFabricTime
  refine ⟨fun die d ch p s hi hd => ?_, fun die d p s hi hd hl => ?_, fun die p s hi hp => ?_, fun b s hu hm hdue hvalid hb => ?_,
    fun s hu hm h => ?_, ?_, fun die p clean s hi hbad => ?_⟩
  · intro old seen
    have hx := exec_drain hd hi (ch := ch)
    refine ⟨fun h => ⟨_, hx.trans (congrArg _ (if_pos h)), rfl, State.link_onLink_same ..⟩,
      fun h => ⟨{ dst := p.src, type := 0x15 }, rfl, rfl, rfl, ?_⟩⟩
    exact hx.trans (congrArg _ (if_neg (Nat.not_lt.mpr h)))
  · have hlink := s.link_onLink_same die d fun l =>
      { l with draining := false, dactive := l.dactive && l.state != .active, detourWrites := [] }
    obtain ⟨s1, hsent, hdies, hs1⟩ := State.resendHeld_spec (congrArg Link.draining hlink)
    rw [hlink] at hsent hs1
    exact ⟨s1, (exec_drainack hd hi hl).trans (by rw [hsent]), hdies, hs1⟩
  · refine ⟨_, rfl, rfl, ?_, ?_, ?_, exec_tsync hi hp⟩
    · simp [Fabric.length_stamp]
    · rw [field_append_left (by rw [Fabric.length_stamp]; decide), Fabric.field_stamp]
    · rw [field_append_right (Nat.le_of_eq (Fabric.length_stamp _)), Fabric.length_stamp, Fabric.field_stamp]
  · exact ⟨_, _, exec_ftcSyncPeriod hu hm hdue hvalid hb, rfl, rfl, Fabric.field_stamp _, s.beginSample_agenda _ b,
      s.beginSample_fab _ b⟩
  · refine ⟨_, exec_ftcSampleTimeout hu hm h, rfl, ?_⟩
    rw [State.die_onDie_same]
    rfl
  · intro die t1 p s hi h hlen hsrc hretx hddim hedim f offset
    have hclean : dirtySample true false p = false := by simp [dirtySample, hretx, hddim, hedim]
    refine ⟨_, exec_tsyncr_clean hi h hlen hsrc hclean, s.endSample_package .., ?_⟩
    rw [State.endSample_fab]
    obtain ⟨hsample, hlast, hoffset, hgood, hunsync⟩ := Fabric.adjust_counts { f with sample := none } offset
    exact ⟨hsample, hlast, hoffset, hgood, hunsync, Fabric.adjust_steps (f := { f with sample := none }), Fabric.adjust_holds _,
       Fabric.adjust_slews _⟩
  · refine exec_tsyncr_unclean hi fun x hx => dirtySample_iff.mpr ?_
    rcases hbad with h | h | h | h | ⟨y, h⟩
    · exact .inl h
    · exact .inr (.inr (.inl h))
    · exact .inr (.inr (.inr (.inl h)))
    · exact .inr (.inr (.inr (.inr h)))
    · exact .inr (.inl (congrArg Prod.snd (Option.some.inj (hx.symm.trans h))))

end Sys2Proof.Machine

/-! # The state after reset (00 R6, 05 R113, R125) -/

namespace Sys2Proof.Machine

/-- Settles O58: each field of the state after reset has the value the model gives it, and what is not listed its default. -/
theorem resetState : Obligations.ResetState := by
  refine ⟨State.reset_wf, rfl, rfl, rfl, rfl, rfl, rfl, fun _ => rfl, rfl, rfl, rfl, fun i => ⟨rfl, rfl, fun n => ?_, rfl⟩,
    rfl, rfl, rfl, rfl, rfl⟩
  show (if n = 0 then 0 else _) = _
  split <;> rfl

end Sys2Proof.Machine

/-! # The steps of a start (05 R113, R114, Table 5.3)

One equation for each step, then what the steps that change more than their number leave, and how a start fails. -/

namespace Sys2Proof.Machine

/-! ## Memory that loses addresses -/

/-- A map without the keys that fail a test. -/
theorem FMap.get?_filter {α : Type} (m : FMap α) (p : Nat → Bool) (i : Nat) :
    FMap.get? (m.filter fun x => p x.1) i = if p i then FMap.get? m i else none := by
  induction m with
  | nil => simp
  | cons x r ih =>
    obtain ⟨k, v⟩ := x
    by_cases hp : p k <;> by_cases hk : k = i
    · subst hk
      simp [FMap.get?, hp]
    · simp [FMap.get?, hp, hk, ih]
    · subst hk
      simp [hp, ih]
    · simp [FMap.get?, hp, hk, ih]

theorem State.rawByte_filter {s t : State} {p : Nat → Bool} (h : t.mem = s.mem.filter fun x => p x.1) (a : Nat) :
    t.rawByte a = if p a then s.rawByte a else 0 := by
  rw [State.rawByte, h, FMap.get, FMap.get?_filter]
  split <;> rfl

/-! ## The verified-image cache (05 R110, R111) -/

theorem Trust.mem_purge {t : Trust} {firmware : Bool} {e : CacheEntry} :
    e ∈ (t.purge firmware).cache ↔ e ∈ t.cache ∧ (e.firmware = firmware → t.floor firmware ≤ e.svn) := by
  simp only [Trust.purge, List.mem_filter, Bool.not_eq_true', Bool.and_eq_false_iff, beq_eq_false_iff_ne, decide_eq_false_iff_not,
    Nat.not_lt]
  exact and_congr_right fun _ => Decidable.imp_iff_not_or.symm

/-- Both purges leave what is at or above the floor of its kind. -/
theorem Trust.mem_purge_purge {t : Trust} {e : CacheEntry} :
    e ∈ ((t.purge true).purge false).cache ↔ e ∈ t.cache ∧ t.floor e.firmware ≤ e.svn := by
  have hf : (t.purge true).floor false = t.floor false := rfl
  rw [Trust.mem_purge, Trust.mem_purge, hf]
  cases e.firmware <;> simp

theorem Trust.lookup_none {t : Trust} {hash : List Byte} (h : ∀ e ∈ t.cache, e.firmware → e.hash ≠ hash) :
    t.lookup true hash (fun _ => true) = .none := by
  have hn : (t.cache.find? fun e => e.firmware == true && e.hash == hash && true) = none := by
    simpa using h
  simp only [Trust.lookup, hn]

/-! ## A start in progress -/

theorem exec_startStepComplete (r : StepResult) (s : State) : exec (.startStepComplete r) s = .next (s.startStep r) :=
  event_next rfl s _

theorem State.startStep_idle {s : State} (r : StepResult) (h₁ : s.trust.start ≠ 1) (h₂ : s.trust.start ≠ 2) :
    s.startStep r = s :=
  if_pos ⟨h₁, h₂⟩

/-- What SVNCOMMIT has noted advances the fuse counter, and stale firmware entries are purged (R109, R111). -/
def Trust.takeCommit (t : Trust) : Trust :=
  match t.commit with
  | some v => if v ≤ t.fwSvn then { t with fuseSvn := max t.fuseSvn v, commit := none }.purge true else t
  | none => t

/-- Identity and attestation keys are derived (R107). -/
def Trust.derived (t : Trust) : Trust :=
  { t with idKey := Config.deriveKey (Config.fuse 0) [1]
           attKey := Config.deriveKey (Config.fuse 0 ++ t.fwHash ++ toLE 1 t.fuseSvn) [2] }

/-- The atrium, with its windows and copies, and LPDDR-5X are zeroed. -/
def State.zeroed (s : State) : State :=
  { s with mem := s.mem.filter fun c => decide (2 * 2 ^ 52 ≤ c.1), fmtLines := [], remote := [], pool := []
           poisonLines := s.poisonLines.filter fun l => decide (2 * 2 ^ 52 ≤ 64 * l) }

section
variable {s : State} (hs : s.trust.start = 1 ∨ s.trust.start = 2) (r : StepResult)
include hs

theorem State.not_idle_of_start : ¬ (s.trust.start ≠ 1 ∧ s.trust.start ≠ 2) := fun h => hs.elim h.1 h.2

theorem State.startStep_powerUp (hk : s.trust.step = 1) : s.startStep r =
    if r.dieFailed then s.failStart 7 else if staggerBoard ≤ s.trust.begun then s.nextStep else s := by
  simp only [State.startStep, if_neg (not_idle_of_start hs), hk]

theorem State.startStep_fuses (hk : s.trust.step = 2) : s.startStep r =
    if s.trust.cold ∧ r.fuseParity then s.failStart 6 else s.nextStep := by
  simp only [State.startStep, if_neg (not_idle_of_start hs), hk, Bool.and_eq_true]

theorem State.startStep_image_cold (hk : s.trust.step = 3) (hcold : s.trust.cold) : s.startStep r =
    if Config.firmwareSigned s.trust.flash then
      (s.onTrust fun t =>
        { t with fwHash := Config.shake256 s.trust.flash, fwSvn := Config.firmwareSvn t.flash }).nextStep
    else s.failStart 1 := by
  simp only [State.startStep, if_neg (not_idle_of_start hs), hk, hcold, if_true]

theorem State.startStep_image_unknown (hk : s.trust.step = 3) (hwarm : s.trust.cold = false)
    (h : ∀ e ∈ s.trust.cache, e.firmware → e.hash ≠ Config.shake256 s.trust.flash) : s.startStep r = s.failStart 5 := by
  simp only [State.startStep, if_neg (not_idle_of_start hs), hk, hwarm, Trust.lookup_none h, Bool.false_eq_true, if_false]

theorem State.startStep_svn_cold (hk : s.trust.step = 4) (hcold : s.trust.cold) : s.startStep r =
    if s.trust.fwSvn < s.trust.fuseSvn then s.failStart 2
    else
      (s.onTrust fun t => t.takeCommit.addEntry
        { firmware := true, hash := t.takeCommit.fwHash, svn := t.takeCommit.fwSvn, key := Config.fuse 1 }).nextStep := by
  simp only [State.startStep, if_neg (not_idle_of_start hs), hk, hcold, Bool.not_true, Bool.false_eq_true, if_false]
  rfl

theorem State.startStep_svn_warm (hk : s.trust.step = 4) (hwarm : s.trust.cold = false) : s.startStep r =
    (s.onTrust fun t => (t.purge true).purge false).nextStep := by
  simp only [State.startStep, if_neg (not_idle_of_start hs), hk, hwarm, Bool.not_false, if_true]

theorem State.startStep_dram (hk : s.trust.step = 5) : s.startStep r =
    if r.dramFailed then s.failStart (if s.trust.cold then 3 else 4) else s.nextStep := by
  simp only [State.startStep, if_neg (not_idle_of_start hs), hk]

theorem State.startStep_zeroes (hk : s.trust.step = 6) : s.startStep r = s.zeroed.nextStep := by
  simp only [State.startStep, if_neg (not_idle_of_start hs), hk]
  rfl

theorem State.startStep_links (hk : s.trust.step = 7) : s.startStep r =
    if s.trust.begun ≤ staggerBoard ∨ s.training 0 7 then s else s.nextStep := by
  simp only [State.startStep, if_neg (not_idle_of_start hs), hk]

theorem State.startStep_lasers (hk : s.trust.step = 8) : s.startStep r =
    if s.trust.stagger.isSome ∨ s.training 7 14 then s else s.nextStep := by
  simp only [State.startStep, if_neg (not_idle_of_start hs), hk]

theorem State.startStep_clears (hk : s.trust.step = 9) : s.startStep r = s.nextStep := by
  simp only [State.startStep, if_neg (not_idle_of_start hs), hk]

theorem State.startStep_derives (hk : s.trust.step = 10) : s.startStep r =
    (if s.trust.cold ∧ !s.trust.faFuse then s.onTrust Trust.derived else s).beginSync.nextStep := by
  simp only [State.startStep, if_neg (not_idle_of_start hs), hk]
  split <;> rfl

theorem State.startStep_syncs (hk : s.trust.step = 11) : s.startStep r = if s.synced then s.beginLog.nextStep else s := by
  simp only [State.startStep, if_neg (not_idle_of_start hs), hk]

theorem State.startStep_ends (hk : s.trust.step = 12) : s.startStep r = s.endStart r := by
  simp only [State.startStep, if_neg (not_idle_of_start hs), hk]

end

/-! ## What the steps leave -/

/-- A step that ends at a known number. -/
theorem State.nextStep_step {s : State} {n : Nat} (h : s.trust.step = n) : s.nextStep.trust.step = n + 1 :=
  congrArg (· + 1) h

theorem Trust.takeCommit_commits {t : Trust} {v : Nat} (h : t.commit = some v) (hv : v ≤ t.fwSvn) :
    t.takeCommit.fuseSvn = max t.fuseSvn v ∧ t.takeCommit.commit = none := by
  simp only [Trust.takeCommit, h, if_pos hv]
  exact ⟨rfl, rfl⟩

theorem Trust.takeCommit_none {t : Trust} (h : t.commit = none) : t.takeCommit = t := by
  simp only [Trust.takeCommit, h]

theorem Trust.takeCommit_step (t : Trust) : t.takeCommit.step = t.step := by
  unfold Trust.takeCommit
  split
  · split <;> rfl
  · rfl

theorem State.zeroed_rawByte (s : State) (a : Nat) : s.zeroed.rawByte a = if a < 2 * 2 ^ 52 then 0 else s.rawByte a := by
  rw [State.rawByte_filter (s := s) (p := fun a => decide (2 * 2 ^ 52 ≤ a)) rfl]
  by_cases h : a < 2 * 2 ^ 52
  · rw [if_pos h, if_neg (by simpa using h)]
  · rw [if_neg h, if_pos (by simpa using h)]

@[simp] theorem State.beginSync_trust (s : State) : s.beginSync.trust = s.trust := by
  unfold State.beginSync
  generalize List.range 16 = l
  exact (foldl_keep _ State.trust (fun s i => s.again_trust i .ftcSyncPeriod) l _).trans (State.allDies_trust ..)

/-- The log begins with the firmware and the configuration; a debug unlock may follow (R112). -/
theorem State.beginLog_trust (s : State) :
    s.beginLog.trust.step = s.trust.step ∧ 2 ≤ s.beginLog.trust.mlog.length := by
  unfold State.beginLog
  dsimp only
  split <;> simp [State.measure, State.drawBytes]

/-! ## The end of a start (05 Table 5.3 step 12) -/

/-- Pinned windows as firmware asks for them, as far as 8 GiB go. -/
theorem foldl_windows_sum (more : List (Nat × Nat)) {ws : List (Nat × Nat)} (h : (ws.map (·.2)).sum ≤ 128) :
    ((more.foldl (fun ws x => if (ws.map (·.2)).sum + x.2 ≤ 128 then ws ++ [x] else ws) ws).map (·.2)).sum ≤ 128 := by
  induction more generalizing ws with
  | nil => exact h
  | cons x r ih =>
    rw [List.foldl_cons]
    split
    · next hx => exact ih (by simpa using hx)
    · exact ih h

theorem sum_map_le {α : Type} {f g : α → Nat} (h : ∀ x, f x ≤ g x) (l : List α) : (l.map f).sum ≤ (l.map g).sum := by
  induction l with
  | nil => exact Nat.le_refl 0
  | cons x r ih =>
    rw [List.map_cons, List.map_cons, List.sum_cons, List.sum_cons]
    exact Nat.add_le_add (h x) ih

theorem Trust.windowsAfter_sum (t : Trust) (more : List (Nat × Nat)) :
    ((t.windowsAfter more).map fun x => x.2.size.toNat).sum ≤ 128 := by
  unfold Trust.windowsAfter
  have h₀ : (([(0, max 1 (min 32 t.arenaSize.toNat)), (max 1 (min 32 t.arenaSize.toNat), 4)] : List (Nat × Nat)).map
      (·.2)).sum ≤ 128 := by
    simp only [List.map_cons, List.map_nil, List.sum_cons, List.sum_nil]
    omega
  have hall := foldl_windows_sum (more.take 6) h₀
  dsimp only
  generalize List.foldl _ _ _ = all at hall
  calc _ = (all.zipIdx.map fun x => (BitVec.ofNat 12 x.1.2).toNat).sum := by rw [List.map_map]; rfl
    _ ≤ (all.zipIdx.map fun x => x.1.2).sum := sum_map_le (fun x => by
        rw [BitVec.toNat_ofNat]
        exact Nat.mod_le _ _) _
    _ = (all.map (·.2)).sum := by
        rw [← List.zipIdx_map_fst 0 all, List.map_map, List.zipIdx_map_fst]
        rfl
    _ ≤ 128 := hall

/-- A queue whose EN is clear. -/
def Queue.disabled (x : Queue) : Queue := { x with en := false }

/-- No queue is enabled once each listed one is disabled. -/
theorem State.queue_disabled {s t : State} (h : t.queues = s.queues.map fun q => (q.1, q.2.disabled)) (q : Nat) :
    (t.queue q).en = false := by
  rw [State.queue, h, FMap.get, FMap.get?_map]
  cases FMap.get? s.queues q <;> rfl

/-- Beside vector 65. -/
theorem State.endStart_spec (s : State) (r : StepResult) : ∃ v65At v65Pending,
    (s.endStart r).trust =
      { s.trust with
        dbg := s.trust.dbgAfter, scope := if s.trust.dbgAfter = 1 then s.trust.scopeNext else 0, dbgNext := none, keys := []
        locked := false, start := 0, step := 0, ps := 0, failcnt := if s.trust.cold then 0 else s.trust.failcnt
        lasterr := if s.trust.cold then 0 else s.trust.lasterr, v65At, v65Pending } ∧
    (s.endStart r).contexts = [] ∧ (s.endStart r).objects = [] ∧ (s.endStart r).pwin = s.trust.windowsAfter r.windows ∧
    (s.endStart r).queues = s.queues.map fun q => (q.1, q.2.disabled) := by
  unfold State.endStart
  dsimp only
  generalize hu : State.onTrust _ _ = u
  obtain ⟨_, _, a, p, e⟩ := u.mgmtEvent_spec
  rw [e]
  subst hu
  exact ⟨a, p, rfl, rfl, rfl, rfl, rfl⟩

/-! ## A start that fails (05 R114) -/

/-- The failure has its code and the host is told. -/
def State.failed (s : State) (code : Nat) : State := (s.onTrust fun t => { t with lasterr := code }).mgmtEvent

theorem State.mgmtEvent_trust (s : State) : ∃ v65At v65Pending, s.mgmtEvent.trust = { s.trust with v65At, v65Pending } := by
  obtain ⟨_, _, a, p, e⟩ := s.mgmtEvent_spec
  exact ⟨a, p, by rw [e]⟩

theorem State.failStart_eq (s : State) (code : Nat) : s.failStart code =
    if !(s.failed code).trust.cold then (s.failed code).beginCold
    else
      let n := (s.failed code).trust.failcnt + 1
      let s := (s.failed code).onTrust fun t => { t with failcnt := n }
      if 3 ≤ n then
        ((s.quiesce.allDies Die.dark).onTrust fun t => { t with start := 3, step := 0, stagger := none, recImage := [] }).mgmtEvent
      else s.beginCold := rfl

theorem State.failStart_warm {s : State} (h : s.trust.cold = false) (code : Nat) :
    (s.failStart code).trust.start = 1 ∧ (s.failStart code).trust.cold ∧ (s.failStart code).trust.step = 1 ∧
      (s.failStart code).trust.failcnt = s.trust.failcnt ∧ (s.failStart code).trust.lasterr = code := by
  obtain ⟨a, p, e⟩ := (s.onTrust fun t => { t with lasterr := code }).mgmtEvent_trust
  have hf : (s.failed code).trust = _ := e
  have hc : (!(s.failed code).trust.cold) = true := by
    rw [hf]
    simp [h]
  rw [State.failStart_eq, if_pos hc, State.beginCold_trust, hf]
  exact ⟨rfl, rfl, rfl, rfl, rfl⟩

theorem State.failStart_cold {s : State} (h : s.trust.cold) (code : Nat) :
    (s.failStart code).trust.failcnt = s.trust.failcnt + 1 ∧
      (s.failStart code).trust.start = (if 3 ≤ s.trust.failcnt + 1 then 3 else 1) ∧
      (s.failStart code).trust.lasterr = code := by
  obtain ⟨a, p, e⟩ := (s.onTrust fun t => { t with lasterr := code }).mgmtEvent_trust
  have hf : (s.failed code).trust = _ := e
  have hc : ¬ (!(s.failed code).trust.cold) = true := by
    rw [hf]
    simp [h]
  have hn : (s.failed code).trust.failcnt = s.trust.failcnt := by rw [hf]; rfl
  rw [State.failStart_eq, if_neg hc, hn]
  dsimp only
  by_cases h3 : 3 ≤ s.trust.failcnt + 1
  · rw [if_pos h3, if_pos h3]
    generalize hu : State.onTrust (State.allDies _ _) _ = u
    obtain ⟨_, _, e'⟩ := u.mgmtEvent_trust
    rw [e', ← hu, State.onTrust_trust, State.allDies_trust, State.quiesce_trust, State.onTrust_trust, hf]
    exact ⟨rfl, rfl, rfl⟩
  · rw [if_neg h3, if_neg h3, State.beginCold_trust, State.onTrust_trust, hf]
    exact ⟨rfl, rfl, rfl⟩

/-! ## O46 -/

/-- A step whose outcome a check decides. -/
theorem next_ite {p : Prop} [Decidable p] {a b : State} :
    if p then (.next (if p then a else b) : Host.Outcome State Fault Refusal) = .next a
    else (.next (if p then a else b) : Host.Outcome State Fault Refusal) = .next b := by
  split <;> rfl

/-- Settles O46: the equation of each step, one clause of the statement after the other. -/
theorem startSteps : Obligations.StartSteps := by
  unfold Obligations.StartSteps
  refine ⟨fun r s h₁ h₂ => ?_, fun r s hs => ?_, fun s code => ⟨fun hw => ?_, fun hc => ?_, ?_, State.failStart_mem s code⟩⟩
  · rw [exec_startStepComplete, State.startStep_idle r h₁ h₂]
  · rw [exec_startStepComplete]
    refine ⟨fun hk => ⟨fun hd => ?_, fun hd => ?_⟩, fun hk => ?_, fun hk hc => ⟨fun hf => ?_, fun hf => ?_⟩, fun hk hw hn => ?_,
      fun hk hc hl => ?_, fun hk hc hl => ?_, fun hk hw => ?_, fun hk => ?_, fun hk => ?_, fun hk => ?_, fun hk => ?_, fun hk => ?_,
      fun hk => ?_, fun hk hy => ?_, fun hk hy => ?_, fun hk => ?_⟩
    · rw [State.startStep_powerUp hs r hk, if_pos hd]
    · rw [State.startStep_powerUp hs r hk, hd]
      exact next_ite
    · rw [State.startStep_fuses hs r hk]
      exact next_ite
    · rw [State.startStep_image_cold hs r hk hc, hf]
      rfl
    · rw [State.startStep_image_cold hs r hk hc, if_pos hf]
      have h4 : s.trust.step + 1 = 4 := congrArg (· + 1) hk
      rw [← h4]
      rfl
    · rw [State.startStep_image_unknown hs r hk hw hn]
    · rw [State.startStep_svn_cold hs r hk hc, if_pos hl]
    · rw [State.startStep_svn_cold hs r hk hc, if_neg (Nat.not_lt.mpr hl)]
      refine ⟨_, rfl, State.nextStep_step (s.trust.takeCommit_step.trans hk), rfl, fun v hv hle => ?_, fun hn => ?_⟩
      · exact Trust.takeCommit_commits hv hle
      · show s.trust.takeCommit.fuseSvn = _
        rw [Trust.takeCommit_none hn]
    · rw [State.startStep_svn_warm hs r hk hw]
      exact ⟨_, rfl, State.nextStep_step hk, rfl, fun e => Trust.mem_purge_purge⟩
    · rw [State.startStep_dram hs r hk]
      exact next_ite
    · rw [State.startStep_zeroes hs r hk]
      exact ⟨_, rfl, State.nextStep_step hk, rfl, s.zeroed_rawByte⟩
    · rw [State.startStep_links hs r hk]
      exact next_ite
    · rw [State.startStep_lasers hs r hk]
      exact next_ite
    · rw [State.startStep_clears hs r hk]
      rfl
    · rw [State.startStep_derives hs r hk]
      refine ⟨_, rfl, State.nextStep_step ?_, ?_⟩
      · rw [State.beginSync_trust]
        split <;> exact hk
      · rw [State.nextStep_mem, State.beginSync_mem]
        split <;> rfl
    · rw [State.startStep_syncs hs r hk, hy]
      rfl
    · rw [State.startStep_syncs hs r hk, if_pos hy]
      obtain ⟨hstep, hlog⟩ := s.beginLog_trust
      exact ⟨_, rfl, State.nextStep_step (hstep.trans hk), s.beginLog_mem, hlog⟩
    · rw [State.startStep_ends hs r hk]
      obtain ⟨_, _, htrust, hcontexts, hobjects, hpwin, hqueues⟩ := s.endStart_spec r
      refine ⟨_, rfl, ?_, ?_, ?_, ?_, hcontexts, hobjects, ?_, ?_, State.queue_disabled hqueues, s.endStart_mem r, ?_, fun hc => ?_⟩
      · rw [hpwin]
        exact s.trust.windowsAfter_sum r.windows
      all_goals rw [htrust]
      · rfl
      · exact if_pos hc
  · obtain ⟨hstart, hcold, hstep, hfail, -⟩ := State.failStart_warm hw code
    exact ⟨hstart, hcold, hstep, hfail⟩
  · obtain ⟨hfail, hstart, -⟩ := State.failStart_cold hc code
    exact ⟨hfail, hstart⟩
  · cases hc : s.trust.cold with
    | false => exact (State.failStart_warm hc code).2.2.2.2
    | true => exact (State.failStart_cold hc code).2.2

end Sys2Proof.Machine

/-! # Management and attestation commands (05 R108 to R112, R118 to R120, R125 to R127)

A completion does not read the management core, so each command is its change of that core, then its completion; the
commands that begin a start hand over to `askWarm` and `askCold`. -/

namespace Sys2Proof.Machine

/-! ## Completions do not read the management core -/

section
variable (s : State) (f : Trust → Trust)

theorem State.homeByteWrite_onTrust (pa : Nat) (b : Byte) :
    (s.onTrust f).homeByteWrite pa b = (s.homeByteWrite pa b).onTrust f := by
  have hw : (s.onTrust f).window? pa = s.window? pa := rfl
  unfold State.homeByteWrite
  rw [State.onTrust_remote, hw]
  split
  · split <;> rfl
  · split
    · rfl
    · split <;> rfl

theorem State.homeWrite_onTrust (ws : List (Nat × Byte)) : (s.onTrust f).homeWrite ws = (s.homeWrite ws).onTrust f := by
  have h := foldl_commute (fun s (w : Nat × Byte) => State.homeByteWrite s w.1 w.2) (fun s => s.onTrust f)
    (fun s w => s.homeByteWrite_onTrust f w.1 w.2) ws s
  unfold State.homeWrite
  dsimp only at h ⊢
  rw [h]
  rfl

theorem State.complete_mem_onTrust (q : Nat) (cid : BitVec 16) (flags : Byte) (status value : Nat) :
    ((s.onTrust f).complete q cid flags status value).mem = (s.complete q cid flags status value).mem := by
  have hq : (s.onTrust f).queue q = s.queue q := rfl
  unfold State.complete
  dsimp only
  rw [hq, State.homeWrite_onTrust]
  split <;> simp only [State.raise_mem, State.onQueue_mem, State.onTrust_mem]

theorem State.finish_mem_onTrust (q status value : Nat) :
    ((s.onTrust f).finish q status value).mem = (s.finish q status value).mem := by
  have hq : (s.onTrust f).queue q = s.queue q := rfl
  unfold State.finish
  rw [hq]
  split
  · rfl
  · rw [State.release_mem, State.release_mem, State.complete_mem_onTrust]

end

/-! ## Bytes drawn -/

theorem ofLE_lt (b : List Byte) : ofLE b < 256 ^ b.length := by
  induction b with
  | nil => decide
  | cons x r ih =>
    have hx : x.toNat < 256 := x.isLt
    rw [ofLE, List.length_cons, Nat.pow_succ]
    omega

/-- The nonce's 64 bits hold the 8 bytes it is drawn from. -/
theorem State.ofLE_drawBytes (s : State) : ofLE (s.drawBytes 8).1 < 2 ^ 64 :=
  Nat.lt_of_lt_of_eq (ofLE_lt _) (by simp [State.drawBytes])

/-! ## The verified-image cache -/

theorem Trust.addEntry_length (t : Trust) (e : CacheEntry) : (t.addEntry e).cache.length ≤ 64 := by
  simp only [Trust.addEntry, List.length_drop]
  omega

theorem Trust.mem_of_mem_addEntry {t : Trust} {e x : CacheEntry} (h : x ∈ (t.addEntry e).cache) :
    x = e ∨ x ∈ t.cache ∧ ¬ (x.firmware = e.firmware ∧ x.hash = e.hash ∧ x.key = e.key) := by
  have hm := List.mem_of_mem_drop h
  simp only [List.mem_append, List.mem_filter, List.mem_singleton] at hm
  refine hm.symm.imp_right fun ⟨hx, hne⟩ => ⟨hx, ?_⟩
  rintro ⟨hf, hh, hk⟩
  rw [hf, hh, hk, beq_self_eq_true, beq_self_eq_true, beq_self_eq_true] at hne
  exact absurd hne (by decide)

theorem Trust.purge_code (t : Trust) :
    t.purge false = { t with cache := t.cache.filter fun e => e.firmware || decide (t.codefloor ≤ e.svn) } := by
  have h (e : CacheEntry) : (!(e.firmware == false && decide (e.svn < t.floor false))) =
      (e.firmware || decide (t.codefloor ≤ e.svn)) := by
    rw [show t.floor false = t.codefloor from rfl, Bool.eq_iff_iff]
    cases e.firmware <;> simp
  simp only [Trust.purge, h]

/-! ## Commands that change the management core alone -/

section
variable {s : State} {c : Command} (hu : s.unit < 64) (hc : (s.queue s.unit).cmd = some c) (hop : c.op = 8)
include hu hc hop

theorem exec_keyreg_refused (h : s.trust.locked ∨ 8 ≤ c.arg 24 8 ∨ s.outside (c.arg 16 8) 1793 = none) :
    exec .keyreg s = .next (s.fails s.unit 0x11) := by
  have hn : (if s.trust.locked ∨ 8 ≤ c.arg 24 8 then none else s.outside (c.arg 16 8) 1793) = none := by
    rw [← or_assoc] at h
    exact ite_eq_left_iff.mpr h.resolve_left
  refine (queueEvent_next hu _).trans (congrArg _ ?_)
  simp only [State.command?_mgmt hc hop, hn]

theorem exec_keyreg_registers {key : List Byte} (hl : s.trust.locked = false) (hslot : c.arg 24 8 < 8)
    (hk : s.outside (c.arg 16 8) 1793 = some key) : exec .keyreg s = .next
      (((s.onTrust fun t => { t with keys := t.keys.set (c.arg 24 8) key }).measure 4 (toLE 8 (c.arg 24 8))
        (Config.shake256 key)).finish s.unit 0 0) := by
  have hn : ¬ (s.trust.locked ∨ 8 ≤ c.arg 24 8) := by simp [hl, hslot]
  refine (queueEvent_next hu _).trans (congrArg _ ?_)
  simp only [State.command?_mgmt hc hop, if_neg hn, hk]
  rfl

theorem exec_keylock : exec .keylock s = .next
    ((((s.drawBytes 64).2.onTrust fun t => { t with locked := true }).measure 5 [] (s.drawBytes 64).1).finish s.unit 0 0) := by
  refine (queueEvent_next hu _).trans (congrArg _ ?_)
  simp only [State.command?_mgmt hc hop]
  rfl

theorem exec_codefloor_refused (h : 255 < c.arg 24 8 ∨ c.arg 24 8 < s.trust.codefloor) :
    exec .codefloor s = .next (s.fails s.unit 0x11) := by
  refine (queueEvent_next hu _).trans (congrArg _ ?_)
  simp only [State.command?_mgmt hc hop, if_pos h]

theorem exec_codefloor_raises (hlo : s.trust.codefloor ≤ c.arg 24 8) (hhi : c.arg 24 8 ≤ 255) :
    exec .codefloor s = .next ((((s.drawBytes 64).2.onTrust fun t => { t with codefloor := c.arg 24 8 }.purge false).measure 6
      (toLE 8 (c.arg 24 8)) (s.drawBytes 64).1).finish s.unit 0 (c.arg 24 8)) := by
  have hn : ¬ (255 < c.arg 24 8 ∨ c.arg 24 8 < s.trust.codefloor) := by omega
  refine (queueEvent_next hu _).trans (congrArg _ ?_)
  simp only [State.command?_mgmt hc hop, if_neg hn]
  rfl

theorem exec_fwupdate_unread (h : 2 ^ 25 < c.arg 24 8 ∨ s.outside (c.arg 16 8) (c.arg 24 8) = none) :
    exec .fwupdate s = .next (s.fails s.unit 0x11) := by
  have hn : (if 2 ^ 25 < c.arg 24 8 then none else s.outside (c.arg 16 8) (c.arg 24 8)) = none :=
    ite_eq_left_iff.mpr h.resolve_left
  refine (queueEvent_next hu _).trans (congrArg _ ?_)
  simp only [State.command?_mgmt hc hop, hn]

/-- An image that can be read: its signature, then its SVN. -/
theorem exec_fwupdate_read {image : List Byte} (hlen : c.arg 24 8 ≤ 2 ^ 25)
    (hi : s.outside (c.arg 16 8) (c.arg 24 8) = some image) : exec .fwupdate s = .next (
      if Config.firmwareSigned image = false then s.fails s.unit 0x13
      else if Config.firmwareSvn image < s.trust.fuseSvn then s.fails s.unit 0x14
      else (s.onTrust fun t => { t with flash := image }.addEntry
        { firmware := true, hash := Config.shake256 image, svn := Config.firmwareSvn image, key := Config.fuse 1 }).finish
          s.unit 0 0) := by
  refine (queueEvent_next hu _).trans (congrArg _ ?_)
  simp only [State.command?_mgmt hc hop, if_neg (Nat.not_lt.mpr hlen), hi, Bool.not_eq_true']

theorem exec_svncommit_refused (h : s.trust.fwSvn < c.arg 24 8 ∨ c.arg 24 8 < s.trust.fuseSvn) :
    exec .svncommit s = .next (s.fails s.unit 0x11) := by
  refine (queueEvent_next hu _).trans (congrArg _ ?_)
  simp only [State.command?_mgmt hc hop, if_pos h]

theorem exec_svncommit_notes (hlo : s.trust.fuseSvn ≤ c.arg 24 8) (hhi : c.arg 24 8 ≤ s.trust.fwSvn) :
    exec .svncommit s = .next ((s.onTrust fun t => { t with commit := some (c.arg 24 8) }).finish s.unit 0 (c.arg 24 8)) := by
  have hn : ¬ (s.trust.fwSvn < c.arg 24 8 ∨ c.arg 24 8 < s.trust.fuseSvn) := by omega
  refine (queueEvent_next hu _).trans (congrArg _ ?_)
  simp only [State.command?_mgmt hc hop, if_neg hn]

theorem exec_mgmtNonce : exec .mgmtNonce s = .next
    (((s.drawBytes 8).2.onTrust fun t => { t with nonce := some (BitVec.ofNat 64 (ofLE (s.drawBytes 8).1)) }).finish s.unit 0
      (ofLE (s.drawBytes 8).1)) := by
  refine (queueEvent_next hu _).trans (congrArg _ ?_)
  simp only [State.command?_mgmt hc hop]
  rfl

/-! ## Starts by command: the completion, then the start -/

theorem exec_mgmtWarmstart (h0 : s.trust.start = 0) (h1 : s.trust.ps = 0) : exec .mgmtWarmstart s = .next
    (((s.finish s.unit 0 0).onTrust fun t => { t with scopeNext := t.scope }).beginWarm (s.finish s.unit 0 0).trust.dbg) := by
  have hf := s.finish_trust s.unit 0 0
  rw [← State.askWarm_keeps_debug (cause := .mgmtWarm) (by rw [hf, h0]) (by rw [hf, h1]) (by decide) (by decide) (by decide)]
  refine (queueEvent_next hu _).trans (congrArg _ ?_)
  rw [State.command?_mgmt hc hop]
  rfl

theorem exec_mgmtColdstart (ht : s.trust.trip = false) : exec .mgmtColdstart s = .next (s.finish s.unit 0 0).beginCold := by
  rw [← State.askCold_begins (.inl ((congrArg Trust.trip (s.finish_trust s.unit 0 0)).trans ht))]
  refine (queueEvent_next hu _).trans (congrArg _ ?_)
  rw [State.command?_mgmt hc hop]
  rfl

theorem exec_mgmtLock_refused (h : s.trust.dbg ≠ 1) : exec .mgmtLock s = .next (s.fails s.unit 0x11) := by
  refine (queueEvent_next hu _).trans (congrArg _ ?_)
  simp only [State.command?_mgmt hc hop, if_pos h]

theorem exec_mgmtLock_begins (h : s.trust.dbg = 1) (h0 : s.trust.start = 0) (h1 : s.trust.ps = 0) : exec .mgmtLock s = .next
    (((s.finish s.unit 0 0).onTrust fun t => { t with dbgNext := some 0 }).beginWarm 0) := by
  have hf := s.finish_trust s.unit 0 0
  rw [← State.askWarm_transition (cause := .lock) (by rw [State.onTrust_trust, hf, h0]) (by rw [State.onTrust_trust, hf, h1])
    (.inr rfl) rfl]
  refine (queueEvent_next hu _).trans (congrArg _ ?_)
  simp only [State.command?_mgmt hc hop, if_neg (not_not_intro h)]

end

/-! ## Tokens (R119, R126) -/

section
variable {s : State} {c : Command} (hc : (s.queue s.unit).cmd = some c) (hop : c.op = 8) (kind : Nat) {listed : Bool}
  (act : State → List Byte → State)
include hc hop

theorem State.withToken_refused (h : listed = false ∨ c.arg 24 8 ≠ 1360 ∨ s.outside (c.arg 16 8) 1360 = none) :
    s.withToken kind listed act = s.fails s.unit 0x11 := by
  have hn : (if !listed ∨ c.arg 24 8 ≠ 1360 then none else s.outside (c.arg 16 8) 1360) = none := by
    rw [← Bool.not_eq_true', ← or_assoc] at h
    exact ite_eq_left_iff.mpr h.resolve_left
  simp only [State.withToken, State.command?_mgmt hc hop, hn]

variable {b : List Byte} (hl : listed = true) (hlen : c.arg 24 8 = 1360) (hb : s.outside (c.arg 16 8) 1360 = some b)
include hl hlen hb

/-- A token that is read consumes the nonce. -/
theorem State.withToken_read : s.withToken kind listed act =
    if s.trust.tokenGood kind b then act ((s.onTrust fun t => { t with nonce := none }).finish s.unit 0 0) b
    else (s.onTrust fun t => { t with nonce := none }).fails s.unit 0x13 := by
  have hn : ¬ (!listed ∨ c.arg 24 8 ≠ 1360) := by simp [hl, hlen]
  simp only [State.withToken, State.command?_mgmt hc hop, if_neg hn, hb]
  rfl

end

/-- The nonce is consumed and the completion of a good token is written. -/
def State.tokenTaken (s : State) : State := (s.onTrust fun t => { t with nonce := none }).finish s.unit 0 0

theorem State.tokenTaken_trust (s : State) : s.tokenTaken.trust = { s.trust with nonce := none } :=
  State.finish_trust _ _ _ _

theorem State.tokenTaken_mem (s : State) : s.tokenTaken.mem = (s.finish s.unit 0 0).mem := State.finish_mem_onTrust _ _ _ _ _

/-- What UNLOCK asks for, with its token's scope. -/
def State.unlocking (s : State) (b : List Byte) : State :=
  s.onTrust fun t => { t with dbgNext := some 1, scopeNext := BitVec.ofNat 3 (field b 9 1) }

/-- The Failure-analysis fuse is blown, and the keys are gone. -/
def State.fuseBlown (s : State) : State :=
  s.onTrust fun t => { t with faFuse := true, idKey := [], attKey := [], keys := [] }

section
variable {s : State} {c : Command} (hu : s.unit < 64) (hc : (s.queue s.unit).cmd = some c) (hop : c.op = 8)
include hu hc hop

theorem exec_mgmtUnlock_refused (h : s.trust.dbg ≠ 0 ∨ c.arg 24 8 ≠ 1360 ∨ s.outside (c.arg 16 8) 1360 = none) :
    exec .mgmtUnlock s = .next (s.fails s.unit 0x11) :=
  (queueEvent_next hu _).trans (congrArg _ (State.withToken_refused hc hop _ _ (h.imp_left beq_eq_false_iff_ne.mpr)))

theorem exec_mgmtFaenter_refused (h : s.trust.dbg = 2 ∨ c.arg 24 8 ≠ 1360 ∨ s.outside (c.arg 16 8) 1360 = none) :
    exec .mgmtFaenter s = .next (s.fails s.unit 0x11) :=
  (queueEvent_next hu _).trans (congrArg _ (State.withToken_refused hc hop _ _ (h.imp_left bne_eq_false_iff_eq.mpr)))

variable {b : List Byte} (hlen : c.arg 24 8 = 1360) (hb : s.outside (c.arg 16 8) 1360 = some b)
include hlen hb

theorem exec_mgmtUnlock_good (hd : s.trust.dbg = 0) (h0 : s.trust.start = 0) (h1 : s.trust.ps = 0)
    (hg : s.trust.tokenGood 1 b) : exec .mgmtUnlock s = .next ((s.tokenTaken.unlocking b).beginWarm 1) := by
  have hf := s.tokenTaken_trust
  rw [← State.askWarm_transition (s := s.tokenTaken.unlocking b) (cause := .unlock)
    (by rw [State.unlocking, State.onTrust_trust, hf, h0]) (by rw [State.unlocking, State.onTrust_trust, hf, h1]) (.inl rfl) rfl]
  refine (queueEvent_next hu _).trans (congrArg _ ?_)
  rw [State.withToken_read hc hop _ _ (beq_iff_eq.mpr hd) hlen hb, if_pos hg]
  rfl

theorem exec_mgmtUnlock_bad (hd : s.trust.dbg = 0) (hg : s.trust.tokenGood 1 b = false) :
    exec .mgmtUnlock s = .next ((s.onTrust fun t => { t with nonce := none }).fails s.unit 0x13) := by
  refine (queueEvent_next hu _).trans (congrArg _ ?_)
  rw [State.withToken_read hc hop _ _ (beq_iff_eq.mpr hd) hlen hb, hg]
  rfl

theorem exec_mgmtFaenter_good (hd : s.trust.dbg ≠ 2) (hg : s.trust.tokenGood 2 b) :
    exec .mgmtFaenter s = .next s.tokenTaken.fuseBlown.askCold := by
  refine (queueEvent_next hu _).trans (congrArg _ ?_)
  rw [State.withToken_read hc hop _ _ (bne_iff_ne.mpr hd) hlen hb, if_pos hg]
  rfl

theorem exec_mgmtFaenter_bad (hd : s.trust.dbg ≠ 2) (hg : s.trust.tokenGood 2 b = false) :
    exec .mgmtFaenter s = .next ((s.onTrust fun t => { t with nonce := none }).fails s.unit 0x13) := by
  refine (queueEvent_next hu _).trans (congrArg _ ?_)
  rw [State.withToken_read hc hop _ _ (bne_iff_ne.mpr hd) hlen hb, hg]
  rfl

end

/-- A cold start asked for keeps fuses, keys and nonce, whether or not it begins at once. -/
theorem State.askCold_trust_keys (s : State) : s.askCold.trust.faFuse = s.trust.faFuse ∧ s.askCold.trust.idKey = s.trust.idKey ∧
    s.askCold.trust.attKey = s.trust.attKey ∧ s.askCold.trust.keys = s.trust.keys ∧ s.askCold.trust.nonce = s.trust.nonce := by
  unfold State.askCold
  split
  · exact ⟨rfl, rfl, rfl, rfl, rfl⟩
  · rw [State.beginCold_trust]
    exact ⟨rfl, rfl, rfl, rfl, rfl⟩

theorem State.fuseBlown_askCold (s : State) : let t := s.tokenTaken.fuseBlown.askCold.trust
    t.faFuse ∧ t.idKey = [] ∧ t.attKey = [] ∧ t.keys = [] ∧ t.nonce = none ∧
      (s.trust.trip = false → t.start = 1 ∧ t.step = 1) := by
  obtain ⟨hfuse, hid, hatt, hkeys, hnonce⟩ := s.tokenTaken.fuseBlown.askCold_trust_keys
  refine ⟨hfuse, hid, hatt, hkeys, hnonce.trans (congrArg Trust.nonce s.tokenTaken_trust), fun ht => ?_⟩
  have htrip : s.tokenTaken.fuseBlown.trust.trip = false := (congrArg Trust.trip s.tokenTaken_trust).trans ht
  rw [State.askCold_begins (.inl htrip), State.beginCold_trust]
  exact ⟨rfl, rfl⟩

/-! ## Attestation (R112, R120) -/

theorem padTo_length (n : Nat) (b : List Byte) : (padTo n b).length = n := by
  simp [padTo]

theorem shake256_length (b : List Byte) : (Config.shake256 b).length = 64 := Vector.length_toList

theorem falconSign_length (key message : List Byte) : (Config.falconSign key message).length = 1280 := Vector.length_toList

theorem publicKey_length (key : List Byte) : (Config.publicKey key).length = 1793 := Vector.length_toList

theorem logEntry_length (type : Nat) (data digest : List Byte) : (logEntry type data digest).length = 80 := by
  simp [logEntry, toLE_length, padTo_length]

theorem Trust.report_length {t : Trust} (h : ∀ e ∈ t.mlog, e.length = 80) (nonce : List Byte) :
    (t.report nonce).length = 4529 + 80 * t.mlog.length := by
  have hlog : t.mlog.flatten.length = 80 * t.mlog.length := by
    rw [List.length_flatten, List.map_congr_left h, List.map_const', List.sum_replicate_nat, Nat.mul_comm]
  unfold Trust.report
  dsimp only
  split
  · simp only [List.length_append, List.length_replicate, toLE_length, padTo_length, shake256_length, hlog]
    omega
  · simp only [List.length_append, toLE_length, padTo_length, shake256_length, publicKey_length, falconSign_length, hlog]
    omega

section
variable {s : State} {c : Command} (hc : (s.queue s.unit).cmd = some c) (hop : c.op = 9)
include hc hop

theorem State.command?_attest : s.command? s.unit 9 = some c := by
  simp [State.command?, hc, hop]

variable (hu : s.unit < 64)
include hu

theorem exec_attest_refused (h : s.outside (c.arg 8 8) 32 = none ∨ c.arg 24 4 < 4529 + 80 * s.trust.mlog.length ∨
    s.outside (c.arg 16 8) (4529 + 80 * s.trust.mlog.length) = none) : exec .attest s = .next (s.fails s.unit 0x11) := by
  refine (queueEvent_next hu _).trans (congrArg _ ?_)
  simp only [State.command?_attest hc hop]
  rcases h with h | h
  · simp only [h]
  · rw [ite_eq_left_iff.mpr h.resolve_left]
    cases s.outside (c.arg 8 8) 32 <;> rfl

theorem exec_attest_writes {nonce old : List Byte} (hn : s.outside (c.arg 8 8) 32 = some nonce)
    (hlen : 4529 + 80 * s.trust.mlog.length ≤ c.arg 24 4)
    (ho : s.outside (c.arg 16 8) (4529 + 80 * s.trust.mlog.length) = some old) : exec .attest s = .next
      ((s.homeWrite (placeAt (c.arg 16 8) (s.trust.report nonce))).finish s.unit 0 (4529 + 80 * s.trust.mlog.length)) := by
  refine (queueEvent_next hu _).trans (congrArg _ ?_)
  simp only [State.command?_attest hc hop, hn, if_neg (Nat.not_lt.mpr hlen), ho]

end

/-! ## O44 -/

/-- Settles O44: the equation of each command, one clause of the statement after the other. -/
theorem managementCommands : Obligations.ManagementCommands := by
  unfold Obligations.ManagementCommands
  refine ⟨⟨fun c s hu hc hop => ⟨exec_keyreg_refused hu hc hop, fun key => exec_keyreg_registers hu hc hop⟩,
      fun c s hu hc hop => ⟨_, exec_keylock hu hc hop⟩,
      fun c s hu hc hop => ⟨exec_codefloor_refused hu hc hop, fun hlo hhi => ⟨(s.drawBytes 64).1, ?_⟩⟩,
      fun c s hu hc hop => ⟨exec_fwupdate_unread hu hc hop, fun image hlen hi => ?_⟩,
      fun c s hu hc hop => ⟨exec_svncommit_refused hu hc hop, exec_svncommit_notes hu hc hop⟩,
      fun T e x => ⟨fun _ => T.addEntry_length e, T.mem_addEntry e, Trust.mem_of_mem_addEntry⟩⟩,
    fun c s hu hc hop => ⟨_, exec_mgmtNonce hu hc hop, BitVec.ofNat 64 (ofLE (s.drawBytes 8).1), ?_⟩,
    fun c s hu hc hop => ⟨exec_mgmtUnlock_refused hu hc hop, fun b hd hlen hb h0 h1 =>
      ⟨fun hg => ⟨_, exec_mgmtUnlock_good hu hc hop hlen hb hd h0 h1 hg, ?_⟩, exec_mgmtUnlock_bad hu hc hop hlen hb hd⟩⟩,
    fun c s hu hc hop => ⟨exec_mgmtLock_refused hu hc hop, fun hd h0 h1 =>
      ⟨_, exec_mgmtLock_begins hu hc hop hd h0 h1, ?_⟩⟩,
    fun c s hu hc hop => ⟨exec_mgmtFaenter_refused hu hc hop, fun b hd hlen hb =>
      ⟨fun hg => ⟨_, exec_mgmtFaenter_good hu hc hop hlen hb hd hg, s.fuseBlown_askCold⟩,
        exec_mgmtFaenter_bad hu hc hop hlen hb hd⟩⟩,
    fun c s hu hc hop h0 h1 => ⟨_, exec_mgmtWarmstart hu hc hop h0 h1, ?_⟩,
    fun c s hu hc hop ht => ⟨_, exec_mgmtColdstart hu hc hop ht, State.beginCold_mem _, ?_⟩,
    fun c s hu hc hop => ⟨exec_attest_refused hc hop hu, fun nonce old => exec_attest_writes hc hop hu⟩,
    fun T nonce h => Trust.report_length h nonce, logEntry_length⟩
  · rw [exec_codefloor_raises hu hc hop hlo hhi]
    simp only [Trust.purge_code]
    rfl
  · rw [exec_fwupdate_read hu hc hop hlen hi]
    refine ⟨fun hsig => congrArg _ (if_pos hsig), fun hsig hsvn => ?_, fun hsig hsvn => ?_⟩
    · rw [if_neg (by simp [hsig]), if_pos hsvn]
    · rw [if_neg (by simp [hsig]), if_neg (Nat.not_lt.mpr hsvn)]
      refine ⟨_, rfl, ⟨_, rfl⟩, ?_⟩
      rw [State.finish_trust]
      exact ⟨_, Trust.mem_addEntry _ _, rfl, rfl, rfl⟩
  · rw [BitVec.toNat_ofNat, Nat.mod_eq_of_lt s.ofLE_drawBytes]
    rfl
  · rw [State.beginWarm_mem, State.beginWarm_trust, State.unlocking, State.onTrust_mem, State.onTrust_trust]
    exact ⟨s.tokenTaken_mem, by rw [s.tokenTaken_trust]⟩
  · rw [State.beginWarm_mem, State.beginWarm_trust, State.onTrust_mem, State.onTrust_trust, State.finish_trust]
    exact ⟨rfl, rfl⟩
  · rw [State.beginWarm_mem, State.beginWarm_trust, State.onTrust_mem, State.onTrust_trust, State.finish_trust]
    exact ⟨rfl, rfl⟩
  · rw [State.beginCold_trust, State.finish_trust, ← ht]

end Sys2Proof.Machine
